-- ==== Sys2Proof/Word.lean ====
section
/-!
DEFINITION. The plain bit-vector types of the RHD840 and the two accessors of its fixed-size tables.
-/
namespace Sys2Proof

/-- One byte of a frame, of a tag or of a page. -/
abbrev Byte := BitVec 8

/-- A 16-bit sample word, and every other 16-bit field (the scope file: sample words are 16-bit unsigned quantities). -/
abbrev Word := BitVec 16

/-- Device time: a 32-bit count of microseconds that wraps (R186). -/
abbrev Time := BitVec 32

/-- Entry `i` of a table of `n` like things (the 1024 unit records, the 8 streams, the 32 page buffers ...). -/
def vget {α : Type} {n : Nat} (v : Vector α n) (i : Fin n) : α := v[i.val]

/-- The table with entry `i` replaced. -/
def vset {α : Type} {n : Nat} (v : Vector α n) (i : Fin n) (x : α) : Vector α n := v.set i.val x

@[simp] theorem vget_vset_self {α : Type} {n : Nat} (v : Vector α n) (i : Fin n) (x : α) :
    vget (vset v i x) i = x := by
  simp [vget, vset]

theorem vget_vset {α : Type} {n : Nat} (v : Vector α n) (i j : Fin n) (x : α) :
    vget (vset v i x) j = if i = j then x else vget v j := by
  simp [vget, vset, Vector.getElem_set, Fin.ext_iff]

@[simp] theorem vget_vset_ne {α : Type} {n : Nat} (v : Vector α n) {i j : Fin n} (x : α) (h : i ≠ j) :
    vget (vset v i x) j = vget v j := by
  simp [vget_vset, h]

@[simp] theorem vget_replicate {α : Type} {n : Nat} (x : α) (i : Fin n) :
    vget (Vector.replicate n x) i = x := by
  simp [vget]

end Sys2Proof
end

