-- ==== Sys2Proof/Config.lean ====
section
/-!
DEFINITION. What an RHD840 is made of (the sizes of its Device Summary), the page as a slot holds it (R215), and the
free values: the constants with no body that stand for what the specification leaves undefined or does not state.
-/
namespace Sys2Proof

/-- An erase unit of the array, 0 to 1023 (R1). Units 0 and 1 are the table units. -/
abbrev UnitId := Fin 1024
/-- A stream, S0 to S7. -/
abbrev StreamId := Fin 8
/-- A capture lane, L0 to L5. -/
abbrev LaneId := Fin 6
/-- An external trigger pin, EXT0 to EXT3. -/
abbrev PinId := Fin 4
/-- An interval timer, T0 to T2. -/
abbrev TimerId := Fin 3
/-- A page buffer, 0 to 31 (R91). -/
abbrev BufId := Fin 32
/-- A read staging buffer, 0 or 1 (R138). -/
abbrev StagingId := Fin 2

/-- The 24 tag bytes of a slot, field by field, with the sizes of R215: a value of this type is exactly 24 bytes. -/
structure Tag where
  mark : Byte
  stream : Byte
  flags : Byte
  slot : Byte
  wordCount : Word
  pageNumber : BitVec 32
  runNumber : Word
  droppedBefore : Word
  firstWordTime : Time
  origin : Word
  dataCrc : Word
  tagCrc : Word
  deriving DecidableEq, Repr, Inhabited

/-- The 536 bytes of one slot: 256 data words (512 bytes, R1 and R215) and the tag. -/
structure Page where
  data : Vector Word 256
  tag : Tag
  deriving DecidableEq, Repr, Inhabited

/-- FREE VALUE (assumption 1). What a slot reads after a failed or cut PROGRAM (undefined data, a tag that is INVALID: R7, R19)
or after a failed or cut ERASE (undefined slot by slot: R9, R19), by the number of free values drawn before. -/
opaque Config.freePage : Nat → Page

/-- FREE VALUE (assumption 2). Whether a notice is taken before a reply when one happening brings both to an IDLE
transmitter; R199 says that they are taken in either order. -/
opaque Config.noticeFirst : Nat → Bool

/-- FREE VALUE (assumption 3). The lowest and the highest erase count of MAP SUMMARY when every data unit is RETIRED: R45 ranges
over the data units that are not RETIRED and states no value when there are none. -/
opaque Config.freeEraseCount : Nat → Word

/-- FREE VALUE (assumption 4). The table slot in the CHECKPOINT reply of a checkpoint that wrote nothing because the sequence
number is exhausted (R168): R173 names no slot for it. -/
opaque Config.freeTableSlot : Nat → Byte

/-- FREE VALUE (assumption 34). Whether a FLUSH of a stream whose run WORN entry ended, and whose held page it discarded, is answered NO_SPACE
(R137) or as a stream that is not STARVED (R113, steps 4 and 5, R136): the rules disagree. -/
opaque Config.flushNoSpace : Nat → Bool

end Sys2Proof
end

