-- ==== Sys2Proof/Syntax.lean ====
section
/-!
DEFINITION. The commands of the RHD840: one constructor for each row of spec/opcode_table.json, each a whole, indivisible
happening (file 95_what_each_step_holds.md).
-/
namespace Sys2Proof

/-- The levels of the two rate straps, sampled at a reset (R185, R187); `true` is high. -/
structure Straps where
  rate1 : Bool
  rate0 : Bool
  deriving DecidableEq, Repr

/-- The commands. A request row carries the frame TAG and the payload bytes that follow KIND and TAG in the BODY (R189, R213),
so that a frame of the wrong length is a command as well (R193, check 5). -/
inductive Instr where
  /-- The supply comes up; the straps and the EXT levels are those of that moment (R185). -/
  | powerOn (straps : Straps) (ext : BitVec 4)
  /-- A falling edge on RST# (R185). -/
  | rstAssert (straps : Straps)
  /-- RST# returns high; the EXT levels are those of that moment (R185, R79). -/
  | rstRelease (ext : BitVec 4)
  /-- The 5 ms hold of TXD after a reset ends (R203). -/
  | txHoldEnd
  /-- The 2 ms inter-byte timer runs out (R191). -/
  | interByteTimeout
  /-- A received frame is discarded: LEN out of range, a line error or a CRC mismatch (R192). -/
  | frameDiscard
  /-- A correct frame whose KIND is no request kind (R193, check 1). -/
  | badKindFrame (kind tag : Byte) (payload : List Byte)
  | hello (tag : Byte) (payload : List Byte)
  | status (tag : Byte) (payload : List Byte)
  | reset (tag : Byte) (payload : List Byte)
  | shutdown (tag : Byte) (payload : List Byte)
  | checkpoint (tag : Byte) (payload : List Byte)
  | setNoticeMask (tag : Byte) (payload : List Byte)
  | ackNotice (tag : Byte) (payload : List Byte)
  | defineStream (tag : Byte) (payload : List Byte)
  | arm (tag : Byte) (payload : List Byte)
  | fire (tag : Byte) (payload : List Byte)
  | stop (tag : Byte) (payload : List Byte)
  | flush (tag : Byte) (payload : List Byte)
  | unbind (tag : Byte) (payload : List Byte)
  | streamInfo (tag : Byte) (payload : List Byte)
  /-- A TIMER request whose action byte is START, or no action at all (R89). -/
  | timerStart (tag : Byte) (payload : List Byte)
  /-- A TIMER request whose action byte is STOP (R89). -/
  | timerStop (tag : Byte) (payload : List Byte)
  | read (tag : Byte) (payload : List Byte)
  | release (tag : Byte) (payload : List Byte)
  | delete (tag : Byte) (payload : List Byte)
  | unitInfo (tag : Byte) (payload : List Byte)
  | mapSummary (tag : Byte) (payload : List Byte)
  /-- The last byte of a reply leaves TXD; the levels matter when the reply is that of a RESET (R198, R202). -/
  | replySent (straps : Straps) (ext : BitVec 4)
  /-- The last byte of a NOTICE frame leaves TXD (R199). -/
  | noticeFrameSent
  /-- A good word completes at a lane (R73). -/
  | laneGoodWord (lane : LaneId) (word : Word)
  /-- A word with a parity error, or a fragment at a boundary, arrives at a lane (R75). -/
  | laneBadWord (lane : LaneId) (fragment : Bool)
  /-- A recognised edge of an EXT pin to HIGH (`true`) or LOW (R79). -/
  | extEdge (pin : PinId) (high : Bool)
  /-- The remaining ticks of a timer reach 0 (R87). -/
  | timerExpiry (timer : TimerId)
  /-- The array reports done for a PROGRAM, with its verify passed or failed (R7). -/
  | programDone (pass : Bool)
  | programTimeout
  /-- The array reports done for a READ; `asRead` is what the cells read when they have drifted from what was stored
  (assumption 5), `none` when they read as stored (R8). -/
  | readDone (asRead : Option Page)
  | readTimeout
  /-- The array reports done for an ERASE, with its verify passed or failed (R9). -/
  | eraseDone (pass : Bool)
  | eraseTimeout
  | lateDoneDiscard
  | programGrant
  | readGrant
  | eraseGrant
  | checkpointStart
  | checkpointOpGrant
  | relocationStepGrant
  | mountReadGrant
  | bufferGrant
  | starvedRelief
  | relocationStart
  | flushComplete
  | shutdownComplete
  /-- A byte arrives on RXD; `lineError` when its stop bit reads low (R187, R190). -/
  | rxdByte (byte : Byte) (lineError : Bool)
  /-- A rising edge of LnCLK, with the level of LnDAT (R72). -/
  | lnclkRisingEdge (lane : LaneId) (dat : Bool)
  /-- LnCLK has stayed low for at least 2 µs (R72). -/
  | laneWordBoundary (lane : LaneId)
  /-- 100 µs of a RUNNING timer pass, short of its expiry (R87). -/
  | timerTick (timer : TimerId)
  /-- One microsecond passes (R186). -/
  | deviceTimeTick
  /-- The supply is removed or falls out of range (R185). -/
  | powerLoss
  deriving DecidableEq, Repr

end Sys2Proof
end

