-- ==== Sys2Proof/Decode.lean ====
section
/-!
DEFINITION. The commands that a word of opcode-table bits spells. No row of spec/opcode_table.json gives bits (its rows list
no fields): the device takes commands as frames, pin events and array reports, so no word spells one.
-/
namespace Sys2Proof

/-- The command that the `nbits` table bits `w` spell: none, for no row of the table gives bits. -/
def decodeTableWord (_nbits _w : Nat) : Option Instr := none

end Sys2Proof
end

