-- ==== Sys2Proof/Machine/State.lean ====
section
/-!
DEFINITION. The state of the RHD840, block by block as the functional overview lists the blocks, and the machine right after a
reset. Everything is plain data.
-/
namespace Sys2Proof.Machine

/-! ## The array and its engine -/

/-- The nonvolatile array: (slot address, contents) in one canonical form, addresses strictly rising and no entry that reads as an
erased slot. Slot `k` of unit `u` has address `64 * u + k`. An unlisted slot is erased (R1). -/
abbrev Memory := List (Nat × Page)

/-- The class of a tag as read (R4). -/
inductive TagClass where
  | blank | valid | invalid
  deriving DecidableEq, Repr

/-- The three operations of the array engine. -/
inductive OpKind where
  | program | read | erase
  deriving DecidableEq, Repr

/-- Who asked for an operation (R6). -/
inductive Requester where
  | mountStep | relocationStep | checkpointStep | eraseProcess | readPath | programQueue
  deriving DecidableEq, Repr

/-- The buffer that a PROGRAM or READ concerns (R7, R8). -/
inductive BufferRef where
  | pageBuffer (b : BufId) | copyBuffer | staging (i : StagingId) | scanBuffer | tableBuffer
  deriving DecidableEq, Repr

/-- The CRC mode of a PROGRAM (R7). -/
inductive CrcMode where
  | compute | keep
  deriving DecidableEq, Repr

/-- The operation in progress (R6). -/
structure Operation where
  kind : OpKind
  unit : UnitId
  slot : Option Nat
  requester : Requester
  buffer : Option BufferRef
  crcMode : Option CrcMode
  startTime : Time
  deriving DecidableEq, Repr

/-- The array engine's state (R6). The port is BUSY exactly while `op` is present. -/
structure Engine where
  op : Option Operation
  readBalance : Nat
  deriving DecidableEq, Repr

/-- A slot as a READ reports it: its tag class, its data check and its bytes (R4, R8). -/
structure ReadResult where
  cls : TagClass
  dataGood : Bool
  page : Page
  deriving DecidableEq, Repr

/-! ## The unit map -/

/-- The states of a unit (R22), and `unclassified` for a data unit that the mount scan has not settled (R21). -/
inductive UnitState where
  | free | opened | full | frozen | dirty | erasing | target | retired | table | unclassified
  deriving DecidableEq, Repr

/-- A unit record (R22). -/
structure UnitRec where
  state : UnitState
  eraseCount : Nat
  owner : Option StreamId
  firstPage : Option Nat
  assigned : Nat
  programmed : Nat
  closed : Bool
  deriving DecidableEq, Repr

/-- The unit map (R21). -/
structure UnitMap where
  units : Vector UnitRec 1024
  freeList : List UnitId
  dirtyList : List UnitId
  chains : Vector (List UnitId) 8
  retiredSet : List UnitId
  retiredCount : Nat
  erasesSince : Nat
  deriving DecidableEq, Repr

/-! ## The stream table -/

inductive StreamState where
  | undefined | dormant | bound | armed | capturing | faulted
  deriving DecidableEq, Repr

inductive StreamMode where
  | continuous | count | gate
  deriving DecidableEq, Repr

/-- A trigger source (the table before R77). -/
inductive TriggerSource where
  | immediate
  | host
  | ext (pin : PinId) (rising : Bool)
  | timer (t : TimerId)
  | level
  | peer
  deriving DecidableEq, Repr

/-- The causes of a run end (R58). -/
inductive EndCause where
  | count | stop | stopSource | gate | limit | worn | shutdown | fault
  deriving DecidableEq, Repr

/-- A stream's configuration: the nine fields from lane to rearm (R46, R47). -/
structure StreamConfig where
  lane : LaneId
  mode : StreamMode
  count : Option Nat
  skip : Nat
  start : TriggerSource
  stop : Option TriggerSource
  peer : Option StreamId
  threshold : Option Word
  rearm : Bool
  deriving DecidableEq, Repr

/-- A gap: the first missing page and how many pages are missing (R51). -/
structure Gap where
  first : Nat
  count : Nat
  deriving DecidableEq, Repr

/-- A stream record (R46). -/
structure StreamRec where
  state : StreamState
  config : Option StreamConfig
  runNumber : Word
  runStartPending : Bool
  keptWords : Nat
  skipCounter : Nat
  basePage : Nat
  endPage : Nat
  gaps : List Gap
  inFlight : Nat
  droppedInRun : Nat
  droppedTotal : Nat
  lostTotal : Nat
  overrun : Bool
  starved : Bool
  relocating : Bool
  endCause : Option EndCause
  deriving DecidableEq, Repr

/-! ## Lanes, trigger matrix and timers -/

/-- Where a lane stands in the bits of a word (R71, R72): waiting for its first word boundary, inside a word (the bits so far, first
bit first), or after a word's 17th bit with no boundary since (the number of bits since, up to 16). -/
inductive LanePhase where
  | awaitBoundary
  | inWord (bits : List Bool)
  | afterWord (extra : Nat)
  deriving DecidableEq, Repr

/-- A lane input (R70); `listening` is the lane state LISTENING. -/
structure Lane where
  listening : Bool
  phase : LanePhase
  goodWords : BitVec 32
  parityErrors : Nat
  faultReported : Bool
  deriving DecidableEq, Repr

/-- An interval timer (R86), with the device time at which its present tick began (R87). -/
structure Timer where
  running : Bool
  period : Nat
  periodic : Bool
  remaining : Nat
  tickStart : Time
  deriving DecidableEq, Repr

/-- The trigger matrix: the last sampled level of each EXT pin (R79), bit `n` for EXTn, and the timers. -/
structure Triggers where
  ext : BitVec 4
  timers : Vector Timer 3
  deriving DecidableEq, Repr

/-! ## The buffer manager -/

/-- The five places of a page buffer (R91). -/
inductive BufPlace where
  | pool | fill (st : StreamId) | held (st : StreamId) | queued | failed
  deriving DecidableEq, Repr

/-- The tag content fields that a page takes at its seal (R100). -/
structure SealInfo where
  pageNumber : Nat
  runNumber : Word
  runStart : Bool
  gap : Bool
  droppedBefore : Nat
  wordCount : Nat
  deriving DecidableEq, Repr

/-- A page buffer (R91). `words` are the words placed so far; a seal fills them up to 256 with 0xFFFF. -/
structure PageBuf where
  place : BufPlace
  words : List Word
  stream : Option StreamId
  firstWordTime : Time
  sealed : Option SealInfo
  unit : Option UnitId
  slot : Option Nat
  deriving DecidableEq, Repr

/-- A program queue entry (R108). -/
structure QueueEntry where
  buf : BufId
  stream : StreamId
  unit : UnitId
  slot : Nat
  pageNumber : Nat
  deriving DecidableEq, Repr

/-- A FLUSH that waits (R113), with the sealed indication its reply will carry. -/
structure FlushWaiter where
  tag : Byte
  stream : StreamId
  sealed : Bool
  deriving DecidableEq, Repr

/-- The buffer manager (R92). `heldAtWorn` is the model's own (assumption 34): the streams whose held pages WORN entry has discarded, on which R113
and R137 disagree when a FLUSH follows. -/
structure BufMgr where
  bufs : Vector PageBuf 32
  pool : List BufId
  fill : Vector (Option BufId) 8
  held : Vector (Option BufId) 8
  queue : List QueueEntry
  waitList : List StreamId
  starvedList : List StreamId
  flushWaiters : List FlushWaiter
  heldAtWorn : List StreamId
  deriving DecidableEq, Repr

/-! ## The relocation controller -/

inductive RelocPhase where
  | readDue | programDue | failedPageDue
  deriving DecidableEq, Repr

/-- A failure that waits for its relocation (R118). -/
structure RelocWait where
  stream : StreamId
  source : UnitId
  slot : Nat
  buf : BufId
  deriving DecidableEq, Repr

/-- The relocation in progress (R116). -/
structure Reloc where
  stream : StreamId
  source : UnitId
  slot : Nat
  buf : BufId
  target : Option UnitId
  attempt : Nat
  copyPos : Nat
  phase : RelocPhase
  deriving DecidableEq, Repr

/-- The relocation controller (R116). -/
structure RelocCtl where
  current : Option Reloc
  waitList : List RelocWait
  copyBuffer : Option Page
  standAside : Bool
  deriving DecidableEq, Repr

/-! ## The read-back path -/

/-- What a READ asked for (R138): an entry of the read wait list. -/
structure ReadReq where
  tag : Byte
  stream : StreamId
  pageNumber : Nat
  offset : Nat
  count : Nat
  deriving DecidableEq, Repr

/-- A staging buffer (R138): FREE, or IN USE for one READ, with the slot as read once the array read has ended. That it holds
no page before that, nor while it is FREE, is the model's choice (assumption 43). -/
inductive Staging where
  | free
  | inUse (req : ReadReq) (page : Option Page)
  deriving DecidableEq, Repr

/-- The read-back path (R138). -/
structure ReadPath where
  waitList : List ReadReq
  staging : Vector Staging 2
  deriving DecidableEq, Repr

/-! ## The checkpoint and mount controller -/

inductive DeviceState where
  | mounting | ready | worn | shuttingDown | halted
  deriving DecidableEq, Repr

/-- The snapshot of a checkpoint (R168): each unit's erase count and retired flag, the retired count and the copy's sequence
number. -/
structure Snapshot where
  entries : Vector (Nat × Bool) 1024
  retiredCount : Nat
  seqNo : Nat
  deriving DecidableEq, Repr

/-- The next operation of a checkpoint: the table-unit erase, or the program of page `i` (0 header, 1 to 4 entries, 5 commit:
R167, R169). -/
inductive CkptStep where
  | erase | page (i : Nat)
  deriving DecidableEq, Repr

/-- The checkpoint in progress (R165). -/
structure Ckpt where
  snapshot : Snapshot
  tableUnit : Fin 2
  tableSlot : Option Nat
  next : CkptStep
  final : Bool
  deriving DecidableEq, Repr

/-- An accepted CHECKPOINT request (R165). -/
structure CkptWaiter where
  tag : Byte
  covered : Bool
  deriving DecidableEq, Repr

/-- The shutdown record (R165): the SHUTDOWN request and the final-started flag; `outcome` is how the final checkpoint ended, from its
end to the completion that follows in the same happening (R183). -/
structure Shutdown where
  tag : Byte
  finalStarted : Bool
  outcome : Option Bool
  deriving DecidableEq, Repr

/-- How the count of a unit's valid pages ended (R177). -/
inductive ScanEnd where
  | blankEnd | badEnd | full
  deriving DecidableEq, Repr

/-- An owned unit as the scan found it (R176, R177). -/
structure Owned where
  unit : UnitId
  stream : StreamId
  first : Nat
  origin : Word
  count : Nat
  ending : ScanEnd
  slot63Blank : Bool
  lastRun : Word
  deriving DecidableEq, Repr

/-- The scan's result for one data unit (R176). -/
inductive ScanResult where
  | free (u : UnitId)
  | dirty (u : UnitId)
  | owned (o : Owned)
  deriving DecidableEq, Repr

/-- A valid copy of the unit table as read (R167, R175): where it stands, its sequence number and its 1024 entries. -/
structure TableCopy where
  seqNo : Nat
  tableUnit : Fin 2
  entries : List Word
  deriving DecidableEq, Repr

/-- The next read of the mount scan (R174), with what the scan must remember of the reads before it. -/
inductive ScanPos where
  | header (k : Fin 16)
  | commit (k : Fin 16) (hdr : ReadResult)
  | entry (k : Fin 16) (hdr cmt : ReadResult) (got : List ReadResult)
  | slot0 (u : UnitId)
  | slot63 (u : UnitId) (r0 : ReadResult)
  | count (u : UnitId) (r0 r63 : ReadResult) (next : Nat) (lastRun : Word)
  | blank (u : UnitId) (next : Nat)
  deriving DecidableEq, Repr

/-- The mount scan (R165, R174). `highUsed` is the highest used table slot of each table unit (R175). -/
structure Scan where
  pos : ScanPos
  best : Option TableCopy
  highUsed : Vector (Option Nat) 2
  results : List ScanResult
  buffer : Option Page
  deriving DecidableEq, Repr

/-- The checkpoint and mount controller (R165). -/
structure Ctl where
  device : DeviceState
  tableUnit : Fin 2
  nextSlot : Option Nat
  seqNo : Nat
  ckptPending : Bool
  ckpt : Option Ckpt
  waiters : List CkptWaiter
  shutdown : Option Shutdown
  scan : Option Scan
  tableBuffer : Option (Vector Word 256)
  deriving DecidableEq, Repr

/-! ## The host link -/

inductive Rate where
  | b115200 | b460800 | b921600 | b2000000
  deriving DecidableEq, Repr

/-- The request kinds of R193. -/
inductive ReqKind where
  | hello | status | reset | shutdown | checkpoint | setNoticeMask | ackNotice | defineStream | arm | fire | stop | flush
  | unbind | streamInfo | timer | read | release | delete | unitInfo | mapSummary
  deriving DecidableEq, Repr

/-- The receiver state with the frame in reception (R188, R190). -/
inductive RxState where
  | hunt
  | length
  | body (len : Nat) (got : List Byte)
  | crc (len : Nat) (got : List Byte) (first : Option Byte)
  deriving DecidableEq, Repr

/-- The stages of an outstanding request (R195). -/
inductive Stage where
  | waiting | completed | sending
  deriving DecidableEq, Repr

/-- An entry of the request table (R195). -/
structure Request where
  tag : Byte
  kind : ReqKind
  payload : List Byte
  stage : Stage
  deriving DecidableEq, Repr

/-- Whose reply a completed reply is: an outstanding request's, or the refusal slot's (R188, R194). -/
inductive ReplySource where
  | request (tag : Byte) (kind : ReqKind)
  | refusal
  deriving DecidableEq, Repr

/-- A reply in the reply queue: its BODY, and the staging buffer that its words keep IN USE (R143, R197). -/
structure Reply where
  source : ReplySource
  body : List Byte
  staging : Option StagingId
  deriving DecidableEq, Repr

/-- The transmitter (R188): IDLE, or SENDING one frame, whose bytes stand from START to the second CRC byte (R189). -/
inductive TxState where
  | idle
  | sendingReply (frame : List Byte)
  | sendingNotice (frame : List Byte)
  deriving DecidableEq, Repr

/-- The host link (R188). The reply being sent is the head of `replies`. -/
structure Link where
  rate : Rate
  rx : RxState
  lastByte : Time
  requests : List Request
  replies : List Reply
  refusalBusy : Bool
  tx : TxState
  holding : Bool
  spacing : Nat
  discards : Nat
  faultReported : Bool
  resetPending : Bool
  deriving DecidableEq, Repr

/-! ## The notice unit -/

/-- The sixteen kinds of notice, in the order of their bits (the table before R205). -/
inductive NoticeKind where
  | mountDone | runStart | runEnd | overrun | starved | pageLost | relocated | unitRetired | reserveLow | worn | laneFault
  | damagedPage | streamFault | checkpointDone | tableFault | linkError
  deriving DecidableEq, Repr

/-- A backlog entry (R204). -/
structure Notice where
  kind : NoticeKind
  arg : Word
  time : Time
  deriving DecidableEq, Repr

/-- The notice unit (R204). -/
structure NoticeUnit where
  pendingSet : BitVec 16
  mask : BitVec 16
  backlog : List Notice
  overflow : Bool
  deriving DecidableEq, Repr

/-! ## The whole device -/

/-- The state of the RHD840, and the queue of the commands that wait (`pending`). -/
structure State where
  /-- The commands that wait, first in, first out: the model's own. -/
  pending : List Instr
  /-- The supply is in its operating range (R185). -/
  powered : Bool
  /-- RST# is low (R185). -/
  rstLow : Bool
  /-- Device time (R186). -/
  time : Time
  array : Memory
  engine : Engine
  map : UnitMap
  streams : Vector StreamRec 8
  lanes : Vector Lane 6
  triggers : Triggers
  bufs : BufMgr
  reloc : RelocCtl
  reads : ReadPath
  ctl : Ctl
  link : Link
  notices : NoticeUnit
  /-- How many free values have been drawn: the model's own (assumptions 1 to 4 and 34). -/
  freeUsed : Nat
  deriving DecidableEq, Repr

/-- The faults of the device: none. Each happening of the specification has its effect or, where it cannot be taken, none; no
command stops the block. -/
inductive Fault where
  deriving DecidableEq, Repr

/-- The refusals of the model. -/
inductive Refusal where
  /-- Raised by `exec` alone, for a command that has no meaning yet (safe: nothing is claimed of it). No arm of `exec` raises it now. -/
  | notModelled (mnemonic : String)
  deriving DecidableEq, Repr

/-! ## After a reset -/

/-- A unit record with no owner, no slots and erase count 0 in the state given (R21). -/
def UnitRec.bare (st : UnitState) : UnitRec :=
  ⟨st, 0, none, none, 0, 0, false⟩

/-- The map right after a reset: units 0 and 1 TABLE, every data unit unclassified (R21). -/
def UnitMap.reset : UnitMap where
  units := ((Vector.replicate 1024 (UnitRec.bare .unclassified)).set 0 (UnitRec.bare .table)).set 1 (UnitRec.bare .table)
  freeList := []
  dirtyList := []
  chains := Vector.replicate 8 []
  retiredSet := []
  retiredCount := 0
  erasesSince := 0

/-- The UNDEFINED stream record (R49). -/
def StreamRec.undefined : StreamRec where
  state := .undefined
  config := none
  runNumber := 0
  runStartPending := false
  keptWords := 0
  skipCounter := 0
  basePage := 0
  endPage := 0
  gaps := []
  inFlight := 0
  droppedInRun := 0
  droppedTotal := 0
  lostTotal := 0
  overrun := false
  starved := false
  relocating := false
  endCause := none

/-- A lane after a reset (R70). -/
def Lane.reset : Lane := ⟨false, .awaitBoundary, 0, 0, false⟩

/-- A timer after a reset (R86). -/
def Timer.reset : Timer := ⟨false, 0, false, 0, 0⟩

/-- A buffer in the pool: word count 0 and no tag fields (R92, R93). -/
def PageBuf.empty : PageBuf := ⟨.pool, [], none, 0, none, none, none⟩

/-- The buffer manager after a reset (R92). -/
def BufMgr.reset : BufMgr where
  bufs := Vector.replicate 32 PageBuf.empty
  pool := [0, 1, 2, 3, 4, 5, 6, 7, 8, 9, 10, 11, 12, 13, 14, 15, 16, 17, 18, 19, 20, 21, 22, 23, 24, 25, 26, 27, 28, 29, 30, 31]
  fill := Vector.replicate 8 none
  held := Vector.replicate 8 none
  queue := []
  waitList := []
  starvedList := []
  flushWaiters := []
  heldAtWorn := []

/-- The mount scan at its first read (R165, R174). That its scan buffer is then empty is the model's choice (assumption 40). -/
def Scan.start : Scan := ⟨.header 0, none, Vector.replicate 2 none, [], none⟩

/-- The controller after a reset (R165). -/
def Ctl.reset : Ctl where
  device := .mounting
  tableUnit := 1
  nextSlot := none
  seqNo := 0
  ckptPending := false
  ckpt := none
  waiters := []
  shutdown := none
  scan := some Scan.start
  tableBuffer := none

/-- The host link after a reset, at the rate sampled (R188). -/
def Link.reset (rate : Rate) : Link where
  rate := rate
  rx := .hunt
  lastByte := 0
  requests := []
  replies := []
  refusalBusy := false
  tx := .idle
  holding := true
  spacing := 0
  discards := 0
  faultReported := false
  resetPending := false

/-- The notice unit after a reset (R204). -/
def NoticeUnit.reset : NoticeUnit := ⟨0x0000, 0xFFFF, [], false⟩

/-- The device right after a reset has ended: MOUNTING, the scan at its first read, the hold of TXD running (R185, R203). The strap
levels (115200 baud), the EXT levels (LOW) and an array with every slot erased are the model's choices (assumption 6). -/
def State.reset : State where
  pending := []
  powered := true
  rstLow := false
  time := 0
  array := []
  engine := ⟨none, 0⟩
  map := UnitMap.reset
  streams := Vector.replicate 8 StreamRec.undefined
  lanes := Vector.replicate 6 Lane.reset
  triggers := ⟨0, Vector.replicate 3 Timer.reset⟩
  bufs := BufMgr.reset
  reloc := ⟨none, [], none, false⟩
  reads := ⟨[], Vector.replicate 2 .free⟩
  ctl := Ctl.reset
  link := Link.reset .b115200
  notices := NoticeUnit.reset
  freeUsed := 0

end Sys2Proof.Machine
end

