-- ==== Sys2Proof/Machine/Limits.lean ====
section
/-!
DEFINITION. The numbers of the specification: the limits of its counters, its timeouts and its codes.
-/
namespace Sys2Proof.Machine

/-- Slots of a unit (R1). -/
def slotsPerUnit : Nat := 64
/-- Words of a page (R1). -/
def wordsPerPage : Nat := 256
/-- Free units that capture may not take (R34). -/
def reserveUnits : Nat := 24
/-- Retired units at which the device is worn (R41). -/
def wornLimit : Nat := 48
/-- Where end page stops (R52). -/
def maxPage : Nat := 0xFFFFFFFF
/-- Where a 32-bit saturating count stops (R46). -/
def max32 : Nat := 0xFFFFFFFF
/-- Where a 16-bit saturating count stops (R43, R46, R70, R188). -/
def max16 : Nat := 0xFFFF
/-- Where an erase count stops (R2). -/
def maxEraseCount : Nat := 32767
/-- The outstanding requests (R195). -/
def windowSize : Nat := 4
/-- The entries of the notice backlog (R204). -/
def backlogSize : Nat := 16
/-- Eligible entries at which a waiting read loses rank 5 (R14). -/
def deepQueue : Nat := 16
/-- Where the read-balance count stops (R6). -/
def maxReadBalance : Nat := 4
/-- Erases since the last checkpoint that set checkpoint pending (R43). -/
def erasesPerCheckpoint : Nat := 32
/-- The targets that one relocation may take (R124). -/
def maxAttempts : Nat := 3
/-- The notice spacing count at which a NOTICE frame goes first (R199). -/
def maxSpacing : Nat := 4
/-- The most words that a READ may ask for (R139). -/
def maxReadWords : Nat := 112
/-- The longest count of a COUNT run (R64). -/
def maxCount : Nat := 16777215
/-- The largest skip factor (R64). -/
def maxSkip : Nat := 256
/-- The gaps that a stream keeps (R51). -/
def maxGaps : Nat := 4
/-- The table slots of a table unit (R167). -/
def tableSlots : Nat := 8

/-- The PROGRAM timeout, in microseconds (R7). -/
def programTimeoutUs : Nat := 2000
/-- The READ timeout (R8). -/
def readTimeoutUs : Nat := 400
/-- The ERASE timeout (R9). -/
def eraseTimeoutUs : Nat := 15000
/-- The inter-byte limit (R191). -/
def interByteUs : Nat := 2000
/-- The hold of TXD after a reset (R203). -/
def txHoldUs : Nat := 5000
/-- The tick of the interval timers (R87). -/
def tickUs : Nat := 100

/-- A saturating increase by 1. -/
def satInc (limit n : Nat) : Nat := min (n + 1) limit

/-- The time that has passed from `start` to `now`, a difference modulo 2³² (R186). -/
def elapsed (now start : Time) : Nat := (now - start).toNat

/-- The status codes (R197). -/
inductive Status where
  | ok | busy | tagInUse | badTag | badKind | badLength | badParam | wrongState | noData | noSpace | worn | fault | mounting
  | damaged | halted
  deriving DecidableEq, Repr

/-- The code of a status (R197). -/
def Status.code : Status → Byte
  | .ok => 0x00
  | .busy => 0x01
  | .tagInUse => 0x02
  | .badTag => 0x03
  | .badKind => 0x04
  | .badLength => 0x05
  | .badParam => 0x06
  | .wrongState => 0x07
  | .noData => 0x08
  | .noSpace => 0x09
  | .worn => 0x0A
  | .fault => 0x0C
  | .mounting => 0x0D
  | .damaged => 0x0E
  | .halted => 0x0F

/-- The KIND byte of a request kind (R193). -/
def kindCode : ReqKind → Byte
  | .hello => 0x01
  | .status => 0x02
  | .reset => 0x03
  | .shutdown => 0x04
  | .checkpoint => 0x05
  | .setNoticeMask => 0x06
  | .ackNotice => 0x07
  | .defineStream => 0x10
  | .arm => 0x11
  | .fire => 0x12
  | .stop => 0x13
  | .flush => 0x14
  | .unbind => 0x15
  | .streamInfo => 0x16
  | .timer => 0x18
  | .read => 0x20
  | .release => 0x21
  | .delete => 0x22
  | .unitInfo => 0x28
  | .mapSummary => 0x29

/-- The body length that a request kind must have (R193). -/
def kindBodyLength : ReqKind → Nat
  | .hello => 2
  | .status => 2
  | .reset => 2
  | .shutdown => 2
  | .checkpoint => 2
  | .setNoticeMask => 4
  | .ackNotice => 4
  | .defineStream => 17
  | .arm => 3
  | .fire => 3
  | .stop => 3
  | .flush => 3
  | .unbind => 3
  | .streamInfo => 3
  | .timer => 7
  | .read => 9
  | .release => 7
  | .delete => 3
  | .unitInfo => 4
  | .mapSummary => 2

/-- Every request kind. -/
def allKinds : List ReqKind :=
  [.hello, .status, .reset, .shutdown, .checkpoint, .setNoticeMask, .ackNotice, .defineStream, .arm, .fire, .stop, .flush,
   .unbind, .streamInfo, .timer, .read, .release, .delete, .unitInfo, .mapSummary]

/-- The request kind that a KIND byte names (R193, check 1). -/
def kindOfCode (code : Byte) : Option ReqKind := allKinds.find? (fun k => kindCode k == code)

/-- The bit of a notice kind in the pending set and in the mask (R204). -/
def noticeBit : NoticeKind → Nat
  | .mountDone => 0
  | .runStart => 1
  | .runEnd => 2
  | .overrun => 3
  | .starved => 4
  | .pageLost => 5
  | .relocated => 6
  | .unitRetired => 7
  | .reserveLow => 8
  | .worn => 9
  | .laneFault => 10
  | .damagedPage => 11
  | .streamFault => 12
  | .checkpointDone => 13
  | .tableFault => 14
  | .linkError => 15

/-- The pending set that holds one kind alone. -/
def noticeMask (k : NoticeKind) : BitVec 16 := 1#16 <<< noticeBit k

/-- The number of a device state (R166). -/
def deviceCode : DeviceState → Byte
  | .mounting => 0
  | .ready => 1
  | .worn => 2
  | .shuttingDown => 3
  | .halted => 4

/-- The number of a stream state (R69). -/
def streamStateCode : StreamState → Byte
  | .undefined => 0
  | .dormant => 1
  | .bound => 2
  | .armed => 3
  | .capturing => 4
  | .faulted => 5

/-- The number of a stream mode (R64). -/
def modeCode : StreamMode → Byte
  | .continuous => 0
  | .count => 1
  | .gate => 2

/-- The code of a trigger source (the table before R77). -/
def sourceCode : TriggerSource → Byte
  | .immediate => 0
  | .host => 1
  | .ext pin rising => BitVec.ofNat 8 ((if rising then 2 else 6) + pin.val)
  | .timer t => BitVec.ofNat 8 (10 + t.val)
  | .level => 13
  | .peer => 14

/-- The trigger source that a code names; none above 14 (R64). -/
def sourceOfCode (code : Byte) : Option TriggerSource :=
  if code = 0 then some .immediate
  else if code = 1 then some .host
  else if code.toNat < 6 then some (.ext (Fin.ofNat 4 (code.toNat - 2)) true)
  else if code.toNat < 10 then some (.ext (Fin.ofNat 4 (code.toNat - 6)) false)
  else if code.toNat < 13 then some (.timer (Fin.ofNat 3 (code.toNat - 10)))
  else if code = 13 then some .level
  else if code = 14 then some .peer
  else none

/-- The number of an end cause; 0 when absent (R69). -/
def endCauseCode : Option EndCause → Byte
  | none => 0
  | some .count => 1
  | some .stop => 2
  | some .stopSource => 3
  | some .gate => 4
  | some .limit => 5
  | some .worn => 6
  | some .shutdown => 7
  | some .fault => 8

/-- The number of a unit state (R44). An unclassified unit is never reported (R21); it stands as 0xFF. -/
def unitStateCode : UnitState → Byte
  | .free => 0
  | .opened => 1
  | .full => 2
  | .frozen => 3
  | .dirty => 4
  | .erasing => 5
  | .target => 6
  | .retired => 7
  | .table => 8
  | .unclassified => 0xFF

/-- The rate that the straps select (R187). -/
def rateOf (s : Straps) : Rate :=
  match s.rate1, s.rate0 with
  | false, false => .b115200
  | false, true => .b460800
  | true, false => .b921600
  | true, true => .b2000000

end Sys2Proof.Machine
end

