-- ==== Sys2Proof/Machine/Bytes.lean ====
section
/-!
DEFINITION. Byte order and checks: multibyte fields are little-endian (file 12), the CRC-16 and the CRC-32 (R217).
-/
namespace Sys2Proof.Machine

/-- A 16-bit field, lowest byte first (file 12). -/
def le16 (w : Word) : List Byte := [w.extractLsb' 0 8, w.extractLsb' 8 8]

/-- A 32-bit field, lowest byte first (file 12). -/
def le32 (w : BitVec 32) : List Byte :=
  [w.extractLsb' 0 8, w.extractLsb' 8 8, w.extractLsb' 16 8, w.extractLsb' 24 8]

/-- A count as a 1-byte field. -/
def n8 (n : Nat) : List Byte := [BitVec.ofNat 8 n]
/-- A count as a 2-byte field. -/
def n16 (n : Nat) : List Byte := le16 (BitVec.ofNat 16 n)
/-- A count as a 4-byte field. -/
def n32 (n : Nat) : List Byte := le32 (BitVec.ofNat 32 n)
/-- A flag as a 1-byte field: 1 or 0. -/
def b8 (b : Bool) : List Byte := [if b then 1 else 0]

/-- The 16-bit value of two bytes, the lower one first. -/
def word16 (lo hi : Byte) : Word := hi ++ lo

/-- The 32-bit value of two words, the lower one first. -/
def word32 (lo hi : Word) : BitVec 32 := hi ++ lo

/-- One bit into the CRC-16 register (R217). -/
def crc16Bit (r : Word) (b : Bool) : Word := if (r.msb != b) then (r <<< 1) ^^^ 0x1021 else r <<< 1

/-- One byte into the CRC-16 register, most significant bit first (R217). -/
def crc16Byte (r : Word) (b : Byte) : Word :=
  [7, 6, 5, 4, 3, 2, 1, 0].foldl (fun r i => crc16Bit r (b.getLsbD i)) r

/-- The CRC-16 of a run of bytes (R217). -/
def crc16 (bytes : List Byte) : Word := bytes.foldl crc16Byte 0xFFFF

/-- One bit into the CRC-32 register (R217). -/
def crc32Bit (r : BitVec 32) (b : Bool) : BitVec 32 :=
  if (r.getLsbD 0 != b) then (r >>> 1) ^^^ 0xEDB88320 else r >>> 1

/-- One byte into the CRC-32 register, least significant bit first (R217). -/
def crc32Byte (r : BitVec 32) (b : Byte) : BitVec 32 :=
  [0, 1, 2, 3, 4, 5, 6, 7].foldl (fun r i => crc32Bit r (b.getLsbD i)) r

/-- The CRC-32 of a run of bytes: the register is inverted at the end (R217). -/
def crc32 (bytes : List Byte) : BitVec 32 := ~~~(bytes.foldl crc32Byte 0xFFFFFFFF)

/-- A frame on the wire: START, LEN, BODY, and the CRC-16 of LEN and BODY, high byte first (R189, R212). -/
def wireFrame (body : List Byte) : List Byte :=
  let len : Byte := BitVec.ofNat 8 body.length
  let crc := crc16 (len :: body)
  [0xC3, len] ++ body ++ [crc.extractLsb' 8 8, crc.extractLsb' 0 8]

end Sys2Proof.Machine
end

