-- ==== Sys2Proof/Machine/Flags.lean ====
section
/-!
DEFINITION. The flag bytes of the specification: the page flags of a tag and of a READ reply (R215, R214), the controller flags
of STATUS and the stream flags of STREAM INFO (R214).
-/
namespace Sys2Proof.Machine

/-- A byte from its low five bits, bit 0 first. -/
def flagByte (b0 b1 b2 b3 b4 : Bool) : Byte :=
  BitVec.ofNat 8 (b0.toNat + 2 * b1.toNat + 4 * b2.toNat + 8 * b3.toNat + 16 * b4.toNat)

/-- The flags of a tag (R3, R215): RUN_START, GAP, RELOC, DAMAGED in bits 0 to 3; bits 4 to 7 are 0. -/
def tagFlags (runStart gap reloc damaged : Bool) : Byte := flagByte runStart gap reloc damaged false

/-- RUN_START of a tag's flags byte (R215). -/
def flagRunStart (f : Byte) : Bool := f.getLsbD 0
/-- GAP of a tag's flags byte. -/
def flagGap (f : Byte) : Bool := f.getLsbD 1
/-- RELOC of a tag's flags byte. -/
def flagReloc (f : Byte) : Bool := f.getLsbD 2
/-- DAMAGED of a tag's flags byte. -/
def flagDamaged (f : Byte) : Bool := f.getLsbD 3

/-- The flags byte of a READ reply: the four flags of the tag, and BUFFERED in bit 4 (R146, R214, R215). That bits 5 to 7 are 0 is the model's
choice (assumption 38). -/
def readFlags (f : Byte) (buffered : Bool) : Byte :=
  flagByte (flagRunStart f) (flagGap f) (flagReloc f) (flagDamaged f) buffered

/-- The flags of a relocation copy: the tag's flags as read with RELOC set, and DAMAGED set when the read was bad (R122). -/
def copyFlags (f : Byte) (damaged : Bool) : Byte :=
  tagFlags (flagRunStart f) (flagGap f) true (flagDamaged f || damaged)

/-- The controller flags of STATUS (R214): checkpoint pending, checkpoint in progress, reset pending. -/
def controllerFlags (ckptPending inProgress resetPending : Bool) : Byte :=
  flagByte ckptPending inProgress resetPending false false

/-- The flags of STREAM INFO (R69, R214): OVERRUN, STARVED, RELOCATING, run-start pending. That bits 4 to 7 are 0 is the model's choice
(assumption 38). -/
def streamFlags (r : StreamRec) : Byte := flagByte r.overrun r.starved r.relocating r.runStartPending false

end Sys2Proof.Machine
end

