-- ==== Sys2Proof/Machine/Memory.lean ====
section
/-!
DEFINITION. The array as the engine reads and writes it: slots, units, tag classes and the completion of a tag (R1 to R9, R215).
-/
namespace Sys2Proof.Machine

/-- What an erased slot reads: 0xFF in all 536 bytes (R1). -/
def erasedPage : Page :=
  ⟨Vector.replicate 256 0xFFFF, ⟨0xFF, 0xFF, 0xFF, 0xFF, 0xFFFF, 0xFFFFFFFF, 0xFFFF, 0xFFFF, 0xFFFFFFFF, 0xFFFF, 0xFFFF, 0xFFFF⟩⟩

/-- The address of slot `k` of unit `u`. -/
def slotAddr (u : UnitId) (k : Nat) : Nat := slotsPerUnit * u.val + k

/-- What the slot at an address holds; an unlisted slot is erased (R1). -/
def Memory.read : Memory → Nat → Page
  | [], _ => erasedPage
  | (a, p) :: m, x => if a = x then p else Memory.read m x

/-- The array without the entry of one address. -/
def Memory.drop (m : Memory) (x : Nat) : Memory := m.filter (fun e => e.1 ≠ x)

/-- The entry `(x, p)` put in its place among rising addresses. -/
def Memory.insert : Memory → Nat → Page → Memory
  | [], x, p => [(x, p)]
  | (a, q) :: m, x, p => if x < a then (x, p) :: (a, q) :: m else (a, q) :: Memory.insert m x p

/-- The array with the slot at `x` reading `p`. Canonical: an erased slot is not listed. -/
def Memory.write (m : Memory) (x : Nat) (p : Page) : Memory :=
  if p = erasedPage then m.drop x else (m.drop x).insert x p

/-- The array with all slots of a unit erased together (R2, R9). -/
def Memory.eraseUnit (m : Memory) (u : UnitId) : Memory :=
  m.filter (fun e => e.1 / slotsPerUnit ≠ u.val)

/-- The canonical form: addresses strictly rising, and no entry that reads as an erased slot does. -/
def Memory.wf (m : Memory) : Bool :=
  decide (m.Pairwise (fun a b => a.1 < b.1)) && m.all (fun e => decide (e.2 ≠ erasedPage))

/-- The first 22 tag bytes, which the tag CRC covers (R3, R215). -/
def tagHead (t : Tag) : List Byte :=
  [t.mark, t.stream, t.flags, t.slot] ++ le16 t.wordCount ++ le32 t.pageNumber ++ le16 t.runNumber ++ le16 t.droppedBefore
    ++ le32 t.firstWordTime ++ le16 t.origin ++ le16 t.dataCrc

/-- The 24 tag bytes (R215). -/
def tagBytes (t : Tag) : List Byte := tagHead t ++ le16 t.tagCrc

/-- The 512 data bytes, each word low byte first (R215). -/
def dataBytes (d : Vector Word 256) : List Byte := d.toList.flatMap le16

/-- The tag CRC that a tag should have (R3). -/
def tagCrcOf (t : Tag) : Word := crc16 (tagHead t)

/-- The data CRC that a page's data should have (R3). -/
def dataCrcOf (d : Vector Word 256) : Word := crc16 (dataBytes d)

/-- The class of a tag as read (R4). -/
def classify (t : Tag) : TagClass :=
  if t = erasedPage.tag then .blank
  else if t.mark = 0x5A ∧ t.tagCrc = tagCrcOf t then .valid
  else .invalid

/-- A page as a READ that ends DONE reports it (R4, R8). -/
def readDoneResult (p : Page) : ReadResult :=
  ⟨classify p.tag, classify p.tag = .valid && p.tag.dataCrc == dataCrcOf p.data, p⟩

/-- A slot that stores `p` may report `q` as drifted (assumption 5): an erased slot reads as erased (R8), a slot with an INVALID tag, as after
a failed or cut PROGRAM, goes on reading INVALID (R4, R7, R19), and any other slot may read anything. -/
def mayReadAs (p q : Page) : Bool :=
  p != erasedPage && (classify p.tag != .invalid || classify q.tag == .invalid)

/-- What the cells of a slot that stores `p` read: `p`, or the drifted page that the report carries when the slot may read so. -/
def cellsRead (p : Page) (asRead : Option Page) : Page :=
  match asRead with
  | some q => if mayReadAs p q then q else p
  | none => p

/-- What a READ that ends TIMEOUT reports: 0xFF in all bytes, class INVALID (R8). -/
def readTimeoutResult : ReadResult := ⟨.invalid, false, erasedPage⟩

/-- The page that a PROGRAM puts into the slot: the data CRC by the CRC mode, mark 0x5A, flag bits 4 to 7 zero, and the tag CRC
last (R7, R215). -/
def programmedPage (mode : CrcMode) (p : Page) : Page :=
  let t := { p.tag with
    mark := 0x5A
    flags := p.tag.flags &&& 0x0F
    dataCrc := if mode = CrcMode.compute then dataCrcOf p.data else p.tag.dataCrc }
  ⟨p.data, { t with tagCrc := tagCrcOf t }⟩

/-- A tag held to class INVALID: a tag that reads otherwise is replaced by a tag of zeros, which is INVALID. -/
def invalidTag (t : Tag) : Tag :=
  if classify t = .invalid then t else ⟨0, 0, 0, 0, 0, 0, 0, 0, 0, 0, 0, 0⟩

/-- What a slot reads after a failed or cut PROGRAM: undefined data and an INVALID tag (R7, R19). -/
def spoiledPage (n : Nat) : Page := ⟨(Config.freePage n).data, invalidTag (Config.freePage n).tag⟩

/-- The data words of a page whose recorded words are `ws`: words from the word count on read 0xFFFF (R3). -/
def pageData (ws : List Word) : Vector Word 256 := Vector.ofFn (fun i => ws.getD i.val 0xFFFF)

/-- The tag of a table-unit page (R5); the engine completes the mark and the CRCs. -/
def tableTag (slot : Nat) : Tag :=
  ⟨0x5A, 0xFE, 0, BitVec.ofNat 8 slot, 256, 0, 0, 0, 0, 0xFFFF, 0, 0⟩

/-- The state with the slot at `x` reading `p`. -/
def State.writeSlot (s : State) (u : UnitId) (k : Nat) (p : Page) : State :=
  { s with array := s.array.write (slotAddr u k) p }

/-- What slot `k` of unit `u` holds. -/
def State.readSlot (s : State) (u : UnitId) (k : Nat) : Page := s.array.read (slotAddr u k)

/-- The slot of a failed or cut PROGRAM becomes undefined with an INVALID tag, from a fresh free value (R7, R19). -/
def spoilSlot (u : UnitId) (k : Nat) (s : State) : State :=
  { s.writeSlot u k (spoiledPage s.freeUsed) with freeUsed := s.freeUsed + 1 }

/-- The array with the slots `k`, `k + 1`, ... `k + n - 1` of a unit reading free values. -/
def undefineSlots (u : UnitId) (free : Nat) : Nat → Nat → Memory → Memory
  | _, 0, m => m
  | k, n + 1, m => undefineSlots u free (k + 1) n (m.write (slotAddr u k) (Config.freePage (free + k)))

/-- The unit of a failed or cut ERASE: its slots are undefined slot by slot, each from a fresh free value (R9, R19). -/
def undefineUnit (u : UnitId) (s : State) : State :=
  { s with array := undefineSlots u s.freeUsed 0 slotsPerUnit s.array, freeUsed := s.freeUsed + slotsPerUnit }

end Sys2Proof.Machine
end

