-- ==== Sys2Proof/Machine/Operands.lean ====
section
/-!
DEFINITION. The operand forms: the fields of a request payload, at the offsets of R213 counted from KIND at offset 0 of the
BODY. The payload begins at offset 2.
-/
namespace Sys2Proof.Machine

/-- The byte of the BODY at offset `off`, 2 or more. -/
def field8 (p : List Byte) (off : Nat) : Byte := p.getD (off - 2) 0

/-- The 2-byte field at offset `off`, little-endian. -/
def field16 (p : List Byte) (off : Nat) : Word := word16 (field8 p off) (field8 p (off + 1))

/-- The 4-byte field at offset `off`, little-endian. -/
def field32 (p : List Byte) (off : Nat) : BitVec 32 := word32 (field16 p off) (field16 p (off + 2))

/-- The stream that a stream field names; none above 7. -/
def streamOf (b : Byte) : Option StreamId := if h : b.toNat < 8 then some ⟨b.toNat, h⟩ else none

/-- The lane that a lane field names; none above 5. -/
def laneOf (b : Byte) : Option LaneId := if h : b.toNat < 6 then some ⟨b.toNat, h⟩ else none

/-- The timer that a timer field names; none above 2. -/
def timerOf (b : Byte) : Option TimerId := if h : b.toNat < 3 then some ⟨b.toNat, h⟩ else none

/-- The unit that a unit field names; none above 1023. -/
def unitOf (w : Word) : Option UnitId := if h : w.toNat < 1024 then some ⟨w.toNat, h⟩ else none

/-- The mode that a mode field names; none above 2 (R64). -/
def modeOf (b : Byte) : Option StreamMode :=
  if b = 0 then some .continuous else if b = 1 then some .count else if b = 2 then some .gate else none

/-- The stop source that a stop field names: 0xFF is NONE, 1 to 12 a source, every other value refused (R64). -/
def stopOf (b : Byte) : Option (Option TriggerSource) :=
  if b = 0xFF then some none
  else if b.toNat = 0 ∨ 12 < b.toNat then none
  else (sourceOfCode b).map some

/-- A source is an EXT source, as GATE mode asks (R64). -/
def TriggerSource.isExt : TriggerSource → Bool
  | .ext _ _ => true
  | .immediate => false
  | .host => false
  | .timer _ => false
  | .level => false
  | .peer => false

/-- The configuration of a DEFINE STREAM payload, or none when one of its fields is refused (R64). Fields that do not apply are
not checked and not recorded. -/
def configOf (st : StreamId) (p : List Byte) : Option StreamConfig :=
  match laneOf (field8 p 3), modeOf (field8 p 4), sourceOfCode (field8 p 11), stopOf (field8 p 12) with
  | some lane, some mode, some start, some stop =>
    let count := (field32 p 5).toNat
    let skip := (field16 p 9).toNat
    let peer := streamOf (field8 p 13)
    let rearm := field8 p 16
    if mode = .count ∧ (count = 0 ∨ maxCount < count) then none
    else if skip = 0 ∨ maxSkip < skip then none
    else if mode = .gate ∧ (start.isExt = false ∨ stop.isSome) then none
    else if start = .peer ∧ (peer = none ∨ peer = some st) then none
    else if 1 < rearm.toNat then none
    else some
      { lane := lane
        mode := mode
        count := if mode = .count then some count else none
        skip := skip
        start := start
        stop := stop
        peer := if start = .peer then peer else none
        threshold := if start = .level then some (field16 p 14) else none
        rearm := rearm = 1 }
  | _, _, _, _ => none

end Sys2Proof.Machine
end

