-- ==== Sys2Proof/Machine/Ops.lean ====
section
/-!
DEFINITION. The named accessors of State, and the operations that several blocks share: raising a notice (R205), completing a
request (R197), discarding a frame (R192).
-/
namespace Sys2Proof.Machine

/-! ## Accessors -/

def State.unit (s : State) (u : UnitId) : UnitRec := vget s.map.units u
def State.setUnit (s : State) (u : UnitId) (r : UnitRec) : State :=
  { s with map := { s.map with units := vset s.map.units u r } }
def State.chain (s : State) (st : StreamId) : List UnitId := vget s.map.chains st
def State.setChain (s : State) (st : StreamId) (c : List UnitId) : State :=
  { s with map := { s.map with chains := vset s.map.chains st c } }
def State.setFreeList (s : State) (l : List UnitId) : State := { s with map := { s.map with freeList := l } }
def State.setDirtyList (s : State) (l : List UnitId) : State := { s with map := { s.map with dirtyList := l } }
def State.stream (s : State) (st : StreamId) : StreamRec := vget s.streams st
def State.setStream (s : State) (st : StreamId) (r : StreamRec) : State := { s with streams := vset s.streams st r }
def State.lane (s : State) (l : LaneId) : Lane := vget s.lanes l
def State.setLane (s : State) (l : LaneId) (r : Lane) : State := { s with lanes := vset s.lanes l r }
def State.timer (s : State) (t : TimerId) : Timer := vget s.triggers.timers t
def State.setTimer (s : State) (t : TimerId) (r : Timer) : State :=
  { s with triggers := { s.triggers with timers := vset s.triggers.timers t r } }
def State.buf (s : State) (b : BufId) : PageBuf := vget s.bufs.bufs b
def State.setBuf (s : State) (b : BufId) (r : PageBuf) : State :=
  { s with bufs := { s.bufs with bufs := vset s.bufs.bufs b r } }
def State.fillBuf (s : State) (st : StreamId) : Option BufId := vget s.bufs.fill st
def State.setFill (s : State) (st : StreamId) (b : Option BufId) : State :=
  { s with bufs := { s.bufs with fill := vset s.bufs.fill st b } }
def State.heldBuf (s : State) (st : StreamId) : Option BufId := vget s.bufs.held st
def State.setHeld (s : State) (st : StreamId) (b : Option BufId) : State :=
  { s with bufs := { s.bufs with held := vset s.bufs.held st b } }
def State.setPool (s : State) (l : List BufId) : State := { s with bufs := { s.bufs with pool := l } }
def State.setQueue (s : State) (l : List QueueEntry) : State := { s with bufs := { s.bufs with queue := l } }
def State.setBufWaits (s : State) (l : List StreamId) : State := { s with bufs := { s.bufs with waitList := l } }
def State.setStarvedList (s : State) (l : List StreamId) : State := { s with bufs := { s.bufs with starvedList := l } }
def State.setFlushWaiters (s : State) (l : List FlushWaiter) : State := { s with bufs := { s.bufs with flushWaiters := l } }
def State.setHeldAtWorn (s : State) (l : List StreamId) : State := { s with bufs := { s.bufs with heldAtWorn := l } }
def State.setReloc (s : State) (r : Option Reloc) : State := { s with reloc := { s.reloc with current := r } }
def State.setRelocWaits (s : State) (l : List RelocWait) : State := { s with reloc := { s.reloc with waitList := l } }
def State.setCopyBuffer (s : State) (p : Option Page) : State := { s with reloc := { s.reloc with copyBuffer := p } }
def State.setStandAside (s : State) (b : Bool) : State := { s with reloc := { s.reloc with standAside := b } }
def State.setReadWaits (s : State) (l : List ReadReq) : State := { s with reads := { s.reads with waitList := l } }
def State.stagingBuf (s : State) (i : StagingId) : Staging := vget s.reads.staging i
def State.setStaging (s : State) (i : StagingId) (r : Staging) : State :=
  { s with reads := { s.reads with staging := vset s.reads.staging i r } }
def State.setCtl (s : State) (c : Ctl) : State := { s with ctl := c }
def State.setLink (s : State) (l : Link) : State := { s with link := l }
def State.setOp (s : State) (o : Option Operation) : State := { s with engine := { s.engine with op := o } }

/-- The device is powered and not held in reset (R185). -/
def State.running (s : State) : Bool := s.powered && !s.rstLow

/-- The free count (R29). -/
def State.freeCount (s : State) : Nat := s.map.freeList.length

/-- Every stream, in ascending number. -/
def allStreams : List StreamId := [0, 1, 2, 3, 4, 5, 6, 7]
/-- Every lane, in ascending number. -/
def allLanes : List LaneId := [0, 1, 2, 3, 4, 5]
/-- Every timer, in ascending number. -/
def allTimers : List TimerId := [0, 1, 2]

/-! ## Notices -/

/-- The notice unit after a raise at device time `t` (R205). A full backlog drops it whatever its kind, those of mount too, which R204 says
always reach the backlog (assumption 41). -/
def NoticeUnit.raise (n : NoticeUnit) (k : NoticeKind) (arg : Word) (t : Time) : NoticeUnit :=
  let n := { n with pendingSet := n.pendingSet ||| noticeMask k }
  if n.mask.getLsbD (noticeBit k) then
    if n.backlog.length < backlogSize then { n with backlog := n.backlog ++ [⟨k, arg, t⟩] } else { n with overflow := true }
  else n

/-- A block raises a notice (R205). -/
def raise (k : NoticeKind) (arg : Nat) (s : State) : State :=
  { s with notices := s.notices.raise k (BitVec.ofNat 16 arg) s.time }

/-! ## Replies -/

/-- An outstanding request is completed: its reply is formed and joins the tail of the reply queue, and its stage becomes
COMPLETED (R195, R197, R198). -/
def finishRequest (k : ReqKind) (tag : Byte) (st : Status) (contents : List Byte) (staging : Option StagingId) (s : State) : State :=
  { s with link := { s.link with
      requests := s.link.requests.map (fun r => if r.tag = tag then { r with stage := .completed } else r)
      replies := s.link.replies ++ [⟨.request tag k, (kindCode k + 0x80) :: tag :: st.code :: contents, staging⟩] } }

/-- A request is refused: its reply holds the status alone (R197). -/
def refuse (k : ReqKind) (tag : Byte) (st : Status) (s : State) : State := finishRequest k tag st [] none s

/-! ## Discards -/

/-- What every discard does after the frame is gone: the link discard count and LINK_ERROR (R192, steps 2 and 3). -/
def countDiscard (s : State) : State :=
  let n := satInc max16 s.link.discards
  if s.link.faultReported then s.setLink { s.link with discards := n }
  else raise .linkError n (s.setLink { s.link with discards := n, faultReported := true })

/-- A frame in reception is discarded and the receiver returns to HUNT (R192). -/
def discardFrame (s : State) : State := countDiscard (s.setLink { s.link with rx := .hunt })

end Sys2Proof.Machine
end

