-- ==== Sys2Proof/Machine/UnitMap.lean ====
section
/-!
DEFINITION. What the unit map does: the free list and its order (R29), location (R25), slots and allocation (R26, R34, R35), leaving
a chain (R33), retirement (R40, R41).
-/
namespace Sys2Proof.Machine

/-- `u` goes before `v` in the free list: a lower erase count, or an equal one and a lower unit number (R29). -/
def freeBefore (m : UnitMap) (u v : UnitId) : Bool :=
  let cu := (vget m.units u).eraseCount
  let cv := (vget m.units v).eraseCount
  cu < cv || (cu == cv && u.val < v.val)

/-- `u` at its place in a list in free-list order (R29). -/
def freeInsert (m : UnitMap) (u : UnitId) : List UnitId → List UnitId
  | [] => [u]
  | v :: l => if freeBefore m u v then u :: v :: l else v :: freeInsert m u l

/-- A unit with the fields that a unit holds outside a chain: no owner, no slots; the erase count is kept (R22, R33). -/
def UnitRec.clear (r : UnitRec) (st : UnitState) : UnitRec := { UnitRec.bare st with eraseCount := r.eraseCount }

/-- The unit becomes FREE and is inserted in the free list (R29). -/
def insertFree (u : UnitId) (s : State) : State :=
  let s := s.setUnit u ((s.unit u).clear .free)
  s.setFreeList (freeInsert s.map u s.map.freeList)

/-- The unit becomes DIRTY and is appended to the dirty list (R31, R33). -/
def appendDirty (u : UnitId) (s : State) : State :=
  let s := s.setUnit u ((s.unit u).clear .dirty)
  s.setDirtyList (s.map.dirtyList ++ [u])

/-- The page range of a unit record holds page `x` (R25). -/
def UnitRec.holds (r : UnitRec) (x : Nat) : Bool :=
  match r.firstPage with
  | some f => f ≤ x && x < f + r.assigned
  | none => false

/-- The location query (R25): the unit of the stream's chain that has page `x` in its range, and the slot. -/
def locate (s : State) (st : StreamId) (x : Nat) : Option (UnitId × Nat) :=
  match (s.chain st).find? (fun u => (s.unit u).holds x) with
  | some u => some (u, x - ((s.unit u).firstPage.getD 0))
  | none => none

/-- The page that a location query found is programmed (R25). -/
def isProgrammed (s : State) (loc : UnitId × Nat) : Bool := loc.2 < (s.unit loc.1).programmed

/-- The accepting unit of a stream: the last unit of its chain when OPEN, or FROZEN and not closed, with a slot left (R26). -/
def acceptingUnit (s : State) (st : StreamId) : Option UnitId :=
  match (s.chain st).getLast? with
  | none => none
  | some u =>
    let r := s.unit u
    if (r.state = .opened ∨ (r.state = .frozen ∧ r.closed = false)) ∧ r.assigned < slotsPerUnit then some u else none

/-- The next slot of an accepting unit is assigned; slot 63 makes an OPEN unit FULL (R26). The slot is the assigned count before. -/
def assignSlot (u : UnitId) (s : State) : State :=
  let r := s.unit u
  s.setUnit u { r with
    assigned := r.assigned + 1
    state := if r.assigned + 1 = slotsPerUnit ∧ r.state = .opened then .full else r.state }

/-- The head of the free list leaves it for a stream, and RESERVE_LOW is raised when the free count falls from 25 to 24
(R34, R35, R37). -/
def takeFree (u : UnitId) (rest : List UnitId) (st : UnitState) (owner : StreamId) (first : Nat) (s : State) : State :=
  let s' := (s.setFreeList rest).setUnit u
    { s.unit u with state := st, owner := some owner, firstPage := some first, assigned := 0, programmed := 0, closed := false }
  if rest.length = reserveUnits then raise .reserveLow reserveUnits s' else s'

/-- Allocation for capture (R34): the new OPEN unit at the tail of the chain, or none at the reserve. -/
def allocateForCapture (st : StreamId) (first : Nat) (s : State) : Option (UnitId × State) :=
  match s.map.freeList with
  | [] => none
  | u :: rest =>
    if reserveUnits < (u :: rest).length then
      let s := takeFree u rest .opened st first s
      some (u, s.setChain st (s.chain st ++ [u]))
    else none

/-- A unit number in its place in the retired set, which is kept in ascending order. -/
def retiredInsert (u : UnitId) : List UnitId → List UnitId
  | [] => [u]
  | v :: l => if u < v then u :: v :: l else v :: retiredInsert u l

/-- Retirement, after the unit has left its former place (R40): the record, the set, the count, checkpoint pending, UNIT_RETIRED. -/
def retireRecord (u : UnitId) (s : State) : State :=
  let s := s.setUnit u ((s.unit u).clear .retired)
  let s := { s with map := { s.map with
    retiredSet := retiredInsert u s.map.retiredSet
    retiredCount := s.map.retiredCount + 1 } }
  raise .unitRetired u.val (s.setCtl { s.ctl with ckptPending := true })

/-- A retirement with its test for WORN entry (R40, R41): at 48 in READY the state becomes WORN and WORN is raised. The rest of WORN
entry follows at the end of the happening (R135). -/
def retire (u : UnitId) (s : State) : State :=
  let s := retireRecord u s
  if s.map.retiredCount = wornLimit ∧ s.ctl.device = .ready then
    raise .worn s.map.retiredCount (s.setCtl { s.ctl with device := .worn })
  else s

/-- A unit leaves a chain by remove from front or remove all: OPEN or FULL becomes DIRTY, FROZEN is retired (R33). -/
def removeUnit (u : UnitId) (s : State) : State :=
  if (s.unit u).state = .frozen then retire u s else appendDirty u s

/-- The free count is above the reserve, and a stream waits for it (R36). -/
def reliefDue (s : State) : Bool := reserveUnits < s.freeCount && !s.bufs.starvedList.isEmpty

end Sys2Proof.Machine
end

