-- ==== Sys2Proof/Machine/Buffers.lean ====
section
/-!
DEFINITION. The buffer manager: the pool and its arbiter (R93 to R96), the seal (R99 to R101), starvation, relief and discard
(R104 to R107), pages in flight (R112) and the FLUSH waiters (R114).
-/
namespace Sys2Proof.Machine

/-! ## The pool -/

/-- The stream takes an emptied buffer as its fill buffer. -/
def takeFill (st : StreamId) (b : BufId) (s : State) : State :=
  (s.setBuf b { PageBuf.empty with place := .fill st }).setFill st (some b)

/-- The pool arbiter grants a buffer to the head of the buffer wait list: OVERRUN clears (R93, R96). -/
def grantBuffer (b : BufId) (st : StreamId) (rest : List StreamId) (s : State) : State :=
  let s := takeFill st b (s.setBufWaits rest)
  s.setStream st { s.stream st with overrun := false }

/-- A buffer is freed: emptied, then given to the head of the buffer wait list, or to the pool (R93). -/
def freeBuffer (b : BufId) (s : State) : State :=
  match s.bufs.waitList with
  | st :: rest => grantBuffer b st rest s
  | [] => (s.setBuf b PageBuf.empty).setPool (s.bufs.pool ++ [b])

/-- A stream asks for a fill buffer: it takes one from the pool, or joins the buffer wait list as OVERRUN (R94). -/
def askBuffer (st : StreamId) (s : State) : State :=
  match s.bufs.pool with
  | b :: rest => takeFill st b (s.setPool rest)
  | [] =>
    let s := s.setBufWaits (s.bufs.waitList ++ [st])
    raise .overrun st.val (s.setStream st { s.stream st with overrun := true })

/-! ## FLUSH waiters -/

/-- The contents of a FLUSH reply after its status (R113, R214). -/
def flushContents (st : StreamId) (sealed : Bool) (s : State) : List Byte :=
  n8 st.val ++ [streamStateCode (s.stream st).state] ++ b8 sealed ++ n32 (s.stream st).endPage

/-- A FLUSH is completed with the values of this happening (R113, R114). -/
def finishFlush (w : FlushWaiter) (status : Status) (s : State) : State :=
  finishRequest .flush w.tag status (flushContents w.stream w.sealed s) none s

/-- Every FLUSH waiter of the stream is completed, in the order of acceptance (R114). -/
def completeFlushes (st : StreamId) (status : Status) (s : State) : State :=
  let mine := s.bufs.flushWaiters.filter (fun w => w.stream = st)
  let s := s.setFlushWaiters (s.bufs.flushWaiters.filter (fun w => w.stream ≠ st))
  mine.foldl (fun s w => finishFlush w status s) s

/-- The FLUSH waiters of the stream complete with OK when it has no page in flight (R114). -/
def checkFlushes (st : StreamId) (s : State) : State :=
  if (s.stream st).inFlight = 0 then completeFlushes st .ok s else s

/-! ## The seal -/

/-- The 256 words of a sealed page: the positions from the word count on hold 0xFFFF (R100). -/
def padWords (ws : List Word) : List Word := ws ++ List.replicate (wordsPerPage - ws.length) 0xFFFF

/-- The page takes the number that end page holds, and its tag content fields (R100, steps 1 and 2). -/
def sealInfo (r : StreamRec) (b : PageBuf) : SealInfo where
  pageNumber := r.endPage
  runNumber := r.runNumber
  runStart := r.runStartPending
  gap := r.droppedInRun ≠ 0
  droppedBefore := r.droppedInRun
  wordCount := b.words.length

/-- The stream's part of a seal: end page + 1, stopping at 0xFFFFFFFF; run-start pending and dropped-in-run cleared; one more page
in flight (R52, R100, R101). -/
def StreamRec.afterSeal (r : StreamRec) : StreamRec :=
  { r with
    endPage := satInc maxPage r.endPage
    runStartPending := false
    droppedInRun := 0
    inFlight := r.inFlight + 1 }

/-- A sealed buffer gets a slot: its entry joins the tail of the program queue (R101, R106). -/
def enqueuePage (st : StreamId) (b : BufId) (u : UnitId) (k : Nat) (x : Nat) (s : State) : State :=
  let s := s.setBuf b { s.buf b with place := .queued, unit := some u, slot := some k }
  s.setQueue (s.bufs.queue ++ [⟨b, st, u, k, x⟩])

/-- A sealed buffer is held: the stream becomes STARVED, joins the starved list, STARVED is raised, and its FLUSH waiters complete
with NO_SPACE (R101, R104, R114). Their replies are formed here, in the seal, so that a seal of a run end reports the stream's state
before the run end's step 4 (assumption 33). -/
def starve (st : StreamId) (b : BufId) (s : State) : State :=
  let s := (s.setBuf b { s.buf b with place := .held st }).setHeld st (some b)
  let s := s.setStream st { s.stream st with starved := true }
  let s := raise .starved st.val (s.setStarvedList (s.bufs.starvedList ++ [st]))
  completeFlushes st .noSpace s

/-- Step 3 of a seal: a slot in the accepting unit, or slot 0 of a new unit, or the page is held (R26, R101). -/
def placeSealed (st : StreamId) (b : BufId) (x : Nat) (s : State) : State :=
  match acceptingUnit s st with
  | some u => enqueuePage st b u (s.unit u).assigned x (assignSlot u s)
  | none =>
    match allocateForCapture st x s with
    | some (u, s) => enqueuePage st b u 0 x (assignSlot u s)
    | none => starve st b s

/-- Steps 1 to 3 of the seal of the stream's fill buffer `b` (R99 to R101). The caller takes step 4. -/
def sealPage (st : StreamId) (b : BufId) (s : State) : State :=
  let r := s.stream st
  let pb := s.buf b
  let s := (s.setStream st r.afterSeal).setFill st none
  let s := s.setBuf b { pb with sealed := some (sealInfo r pb), words := padWords pb.words }
  placeSealed st b r.endPage s

/-! ## Relief and discard -/

/-- Starved relief of one stream (R106): its held page goes to slot 0 of a new unit, STARVED clears, and it asks for a buffer when
it is CAPTURING. -/
def relieveOne (st : StreamId) (s : State) : State :=
  let s := s.setStarvedList (s.bufs.starvedList.filter (· ≠ st))
  match s.heldBuf st with
  | none => s
  | some b =>
    let x := match (s.buf b).sealed with
      | some i => i.pageNumber
      | none => (s.stream st).endPage - 1
    match allocateForCapture st x s with
    | none => s
    | some (u, s) =>
      let s := enqueuePage st b u 0 x ((assignSlot u s).setHeld st none)
      let s := s.setStream st { s.stream st with starved := false }
      if (s.stream st).state = .capturing then askBuffer st s else s

/-- Relief of the streams listed, oldest first, while the free count is above 24 (R36). -/
def relieveList : List StreamId → State → State
  | [], s => s
  | st :: l, s => if reserveUnits < s.freeCount then relieveList l (relieveOne st s) else s

/-- Starved relief (R36). -/
def relieve (s : State) : State := relieveList s.bufs.starvedList s

/-- One sealed page of the stream is lost: pages in flight - 1, lost pages total + 1 (R107, R127). -/
def StreamRec.losePage (r : StreamRec) : StreamRec :=
  { r with inFlight := r.inFlight - 1, lostTotal := satInc max32 r.lostTotal }

/-- The held page of one STARVED stream is discarded at WORN entry or SHUTDOWN (R107). -/
def discardHeld (st : StreamId) (s : State) : State :=
  let s := s.setStarvedList (s.bufs.starvedList.filter (· ≠ st))
  let s := s.setStream st { s.stream st with starved := false }
  match s.heldBuf st with
  | none => s
  | some b =>
    let x := match (s.buf b).sealed with
      | some i => i.pageNumber
      | none => (s.stream st).endPage - 1
    let s := (s.setStream st { (s.stream st).losePage with endPage := x }).setHeld st none
    checkFlushes st (freeBuffer b (raise .pageLost st.val s))

/-- Every held page is discarded, in the order of the starved list (R107). -/
def discardAllHeld (s : State) : State := s.bufs.starvedList.foldl (fun s st => discardHeld st s) s

/-! ## The program queue -/

/-- An entry is eligible unless its stream is RELOCATING (R108). -/
def eligible (s : State) (e : QueueEntry) : Bool := !(s.stream e.stream).relocating

/-- The buffer of the program-queue program in progress (R17). -/
def programInProgress (s : State) : Option BufId :=
  match s.engine.op with
  | some op =>
    if op.requester = .programQueue then
      match op.buffer with
      | some (.pageBuffer b) => some b
      | _ => none
    else none
  | none => none

/-- The queue length that STATUS reports and rank 5 counts: eligible entries not in programming (R108). -/
def queueLength (s : State) : Nat :=
  s.bufs.queue.countP (fun e => eligible s e && !(programInProgress s == some e.buf))

/-- The oldest eligible entry (R17). -/
def oldestEligible (s : State) : Option QueueEntry := s.bufs.queue.find? (eligible s)

/-- The page buffer of the stream in place QUEUED, HELD or FAILED whose page has number `x` (R140, step 4). -/
def bufferOfPage (s : State) (st : StreamId) (x : Nat) : Option BufId :=
  (List.finRange 32).find? (fun b =>
    let pb := s.buf b
    (pb.place == .queued || pb.place == .failed || pb.place == .held st) && pb.stream == some st &&
      (match pb.sealed with
       | some i => i.pageNumber == x
       | none => false))

end Sys2Proof.Machine
end

