-- ==== Sys2Proof/Machine/Runs.lean ====
section
/-!
DEFINITION. The stream table: runs, their starts, PEER followers and ends (R54 to R58, R83), words and drops (R60 to R63), the
trigger matrix's hand-over (R77), lane binding (R71), WORN entry's part at the streams (R135).

`barred` is the set of streams that were CAPTURING when the happening in progress began: one of them that is ARMED now has had
its run ended by this happening, and a PEER start passes it over (R83).
-/
namespace Sys2Proof.Machine

/-! ## Lane binding -/

/-- A stream is bound to the lane: it holds a configuration that names it (R47). -/
def isBound (s : State) (l : LaneId) : Bool :=
  allStreams.any (fun st => match (s.stream st).config with
    | some c => c.lane == l
    | none => false)

/-- One lane after a change of the bindings: LISTENING while a stream is bound to it; a lane that changes starts at no word
(R71). -/
def relistenLane (s : State) (l : LaneId) : State :=
  if isBound s l = (s.lane l).listening then s
  else s.setLane l { s.lane l with listening := isBound s l, phase := .awaitBoundary }

/-- Every lane after a change of the bindings (R71). -/
def relisten (s : State) : State := allLanes.foldl relistenLane s

/-- The stream becomes UNDEFINED, with the values of R49; its lane may become IDLE (R71). -/
def becomeUndefined (st : StreamId) (s : State) : State := relisten (s.setStream st StreamRec.undefined)

/-! ## Run start -/

/-- The streams that are CAPTURING. -/
def capturingNow (s : State) : List StreamId := allStreams.filter (fun st => (s.stream st).state = .capturing)

/-- The start source of a stream's configuration. -/
def StreamRec.startSource (r : StreamRec) : Option TriggerSource := r.config.map (·.start)
/-- The stop source of a stream's configuration; none for NONE and without a configuration. -/
def StreamRec.stopSource (r : StreamRec) : Option TriggerSource := r.config.bind (·.stop)
/-- The stream is in GATE mode. -/
def StreamRec.isGate (r : StreamRec) : Bool := (r.config.map (·.mode)) == some .gate
/-- The stream's rearm flag. -/
def StreamRec.rearms (r : StreamRec) : Bool := (r.config.map (·.rearm)) == some true
/-- The stream's skip factor. -/
def StreamRec.skipFactor (r : StreamRec) : Nat := (r.config.map (·.skip)).getD 1

/-- The record of a stream whose run starts (R54, steps 1 to 4). -/
def StreamRec.startRun (r : StreamRec) : StreamRec :=
  { r with
    state := .capturing
    runNumber := r.runNumber + 1
    keptWords := 0
    skipCounter := 0
    droppedInRun := 0
    runStartPending := true }

/-- Steps 1 to 6 of a run start (R54): RUN_START, and a fill buffer unless the stream is STARVED. -/
def beginRun (st : StreamId) (s : State) : State :=
  let s := raise .runStart st.val (s.setStream st (s.stream st).startRun)
  if (s.stream st).starved then s else askBuffer st s

/-- The stream is an ARMED follower of `peer` that may start in this happening (R54, step 7; R83). -/
def isFollower (barred : List StreamId) (peer : StreamId) (s : State) (f : StreamId) : Bool :=
  (s.stream f).state == .armed && (s.stream f).startSource == some .peer &&
    ((s.stream f).config.bind (·.peer)) == some peer && !barred.contains f

/-- A run start with its PEER followers (R54, R83), each follower's own followers before the next follower. A chain of starts has
at most eight streams, so a depth of eight reaches all of them. -/
def startRunDepth (barred : List StreamId) : Nat → StreamId → State → State
  | 0, _, s => s
  | depth + 1, st, s =>
    allStreams.foldl
      (fun s f => if isFollower barred st s f then startRunDepth barred depth f s else s)
      (beginRun st s)

/-- A run start (R54). -/
def startRun (barred : List StreamId) (st : StreamId) (s : State) : State := startRunDepth barred 8 st s

/-! ## Run end -/

/-- The state that a run end leaves (R57). -/
def stateAfterRun (cause : EndCause) (rearm : Bool) : StreamState :=
  match cause with
  | .count => if rearm then .armed else .bound
  | .stopSource => if rearm then .armed else .bound
  | .gate => if rearm then .armed else .bound
  | .stop => .bound
  | .limit => .bound
  | .worn => .bound
  | .shutdown => .bound
  | .fault => .faulted

/-- The stream's fill buffer is sealed. In a stream that has exhausted its numbering no page number is left to assign (R52): the words are
discarded and the buffer is freed (assumption 18). -/
def sealFill (st : StreamId) (b : BufId) (s : State) : State :=
  if maxPage ≤ (s.stream st).endPage then freeBuffer b (s.setFill st none) else sealPage st b s

/-- Step 2 of a run end: the partial page is sealed, or the empty buffer is freed (R56). -/
def closeFill (st : StreamId) (s : State) : State :=
  match s.fillBuf st with
  | none => s
  | some b => if (s.buf b).words = [] then freeBuffer b (s.setFill st none) else sealFill st b s

/-- Steps 3 to 5 of a run end: the wait list, OVERRUN, the new state and RUN_END (R56). -/
def leaveRun (st : StreamId) (cause : EndCause) (s : State) : State :=
  let s := s.setBufWaits (s.bufs.waitList.filter (· ≠ st))
  let r := s.stream st
  raise .runEnd st.val (s.setStream st { r with overrun := false, state := stateAfterRun cause r.rearms })

/-- The cause of a run end is recorded (R56, step 1). -/
def recordCause (st : StreamId) (cause : EndCause) (s : State) : State :=
  s.setStream st { s.stream st with endCause := some cause }

/-- A run end with a cause other than FAULT (R56), and the next run at once when it leaves the stream ARMED on IMMEDIATE (R57). -/
def endRun (barred : List StreamId) (st : StreamId) (cause : EndCause) (s : State) : State :=
  let s := leaveRun st cause (closeFill st (recordCause st cause s))
  if (s.stream st).state = .armed ∧ (s.stream st).startSource = some .immediate then startRun barred st s else s

/-- The run end with cause FAULT (R50, R56): the fill buffer is left to the abandonment, which discards it. -/
def endRunFault (st : StreamId) (s : State) : State := leaveRun st .fault (recordCause st .fault s)

/-- A seal in a run that continues, for a full buffer or a FLUSH (R98): the run ends with LIMIT when its numbers are used up (R52),
and otherwise the stream asks for its next fill buffer unless it is STARVED (R103). -/
def sealContinuing (barred : List StreamId) (st : StreamId) (b : BufId) (s : State) : State :=
  let s := sealFill st b s
  if maxPage ≤ (s.stream st).endPage then endRun barred st .limit s
  else if (s.stream st).starved then s
  else askBuffer st s

/-! ## Words -/

/-- One word of the stream is dropped (R61, R63). -/
def StreamRec.dropWord (r : StreamRec) : StreamRec :=
  { r with droppedInRun := satInc max16 r.droppedInRun, droppedTotal := satInc max32 r.droppedTotal }

/-- The skip counter after a good word (R60). -/
def StreamRec.advanceSkip (r : StreamRec) : StreamRec :=
  { r with skipCounter := if r.skipFactor ≤ r.skipCounter + 1 then 0 else r.skipCounter + 1 }

/-- A kept word in the stream's fill buffer; the first one sets the buffer's stream and first-word time (R61, R98). -/
def PageBuf.place1 (b : PageBuf) (st : StreamId) (w : Word) (t : Time) : PageBuf :=
  if b.words = [] then { b with words := [w], stream := some st, firstWordTime := t } else { b with words := b.words ++ [w] }

/-- A kept word is placed, or dropped when the stream has no fill buffer (R61). -/
def placeWord (st : StreamId) (w : Word) (s : State) : State :=
  match s.fillBuf st with
  | some b => s.setBuf b ((s.buf b).place1 st w s.time)
  | none => s.setStream st (s.stream st).dropWord

/-- The fill buffer of the stream, when it holds 256 words (R61). -/
def fullFill (s : State) (st : StreamId) : Option BufId :=
  match s.fillBuf st with
  | some b => if wordsPerPage ≤ (s.buf b).words.length then some b else none
  | none => none

/-- The count of a COUNT run is reached (R62). -/
def countReached (r : StreamRec) : Bool :=
  match r.config with
  | some c => c.mode == .count && c.count == some r.keptWords
  | none => false

/-- A kept word (R61, R62). -/
def keepWord (barred : List StreamId) (st : StreamId) (w : Word) (s : State) : State :=
  let s := s.setStream st { s.stream st with keptWords := satInc max32 (s.stream st).keptWords }
  let s := placeWord st w s
  if countReached (s.stream st) then endRun barred st .count s
  else
    match fullFill s st with
    | some b => sealContinuing barred st b s
    | none => s

/-- A good word delivered to a CAPTURING stream (R60). -/
def deliverWord (barred : List StreamId) (st : StreamId) (w : Word) (s : State) : State :=
  let kept := (s.stream st).skipCounter = 0
  let s := s.setStream st (s.stream st).advanceSkip
  if kept then keepWord barred st w s else s

/-- The stream is ARMED with start source LEVEL (R73). -/
def isLevelArmed (r : StreamRec) : Bool := r.state == .armed && r.startSource == some .level

/-- The threshold of the stream; 0 when absent. -/
def thresholdOf (r : StreamRec) : Word := (r.config.bind (·.threshold)).getD 0

/-- A good word reaches one stream of the fan-out set, by its state at that moment (R73, R74). -/
def offerWord (barred : List StreamId) (w : Word) (s : State) (st : StreamId) : State :=
  let r := s.stream st
  if r.state = .capturing then deliverWord barred st w s
  else if isLevelArmed r ∧ thresholdOf r ≤ w then deliverWord barred st w (startRun barred st s)
  else s

/-- The stream holds a configuration that names the lane. -/
def boundTo (l : LaneId) (r : StreamRec) : Bool := (r.config.map (·.lane)) == some l

/-- The fan-out set of a good word at a lane: its CAPTURING and LEVEL-armed streams, in ascending number (R73). -/
def fanOut (s : State) (l : LaneId) : List StreamId :=
  allStreams.filter (fun st => boundTo l (s.stream st) && ((s.stream st).state == .capturing || isLevelArmed (s.stream st)))

/-- A good word arrives at a LISTENING lane (R73). -/
def goodWord (l : LaneId) (w : Word) (s : State) : State :=
  let s := s.setLane l { s.lane l with goodWords := (s.lane l).goodWords + 1 }
  (fanOut s l).foldl (offerWord (capturingNow s) w) s

/-- One dropped word in a stream of the lane that is CAPTURING (R63). -/
def dropAt (l : LaneId) (s : State) (st : StreamId) : State :=
  if boundTo l (s.stream st) ∧ (s.stream st).state = .capturing then s.setStream st (s.stream st).dropWord else s

/-- A word with a parity error, or a fragment, arrives at a LISTENING lane (R75). -/
def badWord (l : LaneId) (s : State) : State :=
  let s := s.setLane l { s.lane l with parityErrors := satInc max16 (s.lane l).parityErrors }
  let s := allStreams.foldl (dropAt l) s
  if (s.lane l).faultReported then s
  else raise .laneFault l.val (s.setLane l { s.lane l with faultReported := true })

/-! ## Trigger happenings -/

/-- What a trigger happening is to a stream (R77). -/
inductive TriggerRole where
  | none | start | stop (cause : EndCause)
  deriving DecidableEq, Repr

/-- The matrix hands the happening to one stream it concerns: a start when the stream is still ARMED, a stop when it is still
CAPTURING (R77). -/
def applyRole (barred : List StreamId) (role : TriggerRole) (st : StreamId) (s : State) : State :=
  match role with
  | .none => s
  | .start => if (s.stream st).state = .armed then startRun barred st s else s
  | .stop cause => if (s.stream st).state = .capturing then endRun barred st cause s else s

/-- A trigger happening: the roles are fixed by the state in which it is taken, and handed out in ascending stream number (R77). -/
def trigger (role : StreamRec → StreamId → TriggerRole) (s : State) : State :=
  allStreams.foldl (fun t st => applyRole (capturingNow s) (role (s.stream st) st) st t) s

/-- The role of a happening that is the start source and the stop source `src` (R77, R80, R84, R88). -/
def sourceRole (src : TriggerSource) (r : StreamRec) : TriggerRole :=
  if r.state = .armed ∧ r.startSource = some src then .start
  else if r.state = .capturing ∧ r.stopSource = some src then .stop .stopSource
  else .none

/-- The role of an edge of a pin: in GATE mode the edge to the inactive level ends the run with cause GATE (R80, R81). -/
def edgeRole (pin : PinId) (high : Bool) (r : StreamRec) : TriggerRole :=
  if r.isGate ∧ r.state = .capturing then
    if r.startSource = some (.ext pin (!high)) then .stop .gate else .none
  else sourceRole (.ext pin high) r

/-- In GATE mode, the selected pin's last sampled level is the active one (R66, R81). -/
def gateActive (s : State) (r : StreamRec) : Bool :=
  r.isGate && (match r.startSource with
    | some (.ext pin high) => s.triggers.ext.getLsbD pin.val == high
    | _ => false)

/-! ## All runs end -/

/-- An ARMED stream becomes BOUND, with no run end and no notice (R58). -/
def disarm (s : State) (st : StreamId) : State :=
  if (s.stream st).state = .armed then s.setStream st { s.stream st with state := .bound } else s

/-- Every CAPTURING stream's run ends with the cause, then every ARMED stream becomes BOUND (R58, R135, R182). -/
def endAllRuns (cause : EndCause) (s : State) : State :=
  let s := allStreams.foldl
    (fun t st => if (t.stream st).state = .capturing then endRun (capturingNow s) st cause t else t) s
  allStreams.foldl disarm s

/-- The streams that hold a page are noted, before WORN entry discards the pages, for a FLUSH that follows (R137, assumption 34). -/
def noteHeld (s : State) : State := s.setHeldAtWorn s.bufs.starvedList

/-- The rest of WORN entry, at the end of the happening that began it (R135). -/
def enterWorn (s : State) : State := discardAllHeld (noteHeld (endAllRuns .worn s))

end Sys2Proof.Machine
end

