-- ==== Sys2Proof/Machine/Relocation.lean ====
section
/-!
DEFINITION. The relocation controller: program failure (R117, R118), start and targets (R119, R124), the copy (R120 to R123),
completion (R125, R126) and abandonment (R127); and the PASS of a program-queue program (R110).
-/
namespace Sys2Proof.Machine

/-- A program into the unit ended with PASS: its programmed count rises (R27). -/
def advanceProgrammed (u : UnitId) (s : State) : State :=
  s.setUnit u { s.unit u with programmed := (s.unit u).programmed + 1 }

/-- The entry of a buffer leaves the program queue. -/
def dropEntry (b : BufId) (s : State) : State := s.setQueue (s.bufs.queue.filter (fun e => e.buf ≠ b))

/-- A program-queue program of entry `e` ends with PASS (R110). -/
def queuePass (e : QueueEntry) (s : State) : State :=
  let s := dropEntry e.buf (advanceProgrammed e.unit s)
  let s := s.setStream e.stream { s.stream e.stream with inFlight := (s.stream e.stream).inFlight - 1 }
  checkFlushes e.stream (freeBuffer e.buf s)

/-! ## Abandonment -/

/-- One sealed page of the stream leaves its buffer and is lost (R127, step 3). -/
def losePage (st : StreamId) (b : BufId) (s : State) : State :=
  freeBuffer b (s.setStream st (s.stream st).losePage)

/-- Step 3 of an abandonment: the failed page, the queued pages in queue order, the held page, and the fill buffer last (R127). -/
def discardStreamPages (st : StreamId) (failed : BufId) (s : State) : State :=
  let entries := s.bufs.queue.filter (fun e => e.stream = st)
  let s := losePage st failed (s.setQueue (s.bufs.queue.filter (fun e => e.stream ≠ st)))
  let s := entries.foldl (fun s e => losePage st e.buf s) s
  let s := match s.heldBuf st with
    | some b => losePage st b (s.setHeld st none)
    | none => s
  match s.fillBuf st with
  | some b => freeBuffer b (s.setFill st none)
  | none => s

/-- The units of a chain behind `u`. -/
def unitsAfter (u : UnitId) (chain : List UnitId) : List UnitId := (chain.dropWhile (· ≠ u)).drop 1

/-- The chain up to and with `u`. -/
def chainUpTo (u : UnitId) (chain : List UnitId) : List UnitId := chain.takeWhile (· ≠ u) ++ [u]

/-- The unit map's part of an abandonment (R39): the units behind `u` return to the free list, and `u` is closed at `p`, or retired
when `p` is 0; then starved relief. -/
def truncateChain (st : StreamId) (u : UnitId) (p : Nat) (s : State) : State :=
  let later := unitsAfter u (s.chain st)
  let s := s.setChain st (chainUpTo u (s.chain st))
  let s := later.foldl (fun s v => insertFree v s) s
  let s := if p = 0 then retire u (s.setChain st ((s.chain st).filter (· ≠ u)))
    else s.setUnit u { s.unit u with assigned := p, closed := true }
  relieve s

/-- Step 2 of an abandonment at the stream: FAULTED, with a run end when it is CAPTURING (R50, R127). -/
def faultStream (st : StreamId) (s : State) : State :=
  if (s.stream st).state = .capturing then endRunFault st s
  else s.setStream st { s.stream st with state := .faulted }

/-- Steps 1 to 8 of the abandonment of a relocation of stream `st`, source `u`, failing slot `p`, failed buffer `b` (R127). -/
def abandonBody (st : StreamId) (u : UnitId) (p : Nat) (b : BufId) (s : State) : State :=
  let first := (s.unit u).firstPage.getD 0
  let s := s.setStarvedList (s.bufs.starvedList.filter (· ≠ st))
  let s := s.setStream st { s.stream st with starved := false }
  let s := discardStreamPages st b (faultStream st s)
  let s := s.setStream st { s.stream st with endPage := first + p }
  let s := raise .pageLost st.val (raise .streamFault st.val s)
  let s := completeFlushes st .fault s
  let s := s.setStream st { s.stream st with relocating := false }
  truncateChain st u p s

/-! ## Start, targets -/

/-- The phase in which a copy begins: a unit that failed at slot 0 has no page to copy (R119). -/
def firstPhase (p : Nat) : RelocPhase := if p = 0 then .failedPageDue else .readDue

/-- A relocation takes the head of the free list as its target and begins its copy (R37, R119). -/
def takeTarget (r : Reloc) (v : UnitId) (rest : List UnitId) (s : State) : State :=
  let s := takeFree v rest .target r.stream ((s.unit r.source).firstPage.getD 0) s
  s.setReloc (some { r with target := some v, copyPos := 0, phase := firstPhase r.slot })

/-- The relocation that a wait list entry asks for, before its first target (R119). -/
def relocOf (w : RelocWait) : Reloc := ⟨w.stream, w.source, w.slot, w.buf, none, 1, 0, firstPhase w.slot⟩

/-- The relocations that wait start, the head first: one that finds no target is abandoned, and the next one starts (R118, R119,
R127 step 9). -/
def startWaiting : List RelocWait → State → State
  | [], s => s.setRelocWaits []
  | w :: ws, s =>
    let s := s.setRelocWaits ws
    match s.map.freeList with
    | v :: rest => takeTarget (relocOf w) v rest s
    | [] => startWaiting ws (abandonBody w.stream w.source w.slot w.buf s)

/-- The relocation in progress has ended, and the head of the wait list starts (R118). -/
def startNext (s : State) : State := startWaiting s.reloc.waitList (s.setReloc none)

/-- The relocation in progress is abandoned (R127). -/
def abandon (r : Reloc) (s : State) : State :=
  startNext (abandonBody r.stream r.source r.slot r.buf ((s.setReloc none).setCopyBuffer none))

/-- A failure begins its relocation at once, or waits for the one in progress (R117, step 4). -/
def beginRelocation (w : RelocWait) (s : State) : State :=
  match s.reloc.current with
  | none => startWaiting (w :: s.reloc.waitList) s
  | some _ => s.setRelocWaits (s.reloc.waitList ++ [w])

/-- A program-queue program of entry `e` ends with FAIL (R111, R117). -/
def queueFail (e : QueueEntry) (s : State) : State :=
  let s := dropEntry e.buf s
  let s := s.setBuf e.buf { s.buf e.buf with place := .failed }
  let s := s.setUnit e.unit { s.unit e.unit with state := .frozen }
  let s := s.setStream e.stream { s.stream e.stream with relocating := true }
  beginRelocation ⟨e.stream, e.unit, e.slot, e.buf⟩ s

/-- A program into the target fails: the target is retired, and the next target is taken or the relocation is abandoned (R124). -/
def targetFail (r : Reloc) (v : UnitId) (s : State) : State :=
  let s := (retire v s).setCopyBuffer none
  if r.attempt < maxAttempts then
    let r := { r with attempt := r.attempt + 1, target := none }
    match s.map.freeList with
    | w :: rest => takeTarget r w rest s
    | [] => abandon r s
  else abandon r s

/-! ## The copy -/

/-- A VALID tag names the stream, the slot and the stream page number expected (R122, R145, R177). -/
def tagNames (t : Tag) (st : StreamId) (k x : Nat) : Bool :=
  t.stream.toNat == st.val && t.slot.toNat == k && t.pageNumber.toNat == x

/-- The tag of a copy whose source tag cannot be used (R122). -/
def rebuiltTag (st : StreamId) (u : UnitId) (k x : Nat) (dataCrc : Word) : Tag :=
  ⟨0x5A, BitVec.ofNat 8 st.val, tagFlags false false true true, BitVec.ofNat 8 k, 256, BitVec.ofNat 32 x, 0, 0, 0,
   BitVec.ofNat 16 u.val, dataCrc, 0⟩

/-- The tag of a copy, and whether this read makes it DAMAGED (R122). -/
def copyTag (r : Reloc) (first : Nat) (res : ReadResult) : Tag × Bool :=
  let t := res.page.tag
  if res.cls = .valid ∧ tagNames t r.stream r.copyPos (first + r.copyPos) then
    ({ t with flags := copyFlags t.flags (!res.dataGood), origin := BitVec.ofNat 16 r.source.val }, !res.dataGood)
  else (rebuiltTag r.stream r.source r.copyPos (first + r.copyPos) t.dataCrc, true)

/-- A copy read ends: the copy buffer holds the page with its prepared tag, DAMAGED_PAGE when this read made it DAMAGED, and the
copy program is due (R120, R122). -/
def copyReadEnd (r : Reloc) (res : ReadResult) (s : State) : State :=
  let td := copyTag r ((s.unit r.source).firstPage.getD 0) res
  let s := s.setCopyBuffer (some ⟨res.page.data, td.1⟩)
  let s := if td.2 then raise .damagedPage r.stream.val s else s
  s.setReloc (some { r with phase := .programDue })

/-- A program into the target ended with PASS: both of its counts rise (R37). -/
def advanceTarget (v : UnitId) (s : State) : State :=
  s.setUnit v { s.unit v with assigned := (s.unit v).assigned + 1, programmed := (s.unit v).programmed + 1 }

/-- A copy program ends with PASS: the next slot, the stand-aside mark (R120, R121, R123). -/
def copyPass (r : Reloc) (v : UnitId) (s : State) : State :=
  let k := r.copyPos + 1
  let s := ((advanceTarget v s).setCopyBuffer none).setStandAside true
  s.setReloc (some { r with copyPos := k, phase := if k < r.slot then .readDue else .failedPageDue })

/-! ## Completion -/

/-- The unit map replaces the source with the target (R38): its place in the chain, its counts and its state. -/
def replaceUnit (r : Reloc) (v : UnitId) (s : State) : State :=
  let ru := s.unit r.source
  let last := (s.chain r.stream).getLast? = some r.source
  let s := s.setUnit v { s.unit v with
    firstPage := ru.firstPage
    assigned := ru.assigned
    programmed := r.slot + 1
    closed := false
    state := if last ∧ ru.assigned < slotsPerUnit then .opened else .full }
  retire r.source (s.setChain r.stream ((s.chain r.stream).map (fun x => if x = r.source then v else x)))

/-- The queue entries of the stream that name the source name the target (R126). -/
def renameEntries (r : Reloc) (v : UnitId) (s : State) : State :=
  let s := s.setQueue (s.bufs.queue.map (fun e => if e.stream = r.stream ∧ e.unit = r.source then { e with unit := v } else e))
  s.bufs.queue.foldl
    (fun s e => if e.stream = r.stream ∧ e.unit = v then s.setBuf e.buf { s.buf e.buf with unit := some v } else s) s

/-- The failed page's program passes: the relocation completes (R125). -/
def completeRelocation (r : Reloc) (v : UnitId) (s : State) : State :=
  let s := renameEntries r v (replaceUnit r v (advanceTarget v s))
  let s := s.setStream r.stream { s.stream r.stream with relocating := false }
  let s := freeBuffer r.buf s
  let s := s.setStream r.stream { s.stream r.stream with inFlight := (s.stream r.stream).inFlight - 1 }
  startNext (raise .relocated r.stream.val (checkFlushes r.stream s))

/-- A program of the relocation step ends (R120, R124, R125). -/
def relocProgramEnd (pass : Bool) (s : State) : State :=
  match s.reloc.current with
  | none => s
  | some r =>
    match r.target with
    | none => s
    | some v =>
      if pass then
        if r.phase = .failedPageDue then completeRelocation r v s else copyPass r v s
      else targetFail r v s

/-- A READ of the relocation step ends (R122). -/
def relocReadEnd (res : ReadResult) (s : State) : State :=
  match s.reloc.current with
  | none => s
  | some r => copyReadEnd r res s

/-- The relocation controller is quiet (R116). -/
def relocQuiet (s : State) : Bool := s.reloc.current.isNone && s.reloc.waitList.isEmpty

end Sys2Proof.Machine
end

