-- ==== Sys2Proof/Machine/ReadBack.lean ====
section
/-!
DEFINITION. The read-back path: the lookup (R140), service from a page buffer (R141), the staging buffers (R143), the outcome of an
array read (R145), the reply (R146) and withdrawal (R147).
-/
namespace Sys2Proof.Machine

/-- The words that a READ returns: from the offset on, at most the count, cut at the page's word count (R146). -/
def selectWords (ws : List Word) (wordCount offset count : Nat) : List Word :=
  ((ws.take wordCount).drop offset).take count

/-- The contents of a READ reply with status OK or DAMAGED, after the status (R146, R214). -/
def readContents (q : ReadReq) (run : Word) (wordCount : Word) (flags : Byte) (time : Time) (dropped : Word) (ws : List Word) :
    List Byte :=
  n8 q.stream.val ++ n32 q.pageNumber ++ le16 run ++ le16 wordCount ++ [flags] ++ le32 time ++ le16 dropped ++ n8 ws.length
    ++ ws.flatMap le16

/-- The contents of a READ reply with status NO_DATA or FAULT (R146, R214). -/
def readNothing (q : ReadReq) : List Byte := n8 q.stream.val ++ n32 q.pageNumber

/-- A READ is completed with NO_DATA. -/
def finishNoData (q : ReadReq) (s : State) : State := finishRequest .read q.tag .noData (readNothing q) none s

/-- A READ is served from a page buffer that holds a sealed page: OK, BUFFERED (R141). -/
def serveBuffered (q : ReadReq) (pb : PageBuf) (i : SealInfo) (s : State) : State :=
  let flags := readFlags (tagFlags i.runStart i.gap false false) true
  finishRequest .read q.tag .ok
    (readContents q i.runNumber (BitVec.ofNat 16 i.wordCount) flags pb.firstWordTime (BitVec.ofNat 16 i.droppedBefore)
      (selectWords pb.words i.wordCount q.offset q.count)) none s

/-- The page number lies in a gap of the stream (R140, step 3). -/
def inGap (r : StreamRec) (x : Nat) : Bool := r.gaps.any (fun g => g.first ≤ x && x < g.first + g.count)

/-- The lookup of an accepted READ (R140). -/
def lookupRead (q : ReadReq) (s : State) : State :=
  let r := s.stream q.stream
  if r.state = .undefined then finishNoData q s
  else if q.pageNumber < r.basePage ∨ r.endPage ≤ q.pageNumber then finishNoData q s
  else if inGap r q.pageNumber then finishNoData q s
  else
    match bufferOfPage s q.stream q.pageNumber with
    | some b =>
      match (s.buf b).sealed with
      | some i => serveBuffered q (s.buf b) i s
      | none => s
    | none => s.setReadWaits (s.reads.waitList ++ [q])

/-- A FREE staging buffer, buffer 0 first (R143). -/
def freeStaging (s : State) : Option StagingId :=
  if s.stagingBuf 0 = .free then some 0 else if s.stagingBuf 1 = .free then some 1 else none

/-- The tag contents of a READ reply whose slot does not hold the page expected: rebuilt, flags DAMAGED only (R145). -/
def rebuiltContents (q : ReadReq) (ws : List Word) : List Byte :=
  readContents q 0 256 (readFlags (tagFlags false false false true) false) 0 0 ws

/-- The staging buffer of a completed READ: IN USE while its words wait, FREE when the reply has none (R143). -/
def settleStaging (i : StagingId) (q : ReadReq) (page : Page) (ws : List Word) (s : State) : State :=
  s.setStaging i (if ws = [] then .free else .inUse q (some page))

/-- The staging buffer that a reply with these words refers to (R143). -/
def stagingOf (i : StagingId) (ws : List Word) : Option StagingId := if ws = [] then none else some i

/-- The array read of a READ ended DONE (R145): OK or DAMAGED, from the tag class, the data check and the names in the tag. -/
def readEndDone (i : StagingId) (q : ReadReq) (slot : Nat) (res : ReadResult) (s : State) : State :=
  let t := res.page.tag
  if res.cls = .valid ∧ tagNames t q.stream slot q.pageNumber then
    let status := if res.dataGood ∧ flagDamaged t.flags = false then Status.ok else Status.damaged
    let ws := selectWords res.page.data.toList t.wordCount.toNat q.offset q.count
    finishRequest .read q.tag status
      (readContents q t.runNumber t.wordCount (readFlags t.flags false) t.firstWordTime t.droppedBefore ws) (stagingOf i ws)
      (settleStaging i q res.page ws s)
  else
    let ws := selectWords res.page.data.toList 256 q.offset q.count
    finishRequest .read q.tag .damaged (rebuiltContents q ws) (stagingOf i ws) (settleStaging i q res.page ws s)

/-- The array read of a READ ended TIMEOUT: FAULT, and the staging buffer is FREE at once (R143, R145). -/
def readEndTimeout (i : StagingId) (q : ReadReq) (s : State) : State :=
  finishRequest .read q.tag .fault (readNothing q) none (s.setStaging i .free)

/-- A waiting read's page has become unreachable: the stream is UNDEFINED, or the page lies outside the held range (R147). -/
def unreachable (s : State) (q : ReadReq) : Bool :=
  let r := s.stream q.stream
  r.state == .undefined || q.pageNumber < r.basePage || r.endPage ≤ q.pageNumber

/-- The waiting reads of the stream whose pages have become unreachable are withdrawn and completed with NO_DATA, in order of
acceptance (R147). -/
def withdrawReads (st : StreamId) (s : State) : State :=
  let gone := s.reads.waitList.filter (fun q => decide (q.stream = st) && unreachable s q)
  let s := s.setReadWaits (s.reads.waitList.filter (fun q => !(decide (q.stream = st) && unreachable s q)))
  gone.foldl (fun s q => finishNoData q s) s

end Sys2Proof.Machine
end

