-- ==== Sys2Proof/Machine/Checkpoints.lean ====
section
/-!
DEFINITION. Checkpoints and shutdown: the table-slot pages (R167, R216), the operations of a checkpoint (R168, R169), its success
and failure (R170, R171), the drain condition and the end of SHUTDOWN (R183).
-/
namespace Sys2Proof.Machine

/-- The unit number of a table unit. -/
def tableUnitId (t : Fin 2) : UnitId := ⟨t.val, by omega⟩

/-- The other table unit (R169). -/
def otherTable (t : Fin 2) : Fin 2 := if t = 0 then 1 else 0

/-- The table slot after `k`, or none when `k` was 7 (R170, R171). -/
def nextTableSlot (k : Nat) : Option Nat := if k + 1 < tableSlots then some (k + 1) else none

/-- The array slot of page `i` of table slot `k` (R167). -/
def tablePageSlot (k i : Nat) : Nat := tableSlots * k + i

/-- One entry of the unit table: bits 0 to 14 the erase count, bit 15 the retired flag (R216). -/
def tableEntry (e : Nat × Bool) : Word := BitVec.ofNat 16 (e.1 % 32768 + if e.2 then 32768 else 0)

/-- The lower and upper word of a 32-bit value. -/
def words32 (v : BitVec 32) : List Word := [v.extractLsb' 0 16, v.extractLsb' 16 16]

/-- The header page's data (R216). -/
def headerData (sn : Snapshot) : Vector Word 256 :=
  pageData (words32 (BitVec.ofNat 32 sn.seqNo) ++ [BitVec.ofNat 16 sn.retiredCount])

/-- The data of entry page `i`, 1 to 4 (R216). -/
def entryData (sn : Snapshot) (i : Nat) : Vector Word 256 :=
  pageData (((sn.entries.toList.drop (wordsPerPage * (i - 1))).take wordsPerPage).map tableEntry)

/-- The 2560 data bytes that the CRC-32 of a copy covers (R216). -/
def copyBytes (header : Vector Word 256) (entries : List (Vector Word 256)) : List Byte :=
  dataBytes header ++ entries.flatMap dataBytes

/-- The commit page's data for a sequence number and a CRC-32 (R216). -/
def commitData (seqNo crc : BitVec 32) : Vector Word 256 :=
  pageData ([0xC0A5, 0xC0A5] ++ words32 seqNo ++ words32 crc)

/-- The data bytes of page `i` of a copy, as built in the table buffer from the snapshot (R167, R216). -/
def tablePageData (sn : Snapshot) (i : Nat) : Vector Word 256 :=
  if i = 0 then headerData sn
  else if i < 5 then entryData sn i
  else commitData (BitVec.ofNat 32 sn.seqNo) (crc32 (copyBytes (headerData sn) ([1, 2, 3, 4].map (entryData sn))))

/-- The snapshot of the map (R168): the copy's sequence number is the checkpoint sequence number plus 1. -/
def snapshotOf (s : State) : Snapshot where
  entries := s.map.units.map (fun r => (r.eraseCount, r.state == .retired))
  retiredCount := s.map.retiredCount
  seqNo := s.ctl.seqNo + 1

/-! ## Completion of requests -/

/-- A covered CHECKPOINT request is completed: the checkpoint sequence number, the table unit and the table slot (R173, R214). -/
def finishCheckpoint (status : Status) (tableUnit : Fin 2) (slotByte : Byte) (w : CkptWaiter) (s : State) : State :=
  finishRequest .checkpoint w.tag status (n32 s.ctl.seqNo ++ n8 tableUnit.val ++ [slotByte]) none s

/-- The covered checkpoint waiters are completed and leave the waiters (R170, R171). -/
def finishCovered (status : Status) (tableUnit : Fin 2) (slotByte : Byte) (s : State) : State :=
  let covered := s.ctl.waiters.filter (fun w => w.covered)
  let s := s.setCtl { s.ctl with waiters := s.ctl.waiters.filter (fun w => !w.covered) }
  covered.foldl (fun s w => finishCheckpoint status tableUnit slotByte w s) s

/-- A timer that is RUNNING becomes STOPPED, its period and mode kept (R86, R89). -/
def stopTimer (t : TimerId) (s : State) : State :=
  s.setTimer t { s.timer t with running := false, remaining := 0 }

/-- SHUTDOWN completes once its final checkpoint has ended: the reply, HALTED, and every timer STOPPED (R86, R183). -/
def finishShutdown (s : State) : State :=
  match s.ctl.shutdown with
  | none => s
  | some sd =>
    match sd.outcome with
    | none => s
    | some ok =>
      let s := finishRequest .shutdown sd.tag (if ok then .ok else .fault) (n32 s.ctl.seqNo) none s
      let s := s.setCtl { s.ctl with device := .halted, shutdown := none }
      allTimers.foldl (fun s t => stopTimer t s) s

/-- The final checkpoint has ended with an outcome, which the shutdown record keeps (R183). -/
def recordFinal (final ok : Bool) (s : State) : State :=
  if final then
    s.setCtl { s.ctl with shutdown := s.ctl.shutdown.map (fun sd => { sd with outcome := some ok }) }
  else s

/-! ## The end of a checkpoint -/

/-- The commit program of a checkpoint passed: success (R170). The table buffer is empty again from here (assumption 36). -/
def checkpointSuccess (c : Ckpt) (k : Nat) (s : State) : State :=
  let s := s.setCtl { s.ctl with nextSlot := nextTableSlot k, seqNo := c.snapshot.seqNo }
  let s := raise .checkpointDone (s.ctl.seqNo % 65536) s
  let s := finishCovered .ok c.tableUnit (BitVec.ofNat 8 k) s
  finishShutdown (recordFinal c.final true (s.setCtl { s.ctl with ckpt := none, tableBuffer := none }))

/-- A checkpoint has failed: TABLE_FAULT, the covered waiters with FAULT, and SHUTDOWN when it was the final one (R171, R183). The
table buffer is empty again from here (assumption 36). -/
def checkpointFailure (tableUnit : Fin 2) (slotByte : Byte) (final : Bool) (s : State) : State :=
  let s := raise .tableFault tableUnit.val (s.setCtl { s.ctl with ckpt := none, tableBuffer := none })
  finishShutdown (recordFinal final false (finishCovered .fault tableUnit slotByte s))

/-- The table-unit erase of a checkpoint ended (R169, R171). -/
def checkpointEraseEnd (pass : Bool) (s : State) : State :=
  match s.ctl.ckpt with
  | none => s
  | some c =>
    if pass then
      let u := tableUnitId c.tableUnit
      let s := s.setUnit u { s.unit u with eraseCount := satInc maxEraseCount (s.unit u).eraseCount }
      s.setCtl { s.ctl with
        tableUnit := c.tableUnit
        nextSlot := some 0
        ckpt := some { c with tableSlot := some 0, next := .page 0 } }
    else checkpointFailure c.tableUnit 0xFF c.final s

/-- A page program of a checkpoint ended (R169 to R171). -/
def checkpointProgramEnd (pass : Bool) (s : State) : State :=
  match s.ctl.ckpt with
  | none => s
  | some c =>
    match c.tableSlot, c.next with
    | some k, .page i =>
      if pass then
        if i < 5 then s.setCtl { s.ctl with ckpt := some { c with next := .page (i + 1) } } else checkpointSuccess c k s
      else
        checkpointFailure c.tableUnit (BitVec.ofNat 8 k) c.final (s.setCtl { s.ctl with nextSlot := nextTableSlot k })
    | _, _ => s

/-! ## The drain -/

/-- The drain condition of SHUTDOWN (R183). -/
def drained (s : State) : Bool := s.bufs.queue.isEmpty && relocQuiet s && s.reads.waitList.isEmpty

/-- The final-started flag (R165). -/
def finalStarted (s : State) : Bool := (s.ctl.shutdown.map (·.finalStarted)) == some true

/-- In SHUTTING_DOWN, once drained, with no checkpoint in progress and the final one not started, checkpoint pending is set
(R183). -/
def drainPending (s : State) : State :=
  if s.ctl.device = .shuttingDown ∧ drained s ∧ s.ctl.ckpt = none ∧ finalStarted s = false then
    s.setCtl { s.ctl with ckptPending := true }
  else s

/-! ## The start of a checkpoint -/

/-- The first operation of a checkpoint (R169): the erase of the other table unit when no table slot is left, and otherwise the
header of the next table slot. -/
def checkpointPlan (s : State) (final : Bool) : Ckpt :=
  match s.ctl.nextSlot with
  | none => ⟨snapshotOf s, otherTable s.ctl.tableUnit, none, .erase, final⟩
  | some k => ⟨snapshotOf s, s.ctl.tableUnit, some k, .page 0, final⟩

/-- The operation of a checkpoint's next step is granted, its page built in the table buffer (R10, R169). -/
def startCheckpointOp (c : Ckpt) (s : State) : State :=
  let u := tableUnitId c.tableUnit
  match c.next, c.tableSlot with
  | .page i, some k =>
    (s.setCtl { s.ctl with tableBuffer := some (tablePageData c.snapshot i) }).setOp
      (some ⟨.program, u, some (tablePageSlot k i), .checkpointStep, some .tableBuffer, some .compute, s.time⟩)
  | .page _, none => s
  | .erase, _ => s.setOp (some ⟨.erase, u, none, .checkpointStep, none, none, s.time⟩)

/-- What the start of a checkpoint does before its first operation (R168, steps 1 to 3; R183). -/
def markCheckpointStart (final : Bool) (s : State) : State :=
  let s := { s with map := { s.map with erasesSince := 0 } }
  s.setCtl { s.ctl with
    ckptPending := false
    waiters := s.ctl.waiters.map (fun w => { w with covered := true })
    shutdown := if final then s.ctl.shutdown.map (fun sd => { sd with finalStarted := true }) else s.ctl.shutdown }

/-- A checkpoint starts at its grant (R168). With the sequence number exhausted it writes nothing and ends as a failure; its reply names
the current table unit, as TABLE_FAULT does, and its table slot is a free value (assumption 4). -/
def beginCheckpoint (s : State) : State :=
  let final := s.ctl.device == .shuttingDown && drained s
  let s := markCheckpointStart final s
  if s.ctl.seqNo = max32 then
    checkpointFailure s.ctl.tableUnit (Config.freeTableSlot s.freeUsed) final { s with freeUsed := s.freeUsed + 1 }
  else
    let c := checkpointPlan s final
    startCheckpointOp c (s.setCtl { s.ctl with ckpt := some c })

end Sys2Proof.Machine
end

