-- ==== Sys2Proof/Machine/Mount.lean ====
section
/-!
DEFINITION. The mount scan: its reads (R174), the choice of the unit table's copy (R175), classes and counts of the data units (R176,
R177), relocation groups (R178), overlaps (R179), chains and gaps (R180), and the end of the mount (R181).
-/
namespace Sys2Proof.Machine

/-! ## Which slot is read next -/

/-- The table unit of the scan's table slot `k`, 0 to 15 (R174). -/
def scanTable (k : Fin 16) : Fin 2 := if k.val < 8 then 0 else 1

/-- The table slot in its unit of the scan's table slot `k`. -/
def scanTableSlot (k : Fin 16) : Nat := k.val % 8

/-- The unit and slot that the scan reads next (R174). -/
def scanTarget : ScanPos → UnitId × Nat
  | .header k => (tableUnitId (scanTable k), tablePageSlot (scanTableSlot k) 0)
  | .commit k _ => (tableUnitId (scanTable k), tablePageSlot (scanTableSlot k) 5)
  | .entry k _ _ got => (tableUnitId (scanTable k), tablePageSlot (scanTableSlot k) (1 + got.length))
  | .slot0 u => (u, 0)
  | .slot63 u _ => (u, 63)
  | .count u _ _ next _ => (u, next)
  | .blank u next => (u, next)

/-! ## Step 1: the copy of the unit table -/

/-- Word `i` of a page as read. -/
def wordAt (p : Page) (i : Nat) : Word := p.data.toList.getD i 0

/-- The 32-bit field that begins at word `i` of a page. -/
def longAt (p : Page) (i : Nat) : BitVec 32 := word32 (wordAt p i) (wordAt p (i + 1))

/-- The commit page holds the commit mark with a VALID tag (R174). -/
def hasCommitMark (r : ReadResult) : Bool := r.cls == .valid && longAt r.page 0 == 0xC0A5C0A5

/-- A page reads with a VALID tag and DATA GOOD (R167). -/
def soundPage (r : ReadResult) : Bool := r.cls == .valid && r.dataGood

/-- A table slot is used: its header or its commit page does not read BLANK (R167). -/
def slotUsed (hdr cmt : ReadResult) : Bool := !(hdr.cls == .blank && cmt.cls == .blank)

/-- A copy is valid by the four lines of R167, which ask for VALID tags of its pages, where the end of R5 says that the tags do not decide it
(assumption 42). -/
def copyValid (hdr cmt : ReadResult) (entries : List ReadResult) : Bool :=
  soundPage cmt && hasCommitMark cmt && soundPage hdr && entries.all soundPage && entries.length == 4 &&
    crc32 (copyBytes hdr.page.data (entries.map (fun r => r.page.data))) == longAt cmt.page 4 &&
    longAt hdr.page 0 == longAt cmt.page 2

/-- The better of two copies: the higher sequence number, and the one read first when they are equal (R175). -/
def betterCopy (old : Option TableCopy) (new : TableCopy) : TableCopy :=
  match old with
  | none => new
  | some c => if c.seqNo < new.seqNo then new else c

/-- The scan after the reads of one table slot (R167, R175). -/
def noteTableSlot (k : Fin 16) (hdr cmt : ReadResult) (entries : List ReadResult) (sc : Scan) : Scan :=
  let sc := if slotUsed hdr cmt then
      { sc with highUsed := vset sc.highUsed (scanTable k) (some (scanTableSlot k)) } else sc
  if copyValid hdr cmt entries then
    { sc with best := some (betterCopy sc.best
        ⟨(longAt hdr.page 0).toNat, scanTable k, entries.flatMap (fun r => r.page.data.toList)⟩) }
  else sc

/-- The unit record that an entry of the chosen copy gives (R175). -/
def recordOfEntry (table : Bool) (r : UnitRec) (e : Word) : UnitRec :=
  { r with
    eraseCount := e.toNat % 32768
    state := if !table && e.getLsbD 15 then .retired else r.state }

/-- The data units. -/
def dataUnits : List UnitId := (List.finRange 1024).filter (fun u => 2 ≤ u.val)

/-- The erase counts and retired flags of the chosen copy are taken (R175). -/
def applyEntries (entries : List Word) (s : State) : State :=
  (List.finRange 1024).foldl
    (fun s u => s.setUnit u (recordOfEntry (u.val < 2) (s.unit u) (entries.getD u.val 0))) s

/-- The retired set and count after the entries are taken (R175). -/
def collectRetired (s : State) : State :=
  let l := dataUnits.filter (fun u => (s.unit u).state = .retired)
  { s with map := { s.map with retiredSet := l, retiredCount := l.length } }

/-- The first table slot above the highest used one of a table unit; none when slot 7 is used (R175). -/
def slotAbove : Option Nat → Option Nat
  | none => some 0
  | some k => nextTableSlot k

/-- Step 1 ends: the chosen copy is applied; without a valid copy the counts are 0, no unit is retired, and the table position is
unit 1 with next slot none (R175). -/
def chooseCopy (sc : Scan) (s : State) : State :=
  match sc.best with
  | some c =>
    let s := collectRetired (applyEntries c.entries s)
    s.setCtl { s.ctl with
      seqNo := c.seqNo
      tableUnit := c.tableUnit
      nextSlot := slotAbove (vget sc.highUsed c.tableUnit) }
  | none => s.setCtl { s.ctl with seqNo := 0, tableUnit := 1, nextSlot := none }

/-! ## Steps 2 and 3: the data units -/

/-- The first data unit with a number from `n` on that is not retired (R174). -/
def nextDataUnit (s : State) (n : Nat) : Option UnitId :=
  dataUnits.find? (fun u => n ≤ u.val && (s.unit u).state != .retired)

/-- The stream that a VALID tag names together with its slot `k`; none for any other tag (R176). -/
def ownerOf (r : ReadResult) (k : Nat) : Option StreamId :=
  if r.cls = .valid ∧ r.page.tag.slot.toNat = k then streamOf r.page.tag.stream else none

/-- Slot `k` of a unit whose slot 0 is `r0` counts as a valid page (R177). -/
def countsAsValid (r0 r : ReadResult) (k : Nat) : Bool :=
  r.cls == .valid && r.page.tag.stream == r0.page.tag.stream && r.page.tag.slot.toNat == k &&
    r.page.tag.pageNumber.toNat == r0.page.tag.pageNumber.toNat + k

/-- The result of an owned unit (R176, R177). -/
def ownedResult (u : UnitId) (st : StreamId) (r0 r63 : ReadResult) (count : Nat) (ending : ScanEnd) (run : Word) : ScanResult :=
  .owned ⟨u, st, r0.page.tag.pageNumber.toNat, r0.page.tag.origin, count, ending, r63.cls == .blank, run⟩

/-- The end of the count at a slot that does not count (R177). -/
def endOf (r : ReadResult) : ScanEnd := if r.cls = .blank then .blankEnd else .badEnd

/-! ## Step 4: relocation groups -/

/-- What the settling of groups works on: the owned units in ascending number, the units to retire in order, the units made DIRTY,
and the sources that won their groups. -/
structure Groups where
  owned : List Owned
  retire : List UnitId
  dirty : List UnitId
  won : List UnitId
  deriving DecidableEq, Repr

/-- `v` is a copy of `u`: its origin is `u`, and its stream and first page are those of `u` (R178). -/
def isCopyOf (v u : Owned) : Bool :=
  v.unit != u.unit && v.origin.toNat == u.unit.val && v.stream == u.stream && v.first == u.first

/-- The winning copy: the highest count, and among equals the lower unit number (R178). -/
def bestOf : List Owned → Option Owned
  | [] => none
  | v :: l =>
    match bestOf l with
    | none => some v
    | some w => if v.count < w.count ∨ (v.count = w.count ∧ w.unit < v.unit) then some w else some v

/-- The relocation group of `u` is settled (R178). -/
def settleGroup (u : Owned) (g : Groups) : Groups :=
  let copies := g.owned.filter (fun v => isCopyOf v u)
  match bestOf copies with
  | none => g
  | some v =>
    if v.count < u.count then
      { g with
        owned := g.owned.filter (fun x => !isCopyOf x u)
        dirty := g.dirty ++ copies.map (·.unit)
        won := g.won ++ [u.unit] }
    else
      { g with
        owned := g.owned.filter (fun x => x.unit != u.unit && (x.unit == v.unit || !isCopyOf x u))
        retire := g.retire ++ [u.unit]
        dirty := g.dirty ++ (copies.filter (fun x => x.unit != v.unit)).map (·.unit) }

/-- The next group to settle: the lowest unit still to do that is no copy of a unit still to do (R178: the group in which a unit is a
copy is settled first; the order among the others is assumption 12). -/
def nextGroup (todo : List UnitId) (g : Groups) : Option Owned :=
  let open' := g.owned.filter (fun x => todo.contains x.unit)
  open'.find? (fun v => !open'.any (fun u => isCopyOf v u))

/-- Every group is settled, one after another. Units that name one another in a circle form no group, nor does a unit whose origin leads
into the circle (assumption 12). -/
def settleGroups : Nat → List UnitId → Groups → Groups
  | 0, _, g => g
  | n + 1, todo, g =>
    match nextGroup todo g with
    | none => g
    | some u => settleGroups n (todo.filter (· ≠ u.unit)) (settleGroup u g)

/-! ## Step 5: overlaps -/

/-- Two owned units of one stream share a page number (R179). -/
def overlaps (a b : Owned) : Bool :=
  a.stream == b.stream && a.first < b.first + b.count && b.first < a.first + a.count

/-- The order of step 5: descending count, and among equals ascending unit number (R179). -/
def takenBefore (a b : Owned) : Bool := b.count < a.count || (a.count == b.count && a.unit < b.unit)

/-- An owned unit put in its place by a strict order. -/
def orderedInsert (before : Owned → Owned → Bool) (x : Owned) : List Owned → List Owned
  | [] => [x]
  | y :: l => if before x y then x :: y :: l else y :: orderedInsert before x l

/-- Owned units sorted by a strict order. -/
def sortOwned (before : Owned → Owned → Bool) (l : List Owned) : List Owned :=
  l.foldl (fun acc x => orderedInsert before x acc) []

/-- Step 5 (R179): the units kept, and the units that become DIRTY. -/
def keepUnits (l : List Owned) : List Owned × List UnitId :=
  (sortOwned takenBefore l).foldl
    (fun acc x => if acc.1.any (overlaps x) then (acc.1, acc.2 ++ [x.unit]) else (acc.1 ++ [x], acc.2)) ([], [])

/-! ## Step 6: chains and gaps -/

/-- The gaps between the units of a chain (R180). -/
def gapsOf : List Owned → List Gap
  | a :: b :: l =>
    if a.first + a.count < b.first then ⟨a.first + a.count, b.first - (a.first + a.count)⟩ :: gapsOf (b :: l)
    else gapsOf (b :: l)
  | _ => []

/-- A chain with more than 4 gaps: every unit before the fourth gap from its end leaves it, and the gaps that such a unit bounds are dropped,
so that the gaps that stay lie in the held range (R51, R180; assumption 13). -/
def trimChain (chain : List Owned) : List Owned × List Gap × List UnitId :=
  let gaps := gapsOf chain
  if maxGaps < gaps.length then
    let cut := match gaps.drop (gaps.length - maxGaps) with
      | g :: _ => g.first
      | [] => 0
    let stay := chain.filter (fun x => cut ≤ x.first)
    (stay, gapsOf stay, (chain.filter (fun x => x.first < cut)).map (·.unit))
  else (chain, gaps, [])

/-- The state and closed flag of a unit of a chain (R180). -/
def chainState (won : Bool) (last : Bool) (o : Owned) : UnitState × Bool :=
  if won then (.frozen, true)
  else if o.count = slotsPerUnit then (.full, false)
  else if last && o.ending == .blankEnd && o.slot63Blank then (.opened, false)
  else (.full, true)

/-- The record of a unit of a chain after mount (R180). -/
def chainRecord (r : UnitRec) (won last : Bool) (o : Owned) : UnitRec :=
  { state := (chainState won last o).1
    eraseCount := r.eraseCount
    owner := some o.stream
    firstPage := some o.first
    assigned := o.count
    programmed := o.count
    closed := (chainState won last o).2 }

/-- One stream's chain is set, and the stream that has units becomes DORMANT (R180, R181). End page stops at 0xFFFFFFFF (R52, assumption
28). -/
def buildStream (won : List UnitId) (chain : List Owned) (gaps : List Gap) (st : StreamId) (s : State) : State :=
  match chain.head?, chain.getLast? with
  | some a, some z =>
    let s := chain.foldl
      (fun s o => s.setUnit o.unit (chainRecord (s.unit o.unit) (won.contains o.unit) (o.unit == z.unit) o)) s
    let s := s.setChain st (chain.map (·.unit))
    s.setStream st { StreamRec.undefined with
      state := .dormant
      basePage := a.first
      endPage := min (z.first + z.count) maxPage
      runNumber := z.lastRun
      gaps := gaps }
  | _, _ => s

/-! ## The end of the mount -/

/-- The owned units among the results, in scan order. -/
def ownedOf (l : List ScanResult) : List Owned :=
  l.filterMap (fun r => match r with
    | .owned o => some o
    | .free _ => none
    | .dirty _ => none)

/-- The units found blank. -/
def freeOf (l : List ScanResult) : List UnitId :=
  l.filterMap (fun r => match r with
    | .free u => some u
    | .dirty _ => none
    | .owned _ => none)

/-- The units found DIRTY. -/
def dirtyOf (l : List ScanResult) : List UnitId :=
  l.filterMap (fun r => match r with
    | .dirty u => some u
    | .free _ => none
    | .owned _ => none)

/-- Step 4 of the mount (R178). -/
def groupsOf (results : List ScanResult) : Groups :=
  let owned := ownedOf results
  settleGroups owned.length (owned.map (·.unit)) ⟨owned, [], [], []⟩

/-- The chain of a stream from the kept units: ascending first page, trimmed to 4 gaps (R180). -/
def streamChain (kept : List Owned) (st : StreamId) : List Owned × List Gap × List UnitId :=
  trimChain (sortOwned (fun a b => a.first < b.first) (kept.filter (fun o => o.stream = st)))

/-- Every DIRTY unit joins the dirty list, in ascending unit number (R31, R181). -/
def buildDirty (l : List UnitId) (s : State) : State :=
  (dataUnits.filter (fun u => l.contains u)).foldl (fun s u => appendDirty u s) s

/-- The state that the mount leaves, and MOUNT_DONE (R181). The scan goes, with its buffer (assumption 40), and a backlog that the mount's
UNIT_RETIRED notices have filled drops MOUNT_DONE (R205, assumption 41). -/
def leaveMounting (s : State) : State :=
  let d : DeviceState := if wornLimit ≤ s.map.retiredCount then .worn else .ready
  raise .mountDone (deviceCode d).toNat (s.setCtl { s.ctl with device := d, scan := none })

/-- Steps 4 to 8 of the mount, in the happening of the scan's last read (R174, R178 to R181). -/
def settleMount (results : List ScanResult) (s : State) : State :=
  let g := groupsOf results
  let s := g.retire.foldl (fun s u => retire u s) s
  let kd := keepUnits g.owned
  let chains := allStreams.map (fun st => (st, streamChain kd.1 st))
  let s := chains.foldl (fun s c => buildStream g.won c.2.1 c.2.2.1 c.1 s) s
  let s := (freeOf results).foldl (fun s u => insertFree u s) s
  let s := buildDirty (dirtyOf results ++ g.dirty ++ kd.2 ++ chains.flatMap (fun c => c.2.2.2)) s
  leaveMounting s

/-! ## One read of the scan -/

/-- The scan goes on at a position. -/
def setScan (sc : Scan) (pos : ScanPos) (s : State) : State := s.setCtl { s.ctl with scan := some { sc with pos := pos } }

/-- The scan goes on at the first data unit from `n` on, or settles the map when there is none (R174). -/
def scanFrom (sc : Scan) (n : Nat) (s : State) : State :=
  match nextDataUnit s n with
  | some u => setScan sc (.slot0 u) s
  | none => settleMount sc.results s

/-- The result of a data unit is recorded, and the scan goes on behind it. -/
def finishUnit (sc : Scan) (u : UnitId) (res : ScanResult) (s : State) : State :=
  scanFrom { sc with results := sc.results ++ [res] } (u.val + 1) s

/-- The reads of one table slot have ended: the next table slot, or step 1 ends (R174, R175). -/
def finishTableSlot (sc : Scan) (k : Fin 16) (hdr cmt : ReadResult) (entries : List ReadResult) (s : State) : State :=
  let sc := noteTableSlot k hdr cmt entries sc
  if h : k.val + 1 < 16 then setScan sc (.header ⟨k.val + 1, h⟩) s else scanFrom sc 2 (chooseCopy sc s)

/-- The scan has the results of slots 0 and 63 of a unit (R176). -/
def classifyUnit (sc : Scan) (u : UnitId) (r0 r63 : ReadResult) (s : State) : State :=
  match ownerOf r0 0 with
  | some _ => setScan sc (.count u r0 r63 1 r0.page.tag.runNumber) s
  | none =>
    if r0.cls = .blank ∧ r63.cls = .blank then setScan sc (.blank u 1) s else finishUnit sc u (.dirty u) s

/-- The unit's result when the count stands at `count` valid pages and ends (R177). -/
def finishCount (sc : Scan) (u : UnitId) (r0 r63 : ReadResult) (count : Nat) (ending : ScanEnd) (run : Word) (s : State) : State :=
  match ownerOf r0 0 with
  | some st => finishUnit sc u (ownedResult u st r0 r63 count ending run) s
  | none => finishUnit sc u (.dirty u) s

/-- Slot `k` of an owned unit has been read (R177). Slot 63 is not read a second time: the result of step 2 stands for it. -/
def countSlot (sc : Scan) (u : UnitId) (r0 r63 : ReadResult) (k : Nat) (run : Word) (r : ReadResult) (s : State) : State :=
  if countsAsValid r0 r k then
    if k + 1 < 63 then setScan sc (.count u r0 r63 (k + 1) r.page.tag.runNumber) s
    else if countsAsValid r0 r63 63 then finishCount sc u r0 r63 64 .full r63.page.tag.runNumber s
    else finishCount sc u r0 r63 63 (endOf r63) r.page.tag.runNumber s
  else finishCount sc u r0 r63 k (endOf r) run s

/-- Slot `k`, 1 to 62, of a unit whose slots 0 and 63 are BLANK has been read (R176). -/
def blankSlot (sc : Scan) (u : UnitId) (k : Nat) (r : ReadResult) (s : State) : State :=
  if r.cls = .blank then
    if k < 62 then setScan sc (.blank u (k + 1)) s else finishUnit sc u (.free u) s
  else finishUnit sc u (.dirty u) s

/-- A read of the mount step ends, and the scan records it (R174). -/
def scanReadEnd (r : ReadResult) (s : State) : State :=
  match s.ctl.scan with
  | none => s
  | some sc0 =>
    let sc := { sc0 with buffer := some r.page }
    match sc.pos with
    | .header k => setScan sc (.commit k r) s
    | .commit k hdr => if hasCommitMark r then setScan sc (.entry k hdr r []) s else finishTableSlot sc k hdr r [] s
    | .entry k hdr cmt got =>
      let got := got ++ [r]
      if got.length < 4 then setScan sc (.entry k hdr cmt got) s else finishTableSlot sc k hdr cmt got s
    | .slot0 u => setScan sc (.slot63 u r) s
    | .slot63 u r0 => classifyUnit sc u r0 r s
    | .count u r0 r63 k run => countSlot sc u r0 r63 k run r s
    | .blank u k => blankSlot sc u k r s

end Sys2Proof.Machine
end

