-- ==== Sys2Proof/Machine/Transmit.lean ====
section
/-!
DEFINITION. The transmitter (R199), the NOTICE frame (R200, R206, R214), resets (R185, R19, R203) and the departure of a reply (R198).
-/
namespace Sys2Proof.Machine

/-! ## Frames -/

/-- The bytes of a backlog entry in a NOTICE frame (R214). -/
def noticeBytes (n : Notice) : List Byte := n8 (noticeBit n.kind) ++ le16 n.arg ++ le32 n.time

/-- The BODY of a NOTICE frame (R206, R214). -/
def noticeBody (n : NoticeUnit) : List Byte :=
  [0xC0, 0x00] ++ le16 n.pendingSet ++ b8 n.overflow ++ n8 n.backlog.length ++ n.backlog.flatMap noticeBytes

/-- The transmitter starts a NOTICE frame: the backlog is emptied, the overflow flag cleared, the spacing count 0 (R199, R206). -/
def startNotice (s : State) : State :=
  { s with
    link := { s.link with tx := .sendingNotice (wireFrame (noticeBody s.notices)), spacing := 0 }
    notices := { s.notices with backlog := [], overflow := false } }

/-- The stage of a reply's request becomes SENDING (R195). -/
def markSending (src : ReplySource) (l : List Request) : List Request :=
  match src with
  | .request tag _ => l.map (fun r => if r.tag = tag then { r with stage := .sending } else r)
  | .refusal => l

/-- The transmitter starts the oldest reply; the spacing count rises when the backlog is non-empty (R199). -/
def startReply (r : Reply) (s : State) : State :=
  { s with link := { s.link with
      tx := .sendingReply (wireFrame r.body)
      requests := markSending r.source s.link.requests
      spacing := if s.notices.backlog = [] then s.link.spacing else satInc maxSpacing s.link.spacing } }

/-- The transmitter, IDLE and not held, chooses its next frame (R199). -/
def chooseFrame (s : State) : State :=
  if s.notices.backlog ≠ [] ∧ s.link.spacing = maxSpacing then startNotice s
  else
    match s.link.replies with
    | r :: _ => startReply r s
    | [] => if s.notices.backlog ≠ [] then startNotice s else s

/-- The transmitter is IDLE and its hold time is not running. -/
def canChoose (s : State) : Bool := s.link.tx == .idle && !s.link.holding

/-- The end of a happening at an IDLE transmitter: what joined the reply queue or the backlog is sent (R199). The choice stands at the end
of the happening, so that a NOTICE frame started by it carries every entry that the happening has raised (R205, assumption 37). When one
happening has brought a reply and a notice, they are taken in either order: a free value (assumption 2). -/
def transmitArrivals (s : State) : State :=
  if canChoose s then
    if s.link.replies ≠ [] ∧ s.notices.backlog ≠ [] then
      let t := { s with freeUsed := s.freeUsed + 1 }
      if Config.noticeFirst s.freeUsed then startNotice t else chooseFrame t
    else chooseFrame s
  else s

/-! ## Resets -/

/-- What a cut operation leaves in the array (R19). -/
def cutOperation (s : State) : State :=
  match s.engine.op with
  | none => s
  | some op =>
    match op.kind with
    | .read => s
    | .program => spoilSlot op.unit (op.slot.getD 0) s
    | .erase => undefineUnit op.unit s

/-- A reset (R185): all RAM state at its after-reset values, the operation in progress cut, device time 0, the straps sampled. The
array, the supply, the RST# pin and the pins' levels are not RAM. -/
def resetDevice (straps : Straps) (s : State) : State :=
  let s := cutOperation s
  { State.reset with
    pending := s.pending
    powered := s.powered
    rstLow := s.rstLow
    array := s.array
    freeUsed := s.freeUsed
    triggers := { State.reset.triggers with ext := s.triggers.ext }
    link := Link.reset (rateOf straps) }

/-- At the end of a reset the matrix takes each pin's present level (R79). -/
def sampleExt (ext : BitVec 4) (s : State) : State := { s with triggers := { s.triggers with ext := ext } }

/-! ## The departure of a frame -/

/-- The request table, the refusal slot and the staging buffer after a reply has left (R198). -/
def releaseReply (r : Reply) (rest : List Reply) (s : State) : State :=
  let s := match r.source with
    | .request tag _ => s.setLink { s.link with
        replies := rest, tx := .idle, requests := s.link.requests.filter (fun q => q.tag ≠ tag) }
    | .refusal => s.setLink { s.link with replies := rest, tx := .idle, refusalBusy := false }
  match r.staging with
  | some i => s.setStaging i .free
  | none => s

/-- The reply is the reply to a RESET (R198, R202). -/
def isResetReply (r : Reply) : Bool :=
  match r.source with
  | .request _ k => k == .reset
  | .refusal => false

/-- The last byte of the reply being sent leaves TXD (R198, R202). -/
def replyDeparts (straps : Straps) (ext : BitVec 4) (s : State) : State :=
  match s.link.tx, s.link.replies with
  | .sendingReply _, r :: rest =>
    if isResetReply r then sampleExt ext (resetDevice straps s) else chooseFrame (releaseReply r rest s)
  | _, _ => s

/-- The last byte of the NOTICE frame being sent leaves TXD (R199). -/
def noticeDeparts (s : State) : State :=
  match s.link.tx with
  | .sendingNotice _ => chooseFrame (s.setLink { s.link with tx := .idle })
  | .idle => s
  | .sendingReply _ => s

end Sys2Proof.Machine
end

