-- ==== Sys2Proof/Machine/Arbiter.lean ====
section
/-!
DEFINITION. The array arbiter: the claims (R13), their ranks (R14), the permission for erases (R16), the grants (R10, R15, R17, R120,
R144, R160, R168, R169, R174), the ends of operations (R11), and what every happening ends with.
-/
namespace Sys2Proof.Machine

/-- The claimants of the array port (R13). -/
inductive Claim where
  | mount | relocation | checkpoint | erase | read | program
  deriving DecidableEq, Repr

/-- Data-unit erases are permitted (R16, R182). A SHUTDOWN accepted in WORN brings the permission back until its final checkpoint starts, where
the end of R163 says that it returns in READY only (assumption 39). -/
def erasePermitted (s : State) : Bool :=
  s.ctl.device == .ready || (s.ctl.device == .shuttingDown && !finalStarted s)

/-- The relocation step has an operation due: a relocation in progress with its target present (R120). -/
def relocationDue (s : State) : Bool :=
  match s.reloc.current with
  | some r => r.target.isSome
  | none => false

/-- A claim is present (R13). -/
def claims (s : State) : Claim → Bool
  | .mount => s.ctl.device == .mounting && s.ctl.scan.isSome
  | .relocation => relocationDue s && !s.reloc.standAside
  | .checkpoint => s.ctl.ckpt.isSome || s.ctl.ckptPending
  | .erase => !s.map.dirtyList.isEmpty && erasePermitted s
  | .read => !s.reads.waitList.isEmpty && (freeStaging s).isSome
  | .program => (oldestEligible s).isSome

/-- The further condition of rank 4 (R14). -/
def eraseRises (s : State) : Bool := s.freeCount ≤ reserveUnits

/-- The further condition of rank 5 (R14). -/
def readRises (s : State) : Bool := queueLength s < deepQueue || s.engine.readBalance == maxReadBalance

/-- The claim that the arbiter grants at an IDLE port: the highest-ranked one present, the mount step alone in MOUNTING and none in
HALTED (R14). -/
def ranked (s : State) : Option Claim :=
  match s.ctl.device with
  | .mounting => if claims s .mount then some .mount else none
  | .halted => none
  | _ =>
    if claims s .relocation then some .relocation
    else if claims s .checkpoint then some .checkpoint
    else if claims s .erase && eraseRises s then some .erase
    else if claims s .read && readRises s then some .read
    else if claims s .program then some .program
    else if claims s .read then some .read
    else if claims s .erase then some .erase
    else none

/-- The arbiter's choice: none while the port is BUSY (R10, R14). -/
def winner (s : State) : Option Claim := if s.engine.op.isSome then none else ranked s

/-! ## Grants -/

/-- The port is granted: the operation in progress is recorded with the present device time, and a stand-aside mark clears (R10,
R121). -/
def startOp (kind : OpKind) (u : UnitId) (slot : Option Nat) (req : Requester) (buf : Option BufferRef) (mode : Option CrcMode)
    (s : State) : State :=
  (s.setStandAside false).setOp (some ⟨kind, u, slot, req, buf, mode, s.time⟩)

/-- The program claim is granted: the oldest eligible entry (R15, R17). -/
def grantProgram (s : State) : State :=
  match oldestEligible s with
  | none => s
  | some e =>
    let s := { s with engine := { s.engine with readBalance := satInc maxReadBalance s.engine.readBalance } }
    startOp .program e.unit (some e.slot) .programQueue (some (.pageBuffer e.buf)) (some .compute) s

/-- The read claim is granted: the oldest waiting read, looked up again (R144). -/
def grantRead (s : State) : State :=
  match s.reads.waitList, freeStaging s with
  | q :: rest, some i =>
    match locate s q.stream q.pageNumber with
    | none => s
    | some (u, k) =>
      let s := (s.setReadWaits rest).setStaging i (.inUse q none)
      let s := { s with engine := { s.engine with readBalance := 0 } }
      startOp .read u (some k) .readPath (some (.staging i)) none s
  | _, _ => s

/-- The erase claim is granted: the head of the dirty list becomes ERASING (R160). -/
def grantErase (s : State) : State :=
  match s.map.dirtyList with
  | [] => s
  | u :: rest =>
    let s := (s.setDirtyList rest).setUnit u ((s.unit u).clear .erasing)
    startOp .erase u none .eraseProcess none none s

/-- The relocation step is granted its due operation (R120). -/
def grantRelocation (s : State) : State :=
  match s.reloc.current with
  | none => s
  | some r =>
    match r.target with
    | none => s
    | some v =>
      match r.phase with
      | .readDue => startOp .read r.source (some r.copyPos) .relocationStep (some .copyBuffer) none s
      | .programDue => startOp .program v (some r.copyPos) .relocationStep (some .copyBuffer) (some .keep) s
      | .failedPageDue => startOp .program v (some r.slot) .relocationStep (some (.pageBuffer r.buf)) (some .compute) s

/-- The mount step is granted the next read of the scan (R174). -/
def grantMountRead (s : State) : State :=
  match s.ctl.scan with
  | none => s
  | some sc =>
    startOp .read (scanTarget sc.pos).1 (some (scanTarget sc.pos).2) .mountStep (some .scanBuffer) none s

/-- The checkpoint step is granted the next operation of the checkpoint in progress (R169). -/
def grantCheckpointOp (s : State) : State :=
  match s.ctl.ckpt with
  | none => s
  | some c => startCheckpointOp c (s.setStandAside false)

/-! ## Ends of operations -/

/-- The page that a page buffer gives to a PROGRAM: as sealed, with RELOC and the origin unit when the relocation controller
programs it (R100, R120). -/
def bufferPage (pb : PageBuf) (reloc : Bool) (origin : Word) (slot : Nat) : Page :=
  let i := pb.sealed.getD ⟨0, 0, false, false, 0, 0⟩
  let st := match pb.stream with
    | some x => x.val
    | none => 0
  ⟨pageData pb.words,
   ⟨0x5A, BitVec.ofNat 8 st, tagFlags i.runStart i.gap reloc false, BitVec.ofNat 8 slot, BitVec.ofNat 16 i.wordCount,
    BitVec.ofNat 32 i.pageNumber, i.runNumber, BitVec.ofNat 16 i.droppedBefore, pb.firstWordTime, origin, 0, 0⟩⟩

/-- The origin unit of the page that the relocation in progress programs (R120). -/
def relocOrigin (s : State) : Word :=
  match s.reloc.current with
  | some r => BitVec.ofNat 16 r.source.val
  | none => 0xFFFF

/-- The page that the operation in progress programs, before the engine completes its tag (R5, R7, R120). -/
def pageToProgram (op : Operation) (s : State) : Page :=
  let k := op.slot.getD 0
  match op.buffer with
  | some (.pageBuffer b) =>
    if op.requester = .relocationStep then bufferPage (s.buf b) true (relocOrigin s) k else bufferPage (s.buf b) false 0xFFFF k
  | some .copyBuffer => s.reloc.copyBuffer.getD erasedPage
  | some .tableBuffer => ⟨s.ctl.tableBuffer.getD (Vector.replicate 256 0xFFFF), tableTag k⟩
  | some (.staging _) => erasedPage
  | some .scanBuffer => erasedPage
  | none => erasedPage

/-- The program queue's entry whose buffer is being programmed handles its outcome (R110, R111). -/
def queueProgramEnd (pass : Bool) (op : Operation) (s : State) : State :=
  match op.buffer with
  | some (.pageBuffer b) =>
    match s.bufs.queue.find? (fun e => e.buf = b) with
    | some e => if pass then queuePass e s else queueFail e s
    | none => s
  | _ => s

/-- The requester of a PROGRAM handles its outcome (R11). -/
def handleProgram (pass : Bool) (op : Operation) (s : State) : State :=
  match op.requester with
  | .programQueue => queueProgramEnd pass op s
  | .relocationStep => relocProgramEnd pass s
  | .checkpointStep => checkpointProgramEnd pass s
  | .mountStep => s
  | .eraseProcess => s
  | .readPath => s

/-- A PROGRAM ends: the slot, then the requester's handling, then the port is IDLE (R7, R11). -/
def programEnd (pass : Bool) (op : Operation) (s : State) : State :=
  let k := op.slot.getD 0
  let t := if pass then s.writeSlot op.unit k (programmedPage (op.crcMode.getD .compute) (pageToProgram op s))
    else spoilSlot op.unit k s
  (handleProgram pass op t).setOp none

/-- A READ of the read-back path ends (R145). -/
def readPathEnd (done : Bool) (res : ReadResult) (op : Operation) (s : State) : State :=
  match op.buffer with
  | some (.staging i) =>
    match s.stagingBuf i with
    | .inUse q _ => if done then readEndDone i q (op.slot.getD 0) res s else readEndTimeout i q s
    | .free => s
  | _ => s

/-- The requester of a READ handles its outcome (R11). -/
def handleRead (done : Bool) (res : ReadResult) (op : Operation) (s : State) : State :=
  match op.requester with
  | .readPath => readPathEnd done res op s
  | .relocationStep => relocReadEnd res s
  | .mountStep => scanReadEnd res s
  | .checkpointStep => s
  | .eraseProcess => s
  | .programQueue => s

/-- A READ ends: the requester's handling, then the port is IDLE (R8, R11). -/
def readEnd (done : Bool) (res : ReadResult) (op : Operation) (s : State) : State := (handleRead done res op s).setOp none

/-- A data-unit erase ends with PASS (R161). -/
def eraseUnitPass (u : UnitId) (s : State) : State :=
  let s := s.setUnit u { s.unit u with eraseCount := satInc maxEraseCount (s.unit u).eraseCount }
  let s := insertFree u s
  let n := satInc max16 s.map.erasesSince
  let s := { s with map := { s.map with erasesSince := n } }
  let s := if erasesPerCheckpoint ≤ n then s.setCtl { s.ctl with ckptPending := true } else s
  relieve s

/-- The requester of an ERASE handles its outcome (R11, R161, R162, R169). -/
def handleErase (pass : Bool) (op : Operation) (s : State) : State :=
  match op.requester with
  | .eraseProcess => if pass then eraseUnitPass op.unit s else retire op.unit s
  | .checkpointStep => checkpointEraseEnd pass s
  | .mountStep => s
  | .relocationStep => s
  | .readPath => s
  | .programQueue => s

/-- An ERASE ends: the unit's slots, the requester's handling, then the port is IDLE (R9, R11). -/
def eraseEnd (pass : Bool) (op : Operation) (s : State) : State :=
  let t := if pass then { s with array := s.array.eraseUnit op.unit } else undefineUnit op.unit s
  (handleErase pass op t).setOp none

/-- The operation in progress, when it is of the kind given. -/
def opOfKind (kind : OpKind) (s : State) : Option Operation :=
  match s.engine.op with
  | some op => if op.kind = kind then some op else none
  | none => none

/-- The operation has reached its timeout (R7 to R9, R12, R186). -/
def timeoutReached (limit : Nat) (op : Operation) (s : State) : Bool := limit ≤ elapsed s.time op.startTime

/-! ## What every happening ends with -/

/-- The rest of WORN entry, when this happening has taken the device from READY to WORN (R135). -/
def settleWorn (before after : State) : State :=
  if before.ctl.device = .ready ∧ after.ctl.device = .worn then enterWorn after else after

/-- An IDLE port with the stand-aside mark set and no claim of another block present: the mark clears (R121). -/
def settleStandAside (s : State) : State :=
  if s.reloc.standAside ∧ s.engine.op = none ∧ ranked s = none then s.setStandAside false else s

/-- What every happening ends with: the rest of WORN entry (R135), the drain of SHUTDOWN (R183), the stand-aside mark (R121) and the
transmitter (R199). -/
def settle (before after : State) : State := transmitArrivals (settleStandAside (drainPending (settleWorn before after)))

/-- A happening is taken, in one step, by a device that is powered and not held in reset; otherwise it finds nothing to act on
(R185, assumption 7). -/
def happening (f : State → State) (s : State) : State := if s.running then settle s (f s) else s

/-- A grant is a happening when the arbiter's choice is that claim (R14, assumption 8). -/
def grant (c : Claim) (f : State → State) (s : State) : State :=
  happening (fun s => if winner s = some c then f s else s) s

end Sys2Proof.Machine
end

