-- ==== Sys2Proof/Machine/ArrayCommands.lean ====
section
/-!
DEFINITION. The commands of the array: done reports and timeouts (R7 to R12), and the grants of its port (R10, R13, R14).
-/
namespace Sys2Proof.Machine

/-- The operation in progress, of the kind given, ends as `f` says; without one the report or timeout has no effect (R12). -/
def endOperation (kind : OpKind) (f : Operation → State → State) (s : State) : State :=
  match opOfKind kind s with
  | some op => f op s
  | none => s

/-- The operation in progress, of the kind given, has reached its timeout, and ends as `f` says (R12, assumption 9). -/
def timeoutOf (kind : OpKind) (limit : Nat) (f : Operation → State → State) (s : State) : State :=
  endOperation kind (fun op s => if timeoutReached limit op s then f op s else s) s

/-- What the array reads for a READ that reports done: the slot as stored, or as drifted within R4 and R8 (assumption 5). -/
def pageRead (asRead : Option Page) (op : Operation) (s : State) : Page :=
  cellsRead (s.readSlot op.unit (op.slot.getD 0)) asRead

/-- PROGRAM_DONE (R7, R11). -/
def execProgramDone (pass : Bool) (s : State) : Host.Outcome State Fault Refusal :=
  .next (happening (endOperation .program (programEnd pass)) s)

/-- PROGRAM_TIMEOUT (R7, R12). -/
def execProgramTimeout (s : State) : Host.Outcome State Fault Refusal :=
  .next (happening (timeoutOf .program programTimeoutUs (programEnd false)) s)

/-- READ_DONE (R8, R11). -/
def execReadDone (asRead : Option Page) (s : State) : Host.Outcome State Fault Refusal :=
  .next (happening (endOperation .read (fun op s => readEnd true (readDoneResult (pageRead asRead op s)) op s)) s)

/-- READ_TIMEOUT (R8, R12). -/
def execReadTimeout (s : State) : Host.Outcome State Fault Refusal :=
  .next (happening (timeoutOf .read readTimeoutUs (readEnd false readTimeoutResult)) s)

/-- ERASE_DONE (R9, R11). -/
def execEraseDone (pass : Bool) (s : State) : Host.Outcome State Fault Refusal :=
  .next (happening (endOperation .erase (eraseEnd pass)) s)

/-- ERASE_TIMEOUT (R9, R12). -/
def execEraseTimeout (s : State) : Host.Outcome State Fault Refusal :=
  .next (happening (timeoutOf .erase eraseTimeoutUs (eraseEnd false)) s)

/-- LATE_DONE_DISCARD (R12): a done report for an operation that its timeout has ended is discarded. -/
def execLateDoneDiscard (s : State) : Host.Outcome State Fault Refusal := .next s

/-- PROGRAM_GRANT (R17). -/
def execProgramGrant (s : State) : Host.Outcome State Fault Refusal := .next (grant .program grantProgram s)

/-- READ_GRANT (R144). -/
def execReadGrant (s : State) : Host.Outcome State Fault Refusal := .next (grant .read grantRead s)

/-- ERASE_GRANT (R160). -/
def execEraseGrant (s : State) : Host.Outcome State Fault Refusal := .next (grant .erase grantErase s)

/-- CHECKPOINT_START (R168): the checkpoint claim is granted with no checkpoint in progress. -/
def execCheckpointStart (s : State) : Host.Outcome State Fault Refusal :=
  .next (grant .checkpoint (fun s => if s.ctl.ckpt = none then beginCheckpoint (s.setStandAside false) else s) s)

/-- CHECKPOINT_OP_GRANT (R169): the checkpoint claim is granted with a checkpoint in progress. -/
def execCheckpointOpGrant (s : State) : Host.Outcome State Fault Refusal := .next (grant .checkpoint grantCheckpointOp s)

/-- RELOCATION_STEP_GRANT (R120). -/
def execRelocationStepGrant (s : State) : Host.Outcome State Fault Refusal := .next (grant .relocation grantRelocation s)

/-- MOUNT_READ_GRANT (R174). -/
def execMountReadGrant (s : State) : Host.Outcome State Fault Refusal := .next (grant .mount grantMountRead s)

end Sys2Proof.Machine
end

