-- ==== Sys2Proof/Machine/LaneBits.lean ====
section
/-!
DEFINITION. The bits of a lane: the word in reception, its 17th bit, and word boundaries (R70 to R72).
-/
namespace Sys2Proof.Machine

/-- The word-receive position of a lane (R70). -/
def LanePhase.position : LanePhase → Nat
  | .awaitBoundary => 0
  | .inWord bits => bits.length
  | .afterWord extra => extra

/-- The lane with another phase. -/
def State.setPhase (s : State) (l : LaneId) (p : LanePhase) : State := s.setLane l { s.lane l with phase := p }

/-- The 16 data bits of a word, data bit 15 first (R72). -/
def wordOfBits (bits : List Bool) : Word := (bits.take 16).foldl (fun w b => (w <<< 1) ||| (if b then 1 else 0)) 0

/-- The 17 bits of a good word hold an odd number of ones (R72). -/
def oddOnes (bits : List Bool) : Bool := bits.countP (fun b => b) % 2 == 1

/-- A word is complete at its 17th bit: a good word, or a word with a parity error (R72). -/
def completeWord (l : LaneId) (bits : List Bool) (s : State) : State :=
  let s := s.setPhase l (.afterWord 0)
  if oddOnes bits then goodWord l (wordOfBits bits) s else badWord l s

/-- A rising edge of LnCLK at a LISTENING lane, by the lane's phase (R71, R72). Bits after the 17th count up to 16 (assumption 11). -/
def clockBit (l : LaneId) (dat : Bool) (s : State) : State :=
  match (s.lane l).phase with
  | .awaitBoundary => s
  | .inWord bits => if bits.length < 16 then s.setPhase l (.inWord (bits ++ [dat])) else completeWord l (bits ++ [dat]) s
  | .afterWord extra => s.setPhase l (.afterWord (min (extra + 1) 16))

/-- A word boundary at a LISTENING lane: the position returns to 0, and bits received since the last complete word or boundary
form a fragment (R72). -/
def wordBoundary (l : LaneId) (s : State) : State :=
  if (s.lane l).phase.position = 0 then s.setPhase l (.inWord []) else badWord l (s.setPhase l (.inWord []))

/-- The phase that a bad word leaves: a word's 17th bit, or the boundary of a fragment (R72). -/
def phaseAfterBad (fragment : Bool) : LanePhase := if fragment then .inWord [] else .afterWord 0

/-- A happening at a lane reaches it only while it is LISTENING (R71). -/
def ifListening (l : LaneId) (f : State → State) (s : State) : State := if (s.lane l).listening then f s else s

end Sys2Proof.Machine
end

