-- ==== Sys2Proof/Machine/TriggerEvents.lean ====
section
/-!
DEFINITION. The happenings of the pins and of the interval timers: edges (R79), ticks and expiries (R87, R88).
-/
namespace Sys2Proof.Machine

/-- The last sampled level of a pin (R79). -/
def pinLevel (s : State) (pin : PinId) : Bool := s.triggers.ext.getLsbD pin.val

/-- The last sampled level of a pin becomes `high` (R79). -/
def setPin (pin : PinId) (high : Bool) (s : State) : State :=
  let bit : BitVec 4 := 1#4 <<< pin.val
  { s with triggers := { s.triggers with ext := if high then s.triggers.ext ||| bit else s.triggers.ext &&& ~~~bit } }

/-- A recognised edge of a pin: the level is taken, then the edge is delivered. Edges of one pin alternate, so a level that is no
change is no edge (R79 to R81). -/
def edge (pin : PinId) (high : Bool) (s : State) : State :=
  if pinLevel s pin = high then s else trigger (fun r _ => edgeRole pin high r) (setPin pin high s)

/-- A tick of the timer has passed: it is RUNNING, and 100 µs have passed since its present tick began (R87, assumption 9). -/
def tickPassed (t : TimerId) (s : State) : Bool := (s.timer t).running && tickUs ≤ elapsed s.time (s.timer t).tickStart

/-- The device time at which the next tick begins: 100 µs after the present one began, so that ticks do not drift (R87). -/
def nextTickStart (r : Timer) : Time := r.tickStart + BitVec.ofNat 32 tickUs

/-- The timer after an expiry (R87). -/
def Timer.expire (r : Timer) : Timer :=
  if r.periodic then { r with remaining := r.period, tickStart := nextTickStart r }
  else { r with running := false, remaining := 0 }

/-- An expiry is due: the tick that has passed is the last one (R87). -/
def expiryDue (t : TimerId) (s : State) : Bool := tickPassed t s && decide ((s.timer t).remaining ≤ 1)

/-- An expiry: the timer reloads or stops, and the streams concerned start or stop (R87, R88). -/
def expire (t : TimerId) (s : State) : State :=
  if expiryDue t s then trigger (fun r _ => sourceRole (.timer t) r) (s.setTimer t (s.timer t).expire) else s

/-- A tick short of expiry is due (R87). -/
def tickDue (t : TimerId) (s : State) : Bool := tickPassed t s && decide (1 < (s.timer t).remaining)

/-- A tick short of expiry (R87). -/
def tick (t : TimerId) (s : State) : State :=
  if tickDue t s then
    s.setTimer t { s.timer t with remaining := (s.timer t).remaining - 1, tickStart := nextTickStart (s.timer t) }
  else s

end Sys2Proof.Machine
end

