-- ==== Sys2Proof/Machine/EventCommands.lean ====
section
/-!
DEFINITION. The commands of the lanes, of the EXT pins and of the interval timers (R70 to R81, R86 to R88).
-/
namespace Sys2Proof.Machine

/-- LANE_GOOD_WORD (R73). -/
def execLaneGoodWord (lane : LaneId) (word : Word) (s : State) : Host.Outcome State Fault Refusal :=
  .next (happening (ifListening lane (fun s => goodWord lane word (s.setPhase lane (.afterWord 0)))) s)

/-- LANE_BAD_WORD (R75). -/
def execLaneBadWord (lane : LaneId) (fragment : Bool) (s : State) : Host.Outcome State Fault Refusal :=
  .next (happening (ifListening lane (fun s => badWord lane (s.setPhase lane (phaseAfterBad fragment)))) s)

/-- LNCLK_RISING_EDGE (R72). -/
def execLnclkRisingEdge (lane : LaneId) (dat : Bool) (s : State) : Host.Outcome State Fault Refusal :=
  .next (happening (ifListening lane (clockBit lane dat)) s)

/-- LANE_WORD_BOUNDARY (R72). -/
def execLaneWordBoundary (lane : LaneId) (s : State) : Host.Outcome State Fault Refusal :=
  .next (happening (ifListening lane (wordBoundary lane)) s)

/-- EXT_EDGE (R79 to R81). -/
def execExtEdge (pin : PinId) (high : Bool) (s : State) : Host.Outcome State Fault Refusal :=
  .next (happening (edge pin high) s)

/-- TIMER_EXPIRY (R87, R88). -/
def execTimerExpiry (timer : TimerId) (s : State) : Host.Outcome State Fault Refusal := .next (happening (expire timer) s)

/-- TIMER_TICK (R87). -/
def execTimerTick (timer : TimerId) (s : State) : Host.Outcome State Fault Refusal := .next (happening (tick timer) s)

end Sys2Proof.Machine
end

