-- ==== Sys2Proof/Machine/InternalCommands.lean ====
section
/-!
DEFINITION. The commands of the blocks' own hand-overs: a buffer grant, starved relief, a relocation's start, a FLUSH's completion
and SHUTDOWN's completion. The happenings that bring about their conditions take them in the same happening (assumption 14), so
each finds its condition only in a state that such a happening did not leave.
-/
namespace Sys2Proof.Machine

/-- A free buffer goes to the head of the buffer wait list (R93). -/
def grantFromPool (s : State) : State :=
  match s.bufs.pool, s.bufs.waitList with
  | b :: pool, st :: rest => grantBuffer b st rest (s.setPool pool)
  | _, _ => s

/-- The relocation at the head of the wait list starts when none is in progress (R118, R119). -/
def startRelocation (s : State) : State :=
  if s.reloc.current = none ∧ s.reloc.waitList ≠ [] then startNext s else s

/-- The status with which a waiting FLUSH of the stream completes, when its condition is met (R114). -/
def flushStatus (s : State) (st : StreamId) : Option Status :=
  let r := s.stream st
  if r.state = .faulted then some .fault
  else if r.starved then some .noSpace
  else if r.inFlight = 0 then some .ok
  else none

/-- The waiting FLUSHes of one stream complete when a condition of R114 is met. -/
def completeDue (s : State) (st : StreamId) : State :=
  match flushStatus s st with
  | some status => completeFlushes st status s
  | none => s

/-- BUFFER_GRANT (R93, R96). -/
def execBufferGrant (s : State) : Host.Outcome State Fault Refusal := .next (happening grantFromPool s)

/-- STARVED_RELIEF (R36, R106). -/
def execStarvedRelief (s : State) : Host.Outcome State Fault Refusal := .next (happening relieve s)

/-- RELOCATION_START (R119). -/
def execRelocationStart (s : State) : Host.Outcome State Fault Refusal := .next (happening startRelocation s)

/-- FLUSH_COMPLETE (R114). -/
def execFlushComplete (s : State) : Host.Outcome State Fault Refusal :=
  .next (happening (fun s => allStreams.foldl completeDue s) s)

/-- SHUTDOWN_COMPLETE (R183). -/
def execShutdownComplete (s : State) : Host.Outcome State Fault Refusal := .next (happening finishShutdown s)

end Sys2Proof.Machine
end

