-- ==== Sys2Proof/Machine/Requests.lean ====
section
/-!
DEFINITION. Taking a request: the early checks and the refusal slot (R193, R194), the request table (R195), the device-state check
(R196).
-/
namespace Sys2Proof.Machine

/-- An early refusal: its reply is formed in the refusal slot, or the frame is dropped and counted when the slot is occupied
(R194). -/
def earlyRefusal (kindByte tag : Byte) (st : Status) (s : State) : State :=
  if s.link.refusalBusy then countDiscard s
  else s.setLink { s.link with
    replies := s.link.replies ++ [⟨.refusal, [kindByte, tag, st.code], none⟩]
    refusalBusy := true }

/-- The early checks 2 to 5 that a frame of a request kind fails first; none when it passes (R193). -/
def earlyCheck (k : ReqKind) (tag : Byte) (payload : List Byte) (l : Link) : Option Status :=
  if tag = 0 then some .badTag
  else if l.requests.any (fun r => r.tag == tag) then some .tagInUse
  else if windowSize ≤ l.requests.length then some .busy
  else if payload.length + 2 ≠ kindBodyLength k then some .badLength
  else none

/-- The request kinds that are taken in every device state (R196). -/
def takenAlways (k : ReqKind) : Bool := k == .hello || k == .status || k == .reset

/-- The request kinds that WORN refuses (R196). -/
def refusedWorn (k : ReqKind) : Bool := k == .defineStream || k == .arm || k == .release || k == .delete

/-- The device-state check: the refusal, or none when the request is handed to its owning block (R196). A READ after SHUTDOWN's discard of a
held page is refused with HALTED by R139 and R150, where R148 says NO_DATA (assumption 35). -/
def deviceCheck (d : DeviceState) (k : ReqKind) : Option Status :=
  if takenAlways k then none
  else
    match d with
    | .mounting => some .mounting
    | .ready => none
    | .worn => if refusedWorn k then some .worn else none
    | .shuttingDown => some .halted
    | .halted => some .halted

/-- The entry of a request in the request table, at stage WAITING (R195). -/
def enterRequest (k : ReqKind) (tag : Byte) (payload : List Byte) (s : State) : State :=
  s.setLink { s.link with requests := s.link.requests ++ [⟨tag, k, payload, .waiting⟩] }

/-- A correct frame of a request kind: early checks, request table, device-state check, owning block (R193 to R196). -/
def takeRequest (k : ReqKind) (tag : Byte) (payload : List Byte) (own : State → State) (s : State) : State :=
  match earlyCheck k tag payload s.link with
  | some st => earlyRefusal (kindCode k + 0x80) tag st s
  | none =>
    let s := enterRequest k tag payload s
    match deviceCheck s.ctl.device k with
    | some st => refuse k tag st s
    | none => own s

/-- The last byte of a whole frame has been taken: the receiver is in HUNT (R190). -/
def frameTaken (s : State) : State := s.setLink { s.link with rx := .hunt }

/-- The happening in which a correct frame of a request kind ends on RXD (R190, R193). -/
def requestHappening (k : ReqKind) (tag : Byte) (payload : List Byte) (own : State → State) (s : State) : State :=
  happening (fun s => takeRequest k tag payload own (frameTaken s)) s

end Sys2Proof.Machine
end

