-- ==== Sys2Proof/Machine/LinkRequests.lean ====
section
/-!
DEFINITION. The requests of the host link, of the notice unit and of the checkpoint and mount controller: HELLO (R201), RESET (R202),
STATUS (R210), SET NOTICE MASK (R207), ACK NOTICE (R209), CHECKPOINT (R173), SHUTDOWN (R182).
-/
namespace Sys2Proof.Machine

/-- The contents of HELLO after the status (R201). -/
def helloContents : List Byte :=
  [0x4D] ++ le16 0x0840 ++ [1] ++ n16 1024 ++ [64] ++ [8] ++ [6] ++ [32] ++ [4]

/-- HELLO is completed at once (R201). -/
def helloRequest (tag : Byte) (s : State) : State := finishRequest .hello tag .ok helloContents none s

/-- RESET is completed OK and sets reset pending (R202). -/
def resetRequest (tag : Byte) (s : State) : State :=
  let s := finishRequest .reset tag .ok [] none s
  s.setLink { s.link with resetPending := true }

/-- The seven bytes of a lane in STATUS (R210, R214). -/
def laneBytes (l : Lane) : List Byte := b8 l.listening ++ le32 l.goodWords ++ n16 l.parityErrors

/-- The contents of STATUS after the status (R210, R214). -/
def statusContents (s : State) : List Byte :=
  [deviceCode s.ctl.device] ++ [controllerFlags s.ctl.ckptPending s.ctl.ckpt.isSome s.link.resetPending]
    ++ n16 s.freeCount ++ n16 s.map.dirtyList.length ++ n16 s.map.retiredCount
    ++ n8 (queueLength s) ++ n8 s.bufs.pool.length
    ++ le16 s.notices.pendingSet ++ le16 s.notices.mask ++ b8 s.notices.overflow ++ n8 s.notices.backlog.length
    ++ n32 s.ctl.seqNo ++ n16 s.map.erasesSince ++ n16 s.link.discards
    ++ allLanes.flatMap (fun l => laneBytes (s.lane l)) ++ le32 s.time

/-- STATUS is completed at once and changes no state (R210). -/
def statusRequest (tag : Byte) (s : State) : State := finishRequest .status tag .ok (statusContents s) none s

/-- SET NOTICE MASK replaces the notice mask (R207). -/
def maskRequest (tag : Byte) (p : List Byte) (s : State) : State :=
  let new := field16 p 2
  let old := s.notices.mask
  finishRequest .setNoticeMask tag .ok (le16 old ++ le16 new) none { s with notices := { s.notices with mask := new } }

/-- The acknowledge set includes a kind (R209). -/
def acks (set : Word) (k : NoticeKind) : Bool := set.getLsbD (noticeBit k)

/-- ACK NOTICE clears pending bits, and the reported flags of the kinds it names (R209, R76, R192). -/
def acknowledge (set : Word) (s : State) : State :=
  let s := { s with notices := { s.notices with pendingSet := s.notices.pendingSet &&& ~~~set } }
  let s := if acks set .laneFault then { s with lanes := s.lanes.map (fun l => { l with faultReported := false }) } else s
  if acks set .linkError then s.setLink { s.link with faultReported := false } else s

/-- ACK NOTICE (R209). -/
def ackRequest (tag : Byte) (p : List Byte) (s : State) : State :=
  let s := acknowledge (field16 p 2) s
  finishRequest .ackNotice tag .ok (le16 s.notices.pendingSet) none s

/-- CHECKPOINT sets checkpoint pending and joins the waiters, not covered (R173). -/
def checkpointRequest (tag : Byte) (s : State) : State :=
  s.setCtl { s.ctl with ckptPending := true, waiters := s.ctl.waiters ++ [⟨tag, false⟩] }

/-- SHUTDOWN (R182): SHUTTING_DOWN, every run ends, ARMED streams become BOUND, held pages are discarded, checkpoint pending. -/
def shutdownRequest (tag : Byte) (s : State) : State :=
  let s := s.setCtl { s.ctl with device := .shuttingDown, shutdown := some ⟨tag, false, none⟩ }
  let s := discardAllHeld (endAllRuns .shutdown s)
  s.setCtl { s.ctl with ckptPending := true }

end Sys2Proof.Machine
end

