-- ==== Sys2Proof/Machine/StreamRequests.lean ====
section
/-!
DEFINITION. The requests on streams and triggers: DEFINE STREAM (R64, R65), ARM (R66), STOP (R67), UNBIND (R68), STREAM INFO (R69),
FLUSH (R113), FIRE (R84, R85), TIMER (R89, R90).
-/
namespace Sys2Proof.Machine

/-! ## DEFINE STREAM -/

/-- The stream after an accepted DEFINE STREAM (R65). -/
def StreamRec.define (r : StreamRec) (c : StreamConfig) : StreamRec :=
  { r with state := .bound, config := some c, keptWords := 0, skipCounter := 0, runStartPending := false }

/-- The state checks and the effect of a DEFINE STREAM that passed R64 (R65). -/
def defineAccepted (tag : Byte) (st : StreamId) (c : StreamConfig) (s : State) : State :=
  let r := s.stream st
  if r.state = .armed ∨ r.state = .capturing ∨ r.state = .faulted then refuse .defineStream tag .wrongState s
  else
    let s := relisten (s.setStream st (r.define c))
    finishRequest .defineStream tag .ok
      (n8 st.val ++ [streamStateCode (s.stream st).state] ++ n32 (s.stream st).endPage ++ le16 (s.stream st).runNumber) none s

/-- DEFINE STREAM (R64, R65). -/
def defineRequest (tag : Byte) (p : List Byte) (s : State) : State :=
  match streamOf (field8 p 2) with
  | none => refuse .defineStream tag .badParam s
  | some st =>
    match configOf st p with
    | none => refuse .defineStream tag .badParam s
    | some c => defineAccepted tag st c s

/-! ## ARM, STOP, UNBIND -/

/-- A request on one stream: BAD_PARAM when the stream number is above 7. -/
def onStream (k : ReqKind) (tag : Byte) (p : List Byte) (f : StreamId → State → State) (s : State) : State :=
  match streamOf (field8 p 2) with
  | none => refuse k tag .badParam s
  | some st => f st s

/-- The run starts in the happening of ARM: start source IMMEDIATE, or a gate that is active (R66). -/
def startsAtArm (s : State) (r : StreamRec) : Bool := r.startSource == some .immediate || gateActive s r

/-- An accepted ARM (R66). -/
def armStream (st : StreamId) (s : State) : State :=
  let barred := capturingNow s
  let s := s.setStream st { s.stream st with state := .armed }
  if startsAtArm s (s.stream st) then startRun barred st s else s

/-- ARM with its state checks and its reply (R66). -/
def armOn (tag : Byte) (st : StreamId) (s : State) : State :=
  let r := s.stream st
  if r.state ≠ .bound then refuse .arm tag .wrongState s
  else if r.endPage = maxPage then refuse .arm tag .noSpace s
  else
    let s := armStream st s
    finishRequest .arm tag .ok ([streamStateCode (s.stream st).state] ++ le16 (s.stream st).runNumber) none s

/-- ARM (R66). -/
def armRequest (tag : Byte) (p : List Byte) (s : State) : State := onStream .arm tag p (armOn tag) s

/-- The effect of STOP by the stream's state (R67). -/
def stopStream (st : StreamId) (s : State) : State :=
  match (s.stream st).state with
  | .capturing => endRun (capturingNow s) st .stop s
  | .armed => s.setStream st { s.stream st with state := .bound }
  | .bound => s
  | .dormant => s
  | .undefined => s
  | .faulted => s

/-- STOP with its reply (R67). -/
def stopOn (tag : Byte) (st : StreamId) (s : State) : State :=
  let ended := (s.stream st).state == .capturing
  let s := stopStream st s
  finishRequest .stop tag .ok ([streamStateCode (s.stream st).state] ++ b8 ended ++ le16 (s.stream st).runNumber) none s

/-- STOP (R67). -/
def stopRequest (tag : Byte) (p : List Byte) (s : State) : State := onStream .stop tag p (stopOn tag) s

/-- The stream loses its configuration and becomes DORMANT, or UNDEFINED when it holds nothing (R68). -/
def unbindStream (st : StreamId) (s : State) : State :=
  let r := s.stream st
  if s.chain st ≠ [] ∨ 0 < r.inFlight then relisten (s.setStream st { r with state := .dormant, config := none })
  else withdrawReads st (becomeUndefined st s)

/-- UNBIND with its state checks and its reply (R68). -/
def unbindOn (tag : Byte) (st : StreamId) (s : State) : State :=
  let r := s.stream st
  if r.state = .armed ∨ r.state = .capturing then refuse .unbind tag .wrongState s
  else
    let s := if r.state = .bound ∨ r.state = .faulted then unbindStream st s else s
    finishRequest .unbind tag .ok [streamStateCode (s.stream st).state] none s

/-- UNBIND (R68). -/
def unbindRequest (tag : Byte) (p : List Byte) (s : State) : State := onStream .unbind tag p (unbindOn tag) s

/-! ## STREAM INFO -/

/-- The four gap entries of STREAM INFO; unused ones 0 (R69, R214). -/
def gapBytes (l : List Gap) : List Byte :=
  [0, 1, 2, 3].flatMap (fun i => match l[i]? with
    | some g => n32 g.first ++ n32 g.count
    | none => n32 0 ++ n32 0)

/-- The words in the stream's fill buffer (R69). -/
def fillWords (s : State) (st : StreamId) : Nat :=
  match s.fillBuf st with
  | some b => (s.buf b).words.length
  | none => 0

/-- A configuration field as one byte, 0xFF when absent. -/
def cfg8 (r : StreamRec) (f : StreamConfig → Byte) : List Byte := [(r.config.map f).getD 0xFF]

/-- The configuration's fields in STREAM INFO, lane to rearm (R69). -/
def configBytes (r : StreamRec) : List Byte :=
  cfg8 r (fun c => BitVec.ofNat 8 c.lane.val) ++ cfg8 r (fun c => modeCode c.mode)
    ++ n32 ((r.config.bind (·.count)).getD 0) ++ n16 ((r.config.map (·.skip)).getD 0)
    ++ cfg8 r (fun c => sourceCode c.start)
    ++ cfg8 r (fun c => (c.stop.map sourceCode).getD 0xFF)
    ++ cfg8 r (fun c => (c.peer.map (fun x => BitVec.ofNat 8 x.val)).getD 0xFF)
    ++ le16 (thresholdOf r) ++ b8 r.rearms

/-- The contents of STREAM INFO after the status (R69, R214). -/
def infoContents (st : StreamId) (s : State) : List Byte :=
  let r := s.stream st
  n8 st.val ++ [streamStateCode r.state] ++ configBytes r ++ le16 r.runNumber ++ n32 r.keptWords ++ n8 r.skipCounter
    ++ n32 r.basePage ++ n32 r.endPage ++ n8 r.gaps.length ++ gapBytes r.gaps ++ n8 r.inFlight ++ n8 (fillWords s st)
    ++ n16 (s.chain st).length ++ n16 r.droppedInRun ++ n32 r.droppedTotal ++ n32 r.lostTotal ++ [streamFlags r]
    ++ [endCauseCode r.endCause]

/-- STREAM INFO changes no state (R69). -/
def infoRequest (tag : Byte) (p : List Byte) (s : State) : State :=
  onStream .streamInfo tag p (fun st s => finishRequest .streamInfo tag .ok (infoContents st s) none s) s

/-! ## FLUSH -/

/-- The fill buffer that FLUSH seals: one with at least one word (R113, step 2). -/
def partialFill (s : State) (st : StreamId) : Option BufId :=
  match s.fillBuf st with
  | some b => if (s.buf b).words = [] then none else some b
  | none => none

/-- Steps 3 to 5 of FLUSH (R113). -/
def flushAfterSeal (w : FlushWaiter) (s : State) : State :=
  let r := s.stream w.stream
  if w.sealed ∧ r.starved then finishFlush w .noSpace s
  else if r.inFlight = 0 then finishFlush w .ok s
  else s.setFlushWaiters (s.bufs.flushWaiters ++ [w])

/-- WORN entry ended the run of the stream, which is BOUND since, and discarded its held page: R113 and R137 disagree on a FLUSH that follows
(assumption 34). -/
def lostItsHeldPage (s : State) (st : StreamId) : Bool :=
  s.bufs.heldAtWorn.contains st && (s.stream st).endCause == some .worn && (s.stream st).state == .bound

/-- A FLUSH, with nothing to seal, of a stream whose held page WORN entry has discarded: NO_SPACE (R137, third bullet), or the answer of a stream
that is not STARVED (R113, steps 4 and 5, R136). Which of the two is a free value (assumption 34). -/
def flushAfterDiscard (tag : Byte) (st : StreamId) (s : State) : State :=
  let t := { s with freeUsed := s.freeUsed + 1 }
  if Config.flushNoSpace s.freeUsed then finishFlush ⟨tag, st, false⟩ .noSpace t else flushAfterSeal ⟨tag, st, false⟩ t

/-- FLUSH on a stream (R113). The sealed indication is 1 when a page has been sealed, which a stream that has exhausted its numbering does not
do (assumption 18). -/
def flushOn (tag : Byte) (st : StreamId) (s : State) : State :=
  if (s.stream st).starved then finishFlush ⟨tag, st, false⟩ .noSpace s
  else
    match partialFill s st with
    | some b =>
      flushAfterSeal ⟨tag, st, decide ((s.stream st).endPage < maxPage)⟩ (sealContinuing (capturingNow s) st b s)
    | none => if lostItsHeldPage s st then flushAfterDiscard tag st s else flushAfterSeal ⟨tag, st, false⟩ s

/-- FLUSH (R113). -/
def flushRequest (tag : Byte) (p : List Byte) (s : State) : State := onStream .flush tag p (flushOn tag) s

/-! ## FIRE -/

/-- The role of a FIRE: HOST as start or stop source, for the streams in its mask (R84). -/
def fireRole (mask : Byte) (r : StreamRec) (st : StreamId) : TriggerRole :=
  if mask.getLsbD st.val then sourceRole .host r else .none

/-- A stream mask from the streams that satisfy a test. -/
def maskOf (f : StreamId → Bool) : Byte :=
  BitVec.ofNat 8 (allStreams.foldl (fun n st => if f st then n + 2 ^ st.val else n) 0)

/-- The streams whose run started in a happening: their run number has changed, since a stream starts at most once in one
happening (R83, R85). -/
def startedMask (before after : State) : Byte :=
  maskOf (fun st => (after.stream st).runNumber != (before.stream st).runNumber)

/-- The streams whose run a FIRE ended (R85). -/
def stoppedMask (mask : Byte) (before : State) : Byte :=
  maskOf (fun st => decide (fireRole mask (before.stream st) st = .stop .stopSource))

/-- FIRE (R84, R85). -/
def fireRequest (tag : Byte) (p : List Byte) (s : State) : State :=
  let mask := field8 p 2
  let t := trigger (fireRole mask) s
  finishRequest .fire tag .ok [startedMask s t, stoppedMask mask s] none t

/-! ## TIMER -/

/-- The contents of a TIMER reply after the status (R90, R214). -/
def timerContents (t : TimerId) (was : Bool) (r : Timer) : List Byte :=
  n8 t.val ++ b8 was ++ b8 r.running ++ n16 r.period ++ b8 r.periodic ++ n16 r.remaining

/-- An accepted START (R89). -/
def startTimer (t : TimerId) (period : Nat) (periodic : Bool) (s : State) : State :=
  s.setTimer t ⟨true, period, periodic, period, s.time⟩

/-- A TIMER request that passed its checks is answered with the timer before and after (R90). -/
def timerReply (tag : Byte) (t : TimerId) (before after : State) : State :=
  finishRequest .timer tag .ok (timerContents t (before.timer t).running (after.timer t)) none after

/-- The STOP of a timer: a STOPPED timer is left as it is (R89). -/
def stopIfRunning (t : TimerId) (s : State) : State := if (s.timer t).running then stopTimer t s else s

/-- TIMER, by its action byte: 0 START, 1 STOP, any other value BAD_PARAM (R89). -/
def timerRequest (tag : Byte) (p : List Byte) (s : State) : State :=
  match timerOf (field8 p 2) with
  | none => refuse .timer tag .badParam s
  | some t =>
    if field8 p 3 = 0 then
      if field16 p 4 = 0 ∨ 1 < (field8 p 6).toNat then refuse .timer tag .badParam s
      else timerReply tag t s (startTimer t (field16 p 4).toNat (field8 p 6 = 1) s)
    else if field8 p 3 = 1 then timerReply tag t s (stopIfRunning t s)
    else refuse .timer tag .badParam s

end Sys2Proof.Machine
end

