-- ==== Sys2Proof/Machine/MapRequests.lean ====
section
/-!
DEFINITION. The requests on recorded data and on the map: READ (R139), RELEASE (R152 to R156), DELETE (R158, R159), UNIT INFO (R44),
MAP SUMMARY (R45); and the request that a KIND byte selects.
-/
namespace Sys2Proof.Machine

/-! ## READ -/

/-- READ: BAD_PARAM for a stream above 7 or more than 112 words, and otherwise the lookup (R139, R140). -/
def readRequest (tag : Byte) (p : List Byte) (s : State) : State :=
  match streamOf (field8 p 2) with
  | none => refuse .read tag .badParam s
  | some st =>
    if maxReadWords < (field8 p 8).toNat then refuse .read tag .badParam s
    else lookupRead ⟨tag, st, (field32 p 3).toNat, (field8 p 7).toNat, (field8 p 8).toNat⟩ s

/-! ## RELEASE -/

/-- The unit is the source of the relocation in progress or of one that waits (R153). -/
def underRelocation (s : State) (u : UnitId) : Bool :=
  (match s.reloc.current with
   | some r => r.source == u
   | none => false) || s.reloc.waitList.any (fun w => w.source == u)

/-- The three conditions of R153 for the unit at the front of the chain. -/
def releasable (s : State) (limit : Nat) (u : UnitId) : Bool :=
  let r := s.unit u
  decide (r.firstPage.getD 0 + r.assigned ≤ limit) && r.programmed == r.assigned && !underRelocation s u

/-- Base page after a removal (R155, step 1). -/
def newBase (st : StreamId) (s : State) : Nat :=
  match s.chain st with
  | u :: _ => (s.unit u).firstPage.getD 0
  | [] =>
    match s.heldBuf st with
    | some b => match (s.buf b).sealed with
      | some i => i.pageNumber
      | none => (s.stream st).endPage
    | none => (s.stream st).endPage

/-- The gap entries that do not lie wholly below a base page (R155, step 2). -/
def gapsFrom (base : Nat) (l : List Gap) : List Gap := l.filter (fun g => base < g.first + g.count)

/-- Steps 1 and 2 of R155. -/
def moveBase (st : StreamId) (removed : Bool) (s : State) : State :=
  let base := if removed then newBase st s else (s.stream st).basePage
  s.setStream st { s.stream st with basePage := base, gaps := gapsFrom base (s.stream st).gaps }

/-- The stream holds nothing: an empty chain and no page in flight. -/
def holdsNothing (st : StreamId) (s : State) : Bool := (s.chain st).isEmpty && (s.stream st).inFlight == 0

/-- Steps 3 and 4 of R155: a DORMANT stream with nothing becomes UNDEFINED; an exhausted BOUND or FAULTED one restarts its numbering
(R53). -/
def settleReleased (st : StreamId) (s : State) : State :=
  let r := s.stream st
  if holdsNothing st s then
    if r.state = .dormant then becomeUndefined st s
    else if (r.state = .bound ∨ r.state = .faulted) ∧ r.endPage = maxPage then
      s.setStream st { r with basePage := 0, endPage := 0, gaps := [] }
    else s
  else s

/-- Units leave the front of the chain, in chain order (R154). -/
def removeFront (st : StreamId) (gone : List UnitId) (s : State) : State :=
  gone.foldl (fun s u => removeUnit u s) (s.setChain st ((s.chain st).drop gone.length))

/-- RELEASE on a stream that is not UNDEFINED (R153 to R156). -/
def releaseOn (tag : Byte) (st : StreamId) (limit : Nat) (s : State) : State :=
  let gone := (s.chain st).takeWhile (releasable s limit)
  let retired := gone.countP (fun u => (s.unit u).state == .frozen)
  let s := settleReleased st (moveBase st (!gone.isEmpty) (removeFront st gone s))
  let s := withdrawReads st s
  let r := s.stream st
  finishRequest .release tag .ok
    (n8 st.val ++ n16 gone.length ++ n16 retired ++ n32 r.basePage ++ n32 r.endPage ++ [streamStateCode r.state]) none s

/-- RELEASE (R152). -/
def releaseRequest (tag : Byte) (p : List Byte) (s : State) : State :=
  match streamOf (field8 p 2) with
  | none => refuse .release tag .badParam s
  | some st =>
    if (s.stream st).state = .undefined then
      finishRequest .release tag .ok
        (n8 st.val ++ n16 0 ++ n16 0 ++ n32 0 ++ n32 0 ++ [streamStateCode .undefined]) none s
    else releaseOn tag st (field32 p 3).toNat s

/-! ## DELETE -/

/-- The reply to DELETE (R159). -/
def finishDelete (tag : Byte) (st : StreamId) (released retired : Nat) (s : State) : State :=
  finishRequest .delete tag .ok (n8 st.val ++ n16 released ++ n16 retired) none s

/-- An accepted DELETE of a stream that is not UNDEFINED (R159). -/
def deleteStream (tag : Byte) (st : StreamId) (s : State) : State :=
  let gone := s.chain st
  let retired := gone.countP (fun u => (s.unit u).state == .frozen)
  let s := becomeUndefined st (removeFront st gone s)
  finishDelete tag st gone.length retired (withdrawReads st s)

/-- DELETE with its refusals (R158). -/
def deleteOn (tag : Byte) (st : StreamId) (s : State) : State :=
  let r := s.stream st
  if r.state = .armed ∨ r.state = .capturing ∨ r.relocating ∨ 0 < r.inFlight then refuse .delete tag .wrongState s
  else if r.state = .undefined then finishDelete tag st 0 0 s
  else deleteStream tag st s

/-- DELETE (R158). -/
def deleteRequest (tag : Byte) (p : List Byte) (s : State) : State := onStream .delete tag p (deleteOn tag) s

/-! ## UNIT INFO and MAP SUMMARY -/

/-- The relocation role of a unit (R44). -/
def relocationRole (s : State) (u : UnitId) : Byte :=
  match s.reloc.current with
  | some r =>
    if r.source = u then 1
    else if s.reloc.waitList.any (fun w => w.source == u) then 2
    else if r.target = some u then 3 else 0
  | none => if s.reloc.waitList.any (fun w => w.source == u) then 2 else 0

/-- The position of a unit in the free list or the dirty list; 0xFFFF in neither (R44). -/
def listPosition (s : State) (u : UnitId) : Word :=
  match s.map.freeList.idxOf? u with
  | some i => BitVec.ofNat 16 i
  | none =>
    match s.map.dirtyList.idxOf? u with
    | some i => BitVec.ofNat 16 i
    | none => 0xFFFF

/-- The contents of UNIT INFO after the status (R44). -/
def unitContents (u : UnitId) (s : State) : List Byte :=
  let r := s.unit u
  n16 u.val ++ [unitStateCode r.state] ++ n16 r.eraseCount
    ++ [(r.owner.map (fun st => BitVec.ofNat 8 st.val)).getD 0xFF] ++ n32 (r.firstPage.getD 0)
    ++ n8 r.assigned ++ n8 r.programmed ++ b8 r.closed ++ [relocationRole s u] ++ le16 (listPosition s u)

/-- UNIT INFO changes nothing (R44). -/
def unitInfoRequest (tag : Byte) (p : List Byte) (s : State) : State :=
  match unitOf (field16 p 2) with
  | none => refuse .unitInfo tag .badParam s
  | some u => finishRequest .unitInfo tag .ok (unitContents u s) none s

/-- The number of units in a state (R45). -/
def countState (s : State) (st : UnitState) : Nat := s.map.units.toList.countP (fun r => r.state == st)

/-- The erase counts of the data units that are not RETIRED (R45). -/
def liveCounts (s : State) : List Nat :=
  (dataUnits.filter (fun u => (s.unit u).state != .retired)).map (fun u => (s.unit u).eraseCount)

/-- A unit number as a 2-byte field, 0xFFFF when absent. -/
def headField (u : Option UnitId) : List Byte := le16 ((u.map (fun x => BitVec.ofNat 16 x.val)).getD 0xFFFF)

/-- The lowest and the highest erase count of MAP SUMMARY (R45); free values when every data unit is RETIRED (assumption 3). -/
def wearFields (s : State) : List Byte :=
  match liveCounts s with
  | [] => le16 (Config.freeEraseCount s.freeUsed) ++ le16 (Config.freeEraseCount (s.freeUsed + 1))
  | c :: l => n16 (l.foldl min c) ++ n16 (l.foldl max c)

/-- The free values that MAP SUMMARY draws (assumption 3). -/
def drawWear (s : State) : State := if liveCounts s = [] then { s with freeUsed := s.freeUsed + 2 } else s

/-- The contents of MAP SUMMARY after the status (R45). -/
def summaryContents (s : State) : List Byte :=
  n16 s.freeCount ++ n16 (countState s .opened) ++ n16 (countState s .full) ++ n16 (countState s .frozen)
    ++ n16 s.map.dirtyList.length ++ n16 (countState s .erasing) ++ n16 (countState s .target)
    ++ headField s.map.freeList.head? ++ n16 ((s.map.freeList.head?.map (fun u => (s.unit u).eraseCount)).getD 0)
    ++ headField s.map.dirtyList.head? ++ wearFields s
    ++ allStreams.flatMap (fun st => n16 (s.chain st).length) ++ n16 s.map.retiredCount ++ n16 s.map.erasesSince

/-- MAP SUMMARY changes nothing (R45). -/
def summaryRequest (tag : Byte) (s : State) : State :=
  finishRequest .mapSummary tag .ok (summaryContents s) none (drawWear s)

/-! ## The request that a KIND byte selects -/

/-- What the owning block does with a request handed to it (R196). -/
def ownRequest (k : ReqKind) (tag : Byte) (p : List Byte) : State → State :=
  match k with
  | .hello => helloRequest tag
  | .status => statusRequest tag
  | .reset => resetRequest tag
  | .shutdown => shutdownRequest tag
  | .checkpoint => checkpointRequest tag
  | .setNoticeMask => maskRequest tag p
  | .ackNotice => ackRequest tag p
  | .defineStream => defineRequest tag p
  | .arm => armRequest tag p
  | .fire => fireRequest tag p
  | .stop => stopRequest tag p
  | .flush => flushRequest tag p
  | .unbind => unbindRequest tag p
  | .streamInfo => infoRequest tag p
  | .timer => timerRequest tag p
  | .read => readRequest tag p
  | .release => releaseRequest tag p
  | .delete => deleteRequest tag p
  | .unitInfo => unitInfoRequest tag p
  | .mapSummary => summaryRequest tag

/-- A correct frame meets the early checks, the first of which is its KIND (R193, R194). -/
def takeFrame (kind tag : Byte) (p : List Byte) (s : State) : State :=
  match kindOfCode kind with
  | none => earlyRefusal 0xFF tag .badKind s
  | some k => takeRequest k tag p (ownRequest k tag p) s

end Sys2Proof.Machine
end

