-- ==== Sys2Proof/Machine/Receiver.lean ====
section
/-!
DEFINITION. The receiver: what each byte on RXD does in each receiver state (R189, R190), and the inter-byte timer (R191).
-/
namespace Sys2Proof.Machine

/-- A byte is taken: the receiver goes to `rx` and the inter-byte timer restarts at the present device time (R191). -/
def takeByte (rx : RxState) (s : State) : State := s.setLink { s.link with rx := rx, lastByte := s.time }

/-- The receiver state after a byte of the body: CRC when the body is full (R190). -/
def bodyState (len : Nat) (got : List Byte) : RxState := if len ≤ got.length then .crc len got none else .body len got

/-- The CRC-16 that a frame with this LEN and body must carry (R189, R190). -/
def frameCrc (len : Nat) (body : List Byte) : Word := crc16 (BitVec.ofNat 8 len :: body)

/-- A correct frame goes to the request checks with its KIND, its TAG and its payload (R190, R193). A body of fewer than two bytes
does not occur, for LEN is 2 to 244. -/
def frameArrives (body : List Byte) (s : State) : State :=
  match body with
  | kind :: tag :: payload => takeFrame kind tag payload (frameTaken s)
  | _ => discardFrame s

/-- The second CRC byte has arrived: the frame is correct, or it is discarded (R190). The CRC's high byte comes first. -/
def frameEnds (len : Nat) (body : List Byte) (hi lo : Byte) (s : State) : State :=
  if word16 lo hi = frameCrc len body then frameArrives body s else discardFrame s

/-- A byte without line error, by the receiver state (R190). -/
def receiveByte (b : Byte) (s : State) : State :=
  match s.link.rx with
  | .hunt => if b = 0xC3 then takeByte .length s else s
  | .length => if 2 ≤ b.toNat ∧ b.toNat ≤ 244 then takeByte (.body b.toNat []) s else discardFrame s
  | .body len got => takeByte (bodyState len (got ++ [b])) s
  | .crc len got none => takeByte (.crc len got (some b)) s
  | .crc len got (some hi) => frameEnds len got hi b s

/-- A byte whose stop bit reads low: discarded in HUNT, and otherwise the frame is discarded (R190). -/
def receiveBadByte (s : State) : State := if s.link.rx = .hunt then s else discardFrame s

/-- The inter-byte timer runs in LENGTH, BODY and CRC, and 2 ms have passed since the last byte taken (R191). -/
def interByteDue (s : State) : Bool := s.link.rx != .hunt && interByteUs ≤ elapsed s.time s.link.lastByte

/-- The hold of TXD runs, and 5 ms of device time have passed since the reset ended (R203). Device time counts from that moment
(R186). -/
def holdDue (s : State) : Bool := s.link.holding && txHoldUs ≤ s.time.toNat

/-- The hold of TXD ends, and the transmitter chooses its first frame (R199, R203). -/
def endHold (s : State) : State := chooseFrame (s.setLink { s.link with holding := false })

end Sys2Proof.Machine
end

