-- ==== Sys2Proof/Machine/LinkCommands.lean ====
section
/-!
DEFINITION. The commands of the host link that are no request: bytes, discards, timers, and the departure of frames (R190 to R203).
-/
namespace Sys2Proof.Machine

/-- TX_HOLD_END (R203). -/
def execTxHoldEnd (s : State) : Host.Outcome State Fault Refusal :=
  .next (happening (fun s => if holdDue s then endHold s else s) s)

/-- INTER_BYTE_TIMEOUT (R191). -/
def execInterByteTimeout (s : State) : Host.Outcome State Fault Refusal :=
  .next (happening (fun s => if interByteDue s then discardFrame s else s) s)

/-- FRAME_DISCARD (R192). -/
def execFrameDiscard (s : State) : Host.Outcome State Fault Refusal := .next (happening discardFrame s)

/-- BAD_KIND_FRAME (R193, R194). -/
def execBadKindFrame (kind tag : Byte) (payload : List Byte) (s : State) : Host.Outcome State Fault Refusal :=
  .next (happening (fun s => takeFrame kind tag payload (frameTaken s)) s)

/-- REPLY_SENT (R198, R202). -/
def execReplySent (straps : Straps) (ext : BitVec 4) (s : State) : Host.Outcome State Fault Refusal :=
  .next (happening (replyDeparts straps ext) s)

/-- NOTICE_FRAME_SENT (R199). -/
def execNoticeFrameSent (s : State) : Host.Outcome State Fault Refusal := .next (happening noticeDeparts s)

/-- RXD_BYTE (R190). -/
def execRxdByte (byte : Byte) (lineError : Bool) (s : State) : Host.Outcome State Fault Refusal :=
  .next (happening (fun s => if lineError then receiveBadByte s else receiveByte byte s) s)

end Sys2Proof.Machine
end

