-- ==== Sys2Proof/Machine/PowerCommands.lean ====
section
/-!
DEFINITION. The commands of the supply, of RST# and of device time (R185, R186).
-/
namespace Sys2Proof.Machine

/-- POWER_ON (R185): the reset, with the pins' levels taken unless RST# holds the device. -/
def execPowerOn (straps : Straps) (ext : BitVec 4) (s : State) : Host.Outcome State Fault Refusal :=
  let s := { resetDevice straps s with powered := true }
  .next (if s.rstLow then s else sampleExt ext s)

/-- RST_ASSERT (R185): the reset at the falling edge of RST#; the device is held while the pin stays low. A pin that is low already has
no falling edge, and an unpowered device has only its pin's level. -/
def execRstAssert (straps : Straps) (s : State) : Host.Outcome State Fault Refusal :=
  if s.rstLow then .next s
  else if s.powered then .next { resetDevice straps s with rstLow := true }
  else .next { s with rstLow := true }

/-- RST_RELEASE (R185): RST# returns high, the reset ends and the pins' levels are taken (R79). -/
def execRstRelease (ext : BitVec 4) (s : State) : Host.Outcome State Fault Refusal :=
  if s.rstLow then
    let s := { s with rstLow := false }
    .next (if s.powered then sampleExt ext s else s)
  else .next s

/-- POWER_LOSS (R185, R19): all RAM state is lost, and an array operation in progress is cut. -/
def execPowerLoss (s : State) : Host.Outcome State Fault Refusal :=
  if s.powered then .next { resetDevice ⟨false, false⟩ s with powered := false } else .next s

/-- DEVICE_TIME_TICK (R186): device time counts while the device is powered and not held in reset. -/
def execDeviceTimeTick (s : State) : Host.Outcome State Fault Refusal :=
  if s.running then .next { s with time := s.time + 1 } else .next s

end Sys2Proof.Machine
end

