-- ==== Sys2Proof/Machine/RequestCommands.lean ====
section
/-!
DEFINITION. The twenty-one request commands, each the happening in which its frame ends on RXD (R193 to R196).
-/
namespace Sys2Proof.Machine

/-- HELLO (R201). -/
def execHello (tag : Byte) (payload : List Byte) (s : State) : Host.Outcome State Fault Refusal :=
  .next (requestHappening .hello tag payload (helloRequest tag) s)

/-- STATUS (R210). -/
def execStatus (tag : Byte) (payload : List Byte) (s : State) : Host.Outcome State Fault Refusal :=
  .next (requestHappening .status tag payload (statusRequest tag) s)

/-- RESET (R202). -/
def execReset (tag : Byte) (payload : List Byte) (s : State) : Host.Outcome State Fault Refusal :=
  .next (requestHappening .reset tag payload (resetRequest tag) s)

/-- SHUTDOWN (R182). -/
def execShutdown (tag : Byte) (payload : List Byte) (s : State) : Host.Outcome State Fault Refusal :=
  .next (requestHappening .shutdown tag payload (shutdownRequest tag) s)

/-- CHECKPOINT (R173). -/
def execCheckpoint (tag : Byte) (payload : List Byte) (s : State) : Host.Outcome State Fault Refusal :=
  .next (requestHappening .checkpoint tag payload (checkpointRequest tag) s)

/-- SET NOTICE MASK (R207). -/
def execSetNoticeMask (tag : Byte) (payload : List Byte) (s : State) : Host.Outcome State Fault Refusal :=
  .next (requestHappening .setNoticeMask tag payload (maskRequest tag payload) s)

/-- ACK NOTICE (R209). -/
def execAckNotice (tag : Byte) (payload : List Byte) (s : State) : Host.Outcome State Fault Refusal :=
  .next (requestHappening .ackNotice tag payload (ackRequest tag payload) s)

/-- DEFINE STREAM (R64, R65). -/
def execDefineStream (tag : Byte) (payload : List Byte) (s : State) : Host.Outcome State Fault Refusal :=
  .next (requestHappening .defineStream tag payload (defineRequest tag payload) s)

/-- ARM (R66). -/
def execArm (tag : Byte) (payload : List Byte) (s : State) : Host.Outcome State Fault Refusal :=
  .next (requestHappening .arm tag payload (armRequest tag payload) s)

/-- FIRE (R84, R85). -/
def execFire (tag : Byte) (payload : List Byte) (s : State) : Host.Outcome State Fault Refusal :=
  .next (requestHappening .fire tag payload (fireRequest tag payload) s)

/-- STOP (R67). -/
def execStop (tag : Byte) (payload : List Byte) (s : State) : Host.Outcome State Fault Refusal :=
  .next (requestHappening .stop tag payload (stopRequest tag payload) s)

/-- FLUSH (R113). -/
def execFlush (tag : Byte) (payload : List Byte) (s : State) : Host.Outcome State Fault Refusal :=
  .next (requestHappening .flush tag payload (flushRequest tag payload) s)

/-- UNBIND (R68). -/
def execUnbind (tag : Byte) (payload : List Byte) (s : State) : Host.Outcome State Fault Refusal :=
  .next (requestHappening .unbind tag payload (unbindRequest tag payload) s)

/-- STREAM INFO (R69). -/
def execStreamInfo (tag : Byte) (payload : List Byte) (s : State) : Host.Outcome State Fault Refusal :=
  .next (requestHappening .streamInfo tag payload (infoRequest tag payload) s)

/-- TIMER whose action is START, or is refused (R89, R90). -/
def execTimerStart (tag : Byte) (payload : List Byte) (s : State) : Host.Outcome State Fault Refusal :=
  .next (requestHappening .timer tag payload (timerRequest tag payload) s)

/-- TIMER whose action is STOP (R89, R90). -/
def execTimerStop (tag : Byte) (payload : List Byte) (s : State) : Host.Outcome State Fault Refusal :=
  .next (requestHappening .timer tag payload (timerRequest tag payload) s)

/-- READ (R139, R140). -/
def execRead (tag : Byte) (payload : List Byte) (s : State) : Host.Outcome State Fault Refusal :=
  .next (requestHappening .read tag payload (readRequest tag payload) s)

/-- RELEASE (R152 to R156). -/
def execRelease (tag : Byte) (payload : List Byte) (s : State) : Host.Outcome State Fault Refusal :=
  .next (requestHappening .release tag payload (releaseRequest tag payload) s)

/-- DELETE (R158, R159). -/
def execDelete (tag : Byte) (payload : List Byte) (s : State) : Host.Outcome State Fault Refusal :=
  .next (requestHappening .delete tag payload (deleteRequest tag payload) s)

/-- UNIT INFO (R44). -/
def execUnitInfo (tag : Byte) (payload : List Byte) (s : State) : Host.Outcome State Fault Refusal :=
  .next (requestHappening .unitInfo tag payload (unitInfoRequest tag payload) s)

/-- MAP SUMMARY (R45). -/
def execMapSummary (tag : Byte) (payload : List Byte) (s : State) : Host.Outcome State Fault Refusal :=
  .next (requestHappening .mapSummary tag payload (summaryRequest tag) s)

end Sys2Proof.Machine
end

