-- ==== Sys2Proof/Machine/Dispatch.lean ====
section
/-!
DEFINITION. The meaning of each command: one arm per constructor of Instr, each one call.
-/
namespace Sys2Proof.Machine

def exec (i : Instr) (s : State) : Host.Outcome State Fault Refusal :=
  match i with
  | .powerOn straps ext => Sys2Proof.Machine.execPowerOn straps ext s
  | .rstAssert straps => Sys2Proof.Machine.execRstAssert straps s
  | .rstRelease ext => Sys2Proof.Machine.execRstRelease ext s
  | .txHoldEnd => Sys2Proof.Machine.execTxHoldEnd s
  | .interByteTimeout => Sys2Proof.Machine.execInterByteTimeout s
  | .frameDiscard => Sys2Proof.Machine.execFrameDiscard s
  | .badKindFrame kind tag payload => Sys2Proof.Machine.execBadKindFrame kind tag payload s
  | .hello tag payload => Sys2Proof.Machine.execHello tag payload s
  | .status tag payload => Sys2Proof.Machine.execStatus tag payload s
  | .reset tag payload => Sys2Proof.Machine.execReset tag payload s
  | .shutdown tag payload => Sys2Proof.Machine.execShutdown tag payload s
  | .checkpoint tag payload => Sys2Proof.Machine.execCheckpoint tag payload s
  | .setNoticeMask tag payload => Sys2Proof.Machine.execSetNoticeMask tag payload s
  | .ackNotice tag payload => Sys2Proof.Machine.execAckNotice tag payload s
  | .defineStream tag payload => Sys2Proof.Machine.execDefineStream tag payload s
  | .arm tag payload => Sys2Proof.Machine.execArm tag payload s
  | .fire tag payload => Sys2Proof.Machine.execFire tag payload s
  | .stop tag payload => Sys2Proof.Machine.execStop tag payload s
  | .flush tag payload => Sys2Proof.Machine.execFlush tag payload s
  | .unbind tag payload => Sys2Proof.Machine.execUnbind tag payload s
  | .streamInfo tag payload => Sys2Proof.Machine.execStreamInfo tag payload s
  | .timerStart tag payload => Sys2Proof.Machine.execTimerStart tag payload s
  | .timerStop tag payload => Sys2Proof.Machine.execTimerStop tag payload s
  | .read tag payload => Sys2Proof.Machine.execRead tag payload s
  | .release tag payload => Sys2Proof.Machine.execRelease tag payload s
  | .delete tag payload => Sys2Proof.Machine.execDelete tag payload s
  | .unitInfo tag payload => Sys2Proof.Machine.execUnitInfo tag payload s
  | .mapSummary tag payload => Sys2Proof.Machine.execMapSummary tag payload s
  | .replySent straps ext => Sys2Proof.Machine.execReplySent straps ext s
  | .noticeFrameSent => Sys2Proof.Machine.execNoticeFrameSent s
  | .laneGoodWord lane word => Sys2Proof.Machine.execLaneGoodWord lane word s
  | .laneBadWord lane fragment => Sys2Proof.Machine.execLaneBadWord lane fragment s
  | .extEdge pin high => Sys2Proof.Machine.execExtEdge pin high s
  | .timerExpiry timer => Sys2Proof.Machine.execTimerExpiry timer s
  | .programDone pass => Sys2Proof.Machine.execProgramDone pass s
  | .programTimeout => Sys2Proof.Machine.execProgramTimeout s
  | .readDone asRead => Sys2Proof.Machine.execReadDone asRead s
  | .readTimeout => Sys2Proof.Machine.execReadTimeout s
  | .eraseDone pass => Sys2Proof.Machine.execEraseDone pass s
  | .eraseTimeout => Sys2Proof.Machine.execEraseTimeout s
  | .lateDoneDiscard => Sys2Proof.Machine.execLateDoneDiscard s
  | .programGrant => Sys2Proof.Machine.execProgramGrant s
  | .readGrant => Sys2Proof.Machine.execReadGrant s
  | .eraseGrant => Sys2Proof.Machine.execEraseGrant s
  | .checkpointStart => Sys2Proof.Machine.execCheckpointStart s
  | .checkpointOpGrant => Sys2Proof.Machine.execCheckpointOpGrant s
  | .relocationStepGrant => Sys2Proof.Machine.execRelocationStepGrant s
  | .mountReadGrant => Sys2Proof.Machine.execMountReadGrant s
  | .bufferGrant => Sys2Proof.Machine.execBufferGrant s
  | .starvedRelief => Sys2Proof.Machine.execStarvedRelief s
  | .relocationStart => Sys2Proof.Machine.execRelocationStart s
  | .flushComplete => Sys2Proof.Machine.execFlushComplete s
  | .shutdownComplete => Sys2Proof.Machine.execShutdownComplete s
  | .rxdByte byte lineError => Sys2Proof.Machine.execRxdByte byte lineError s
  | .lnclkRisingEdge lane dat => Sys2Proof.Machine.execLnclkRisingEdge lane dat s
  | .laneWordBoundary lane => Sys2Proof.Machine.execLaneWordBoundary lane s
  | .timerTick timer => Sys2Proof.Machine.execTimerTick timer s
  | .deviceTimeTick => Sys2Proof.Machine.execDeviceTimeTick s
  | .powerLoss => Sys2Proof.Machine.execPowerLoss s

end Sys2Proof.Machine
end

