-- ==== Sys2Proof/Machine/Step.lean ====
section
/-!
DEFINITION. The step of the block: the command at the front of the queue (assumption 15), and the host's way to put one there.
-/
namespace Sys2Proof.Machine

/-- The command at the front of the queue is taken, its effect on everything but the queue being that of `exec`. On an empty queue the
block idles: nothing changes without a command (assumption 15). -/
def step (s : State) : Host.Outcome State Fault Refusal :=
  match s.pending with
  | [] => .next s
  | c :: rest => exec c { s with pending := rest }

/-- The command that the table bits `w` spell at the front of the queue; the state as it is when they spell none. -/
def State.withFetchWord (s : State) (nbits w : Nat) : State :=
  match decodeTableWord nbits w with
  | some c => { s with pending := c :: s.pending }
  | none => s

end Sys2Proof.Machine
end

