-- ==== Sys2Proof/WellFormed.lean ====
section
/-!
DEFINITION. The commands that can be: a frame's BODY has at most 244 bytes (R189), a BAD_KIND frame has no request kind
(R193), and the action byte of a TIMER frame says which of its two rows it is (R89).
-/
namespace Sys2Proof

/-- A payload fits a frame: BODY is KIND, TAG and the payload, and LEN is at most 244 (R189). -/
def payloadFits (p : List Byte) : Bool := p.length ≤ 242

/-- The request kinds of the table of R193. -/
def requestKindCodes : List Byte :=
  [0x01, 0x02, 0x03, 0x04, 0x05, 0x06, 0x07, 0x10, 0x11, 0x12, 0x13, 0x14, 0x15, 0x16, 0x18, 0x20, 0x21, 0x22, 0x28, 0x29]

/-- The action byte of a TIMER payload (timer, action, period, mode: R89) is STOP. -/
def timerActionIsStop (p : List Byte) : Bool := p[1]? == some 1

/-- The well-formedness of a command as syntax. -/
def Instr.wellFormed : Instr → Bool
  | .badKindFrame kind _ p => payloadFits p && !requestKindCodes.contains kind
  | .timerStart _ p => payloadFits p && !timerActionIsStop p
  | .timerStop _ p => payloadFits p && timerActionIsStop p
  | .hello _ p => payloadFits p
  | .status _ p => payloadFits p
  | .reset _ p => payloadFits p
  | .shutdown _ p => payloadFits p
  | .checkpoint _ p => payloadFits p
  | .setNoticeMask _ p => payloadFits p
  | .ackNotice _ p => payloadFits p
  | .defineStream _ p => payloadFits p
  | .arm _ p => payloadFits p
  | .fire _ p => payloadFits p
  | .stop _ p => payloadFits p
  | .flush _ p => payloadFits p
  | .unbind _ p => payloadFits p
  | .streamInfo _ p => payloadFits p
  | .read _ p => payloadFits p
  | .release _ p => payloadFits p
  | .delete _ p => payloadFits p
  | .unitInfo _ p => payloadFits p
  | .mapSummary _ p => payloadFits p
  | .powerOn _ _ => true
  | .rstAssert _ => true
  | .rstRelease _ => true
  | .txHoldEnd => true
  | .interByteTimeout => true
  | .frameDiscard => true
  | .replySent _ _ => true
  | .noticeFrameSent => true
  | .laneGoodWord _ _ => true
  | .laneBadWord _ _ => true
  | .extEdge _ _ => true
  | .timerExpiry _ => true
  | .programDone _ => true
  | .programTimeout => true
  | .readDone _ => true
  | .readTimeout => true
  | .eraseDone _ => true
  | .eraseTimeout => true
  | .lateDoneDiscard => true
  | .programGrant => true
  | .readGrant => true
  | .eraseGrant => true
  | .checkpointStart => true
  | .checkpointOpGrant => true
  | .relocationStepGrant => true
  | .mountReadGrant => true
  | .bufferGrant => true
  | .starvedRelief => true
  | .relocationStart => true
  | .flushComplete => true
  | .shutdownComplete => true
  | .rxdByte _ _ => true
  | .lnclkRisingEdge _ _ => true
  | .laneWordBoundary _ => true
  | .timerTick _ => true
  | .deviceTimeTick => true
  | .powerLoss => true

end Sys2Proof
end

