-- ==== Sys2Proof/Safety.lean ====
section
/-!
DEFINITION. What claims about the RHD840 speak of: the conditions under which a request is taken, the reply it brings, the part of
the state that a happening's end leaves alone, and the invariants that every command keeps.
-/
namespace Sys2Proof.Machine

/-! ## Requests as claims see them -/

/-- The command row of a correct frame of a request kind; the action byte of a TIMER payload selects its row (R89). -/
def commandOf (k : ReqKind) (tag : Byte) (p : List Byte) : Instr :=
  match k with
  | .hello => .hello tag p
  | .status => .status tag p
  | .reset => .reset tag p
  | .shutdown => .shutdown tag p
  | .checkpoint => .checkpoint tag p
  | .setNoticeMask => .setNoticeMask tag p
  | .ackNotice => .ackNotice tag p
  | .defineStream => .defineStream tag p
  | .arm => .arm tag p
  | .fire => .fire tag p
  | .stop => .stop tag p
  | .flush => .flush tag p
  | .unbind => .unbind tag p
  | .streamInfo => .streamInfo tag p
  | .timer => if timerActionIsStop p then .timerStop tag p else .timerStart tag p
  | .read => .read tag p
  | .release => .release tag p
  | .delete => .delete tag p
  | .unitInfo => .unitInfo tag p
  | .mapSummary => .mapSummary tag p

/-- The device state takes a request of the kind (the table of R196). -/
def takenIn : DeviceState → ReqKind → Bool
  | .mounting, k => k == .hello || k == .status || k == .reset
  | .ready, _ => true
  | .worn, k => !(k == .defineStream || k == .arm || k == .release || k == .delete)
  | .shuttingDown, k => k == .hello || k == .status || k == .reset
  | .halted, k => k == .hello || k == .status || k == .reset

/-- A frame of kind `k` passes the early checks (R193): its tag is neither 0 nor outstanding, fewer than 4 requests are outstanding, and
its length is that of its kind. -/
def passesEarly (k : ReqKind) (tag : Byte) (p : List Byte) (s : State) : Bool :=
  tag != 0 && s.link.requests.all (fun r => r.tag != tag) && decide (s.link.requests.length < 4) &&
    decide (p.length + 2 = kindBodyLength k)

/-- A frame of kind `k` is handed to its owning block: the device runs, the early checks pass and the device state takes it (R193,
R196). -/
def accepted (k : ReqKind) (tag : Byte) (p : List Byte) (s : State) : Bool :=
  s.running && passesEarly k tag p s && takenIn s.ctl.device k

/-- The reply that answers a request with a status and contents (R197). -/
def replyOf (k : ReqKind) (tag : Byte) (st : Status) (contents : List Byte) : Reply :=
  ⟨.request tag k, (kindCode k + 0x80) :: tag :: st.code :: contents, none⟩

/-- The state in which the owning block finds a request handed to it: the receiver in HUNT (R190) and the entry in the request table at
stage WAITING (R195). -/
def waiting (k : ReqKind) (tag : Byte) (p : List Byte) (s : State) : State :=
  { s with link := { s.link with rx := .hunt, requests := s.link.requests ++ [⟨tag, k, p, .waiting⟩] } }

/-- The state `s` with a request taken and completed in it: the receiver in HUNT, the entry in the request table at stage COMPLETED and
its reply at the tail of the reply queue (R190, R195, R198). -/
def answered (k : ReqKind) (tag : Byte) (p : List Byte) (st : Status) (contents : List Byte) (s : State) : State :=
  { s with link := { s.link with
      rx := .hunt
      requests := s.link.requests ++ [⟨tag, k, p, .completed⟩]
      replies := s.link.replies ++ [replyOf k tag st contents] } }

/-- The state `s` after a frame has been refused early, its reply formed in the refusal slot (R194). -/
def refusedEarly (kindByte tag : Byte) (st : Status) (s : State) : State :=
  { s with link := { s.link with
      rx := .hunt
      replies := s.link.replies ++ [⟨.refusal, [kindByte, tag, st.code], none⟩]
      refusalBusy := true } }

/-- The state `s` after a frame has been discarded: the receiver in HUNT, the link discard count one higher, and LINK_ERROR raised with
that count unless it has been reported (R192). -/
def discarded (s : State) : State :=
  { s with
    link := { s.link with rx := .hunt, discards := min (s.link.discards + 1) 65535, faultReported := true }
    notices := if s.link.faultReported then s.notices
      else s.notices.raise .linkError (BitVec.ofNat 16 (min (s.link.discards + 1) 65535)) s.time }

/-- The bytes of a list from `off` on, `n` of them: a field of a frame's BODY (R212). -/
def fieldAt (body : List Byte) (off n : Nat) : List Byte := (body.drop off).take n

/-- The status of the first early check that a frame of kind `k` fails, when it fails one (R193, checks 2 to 5). -/
def earlyStatus (tag : Byte) (s : State) : Status :=
  if tag = 0 then .badTag
  else if s.link.requests.any (fun r => r.tag == tag) then .tagInUse
  else if 4 ≤ s.link.requests.length then .busy
  else .badLength

/-- The refusal of a request that the device state does not take (R196). -/
def stateRefusal : DeviceState → Status
  | .mounting => .mounting
  | .ready => .ok
  | .worn => .worn
  | .shuttingDown => .halted
  | .halted => .halted

/-- The table of R64: what makes a DEFINE STREAM refused with BAD_PARAM. -/
def badDefine (p : List Byte) : Bool :=
  let mode := (field8 p 4).toNat
  let start := (field8 p 11).toNat
  let stop := (field8 p 12).toNat
  decide (7 < (field8 p 2).toNat) || decide (5 < (field8 p 3).toNat) || decide (2 < mode) ||
    (mode == 1 && ((field32 p 5).toNat == 0 || decide (16777215 < (field32 p 5).toNat))) ||
    (field16 p 9).toNat == 0 || decide (256 < (field16 p 9).toNat) || decide (15 ≤ start) ||
    (stop == 0 || stop == 13 || stop == 14 || (decide (12 < stop) && stop != 0xFF)) ||
    (mode == 2 && (decide (start < 2) || decide (9 < start) || stop != 0xFF)) ||
    (start == 14 && (decide (7 < (field8 p 13).toNat) || field8 p 13 == field8 p 2)) || decide (1 < (field8 p 16).toNat)

/-! ## The transmitter as claims see it -/

/-- From `s` to `t` the transmitter starts a NOTICE frame (R199, R206). -/
def startsNotice (s t : State) : Prop :=
  t.link.tx = .sendingNotice (wireFrame (noticeBody s.notices)) ∧ t.link.spacing = 0 ∧
    t.notices = { s.notices with backlog := [], overflow := false }

/-- From `s` to `t` an IDLE transmitter chooses its next frame by the four lines of R199. -/
def choosesFrame (s t : State) : Prop :=
  if s.notices.backlog ≠ [] ∧ s.link.spacing = 4 then startsNotice s t
  else
    match s.link.replies with
    | r :: _ => t.link.tx = .sendingReply (wireFrame r.body) ∧ t.notices = s.notices ∧
        t.link.spacing = if s.notices.backlog = [] then s.link.spacing else min (s.link.spacing + 1) 4
    | [] =>
      if s.notices.backlog ≠ [] then startsNotice s t
      else t.link.tx = .idle ∧ t.notices = s.notices ∧ t.link.spacing = s.link.spacing

/-- The state `s` with its oldest reply gone (R198): out of the reply queue, its request out of the request table or the refusal slot FREE,
and the staging buffer held for its words FREE. -/
def replyGone (r : Reply) (rest : List Reply) (s : State) : State :=
  { s with
    link := { s.link with
      replies := rest
      requests := match r.source with
        | .request tag _ => s.link.requests.filter (fun q => q.tag ≠ tag)
        | .refusal => s.link.requests
      refusalBusy := if r.source = .refusal then false else s.link.refusalBusy }
    reads := match r.staging with
      | some i => { s.reads with staging := vset s.reads.staging i .free }
      | none => s.reads }

/-! ## Resets as claims see them -/

/-- What a reset leaves, written out: the RAM values of R6, R21, R46, R70, R86, R92, R116, R138, R165, R188 and R204, device time 0 and the
rate of the straps, beside the queue of commands, the supply, the RST# pin, the pins' levels and the array with its operation cut. -/
def afterResetOf (straps : Straps) (ext : BitVec 4) (powered rstLow : Bool) (s : State) : State where
  pending := s.pending
  powered := powered
  rstLow := rstLow
  time := 0
  array := (cutOperation s).array
  engine := ⟨none, 0⟩
  map := UnitMap.reset
  streams := Vector.replicate 8 StreamRec.undefined
  lanes := Vector.replicate 6 ⟨false, .awaitBoundary, 0, 0, false⟩
  triggers := ⟨ext, Vector.replicate 3 ⟨false, 0, false, 0, 0⟩⟩
  bufs := BufMgr.reset
  reloc := ⟨none, [], none, false⟩
  reads := ⟨[], Vector.replicate 2 .free⟩
  ctl := ⟨.mounting, 1, none, 0, false, none, [], none, some Scan.start, none⟩
  link := ⟨rateOf straps, .hunt, 0, [], [], false, .idle, true, 0, 0, false, false⟩
  notices := ⟨0x0000, 0xFFFF, [], false⟩
  freeUsed := (cutOperation s).freeUsed

/-! ## What a happening's end leaves alone -/

/-- The state without what the end of every happening may still move beside the happening's own effect: the receiver, the request
table, the replies and the transmitter of the host link, the notice backlog and its overflow flag (R199, R206), the stand-aside mark
(R121), the pending flag of the checkpoint (R183) and the count of free values drawn. Two states with the same `core` agree in
everything else: the array, its engine, the map, the streams, the lanes, the triggers, the buffers, the rest of every block. -/
def State.core (s : State) : State :=
  { s with
    link := { s.link with rx := .hunt, requests := [], replies := [], tx := .idle, spacing := 0 }
    notices := { s.notices with backlog := [], overflow := false }
    reloc := { s.reloc with standAside := false }
    ctl := { s.ctl with ckptPending := false }
    freeUsed := 0 }

/-- What every happening leaves: in SHUTTING_DOWN with the drain condition met, no checkpoint in progress and the final one not
started, checkpoint pending is set (R183); an IDLE port with the stand-aside mark set has another block's claim (R121); an IDLE
transmitter that is not held has nothing to send (R199). -/
def State.settled (s : State) : Bool :=
  (!(s.ctl.device == .shuttingDown && drained s && s.ctl.ckpt.isNone && !finalStarted s) || s.ctl.ckptPending) &&
  (!(s.reloc.standAside && s.engine.op.isNone) || (ranked s).isSome) &&
  (!(s.link.tx == .idle && !s.link.holding) || (s.link.replies.isEmpty && s.notices.backlog.isEmpty))

/-! ## Streams and runs as claims see them -/

/-- The state without what starts and ends of runs, words and seals may move: beside what `core` leaves out, the stream records, the buffer
manager, the notices' pending set, and of the map the unit records, the chains and the free list. Two states with the same `outside`
agree in the array, its engine, the dirty list, the retired set and the counts of the map, the lanes, the triggers, the relocation
controller, the read-back path and the rest of the controller and of the link. -/
def State.outside (s : State) : State :=
  { s.core with
    streams := Vector.replicate 8 StreamRec.undefined
    bufs := BufMgr.reset
    map := { s.map with units := UnitMap.reset.units, chains := UnitMap.reset.chains, freeList := [] }
    notices := ⟨0x0000, s.notices.mask, [], false⟩ }

/-- Two stream records that agree but for OVERRUN: a buffer that another stream frees may end a stream's OVERRUN (R93, R96), and its own
request for a buffer may begin it (R94). -/
def sameRun (r r' : StreamRec) : Prop := { r' with overrun := false } = { r with overrun := false }

/-- The stream record at the start of a run (R54, steps 1 to 4). -/
def startedRun (r : StreamRec) : StreamRec :=
  { r with state := .capturing, runNumber := r.runNumber + 1, keptWords := 0, skipCounter := 0, droppedInRun := 0, runStartPending := true }

/-- The stream waits ARMED for a run start of its peer (R55, R83). -/
def isPeerArmed (r : StreamRec) : Bool := r.state == .armed && (r.config.map (·.start)) == some .peer

/-- A run end with the cause leaves the stream ARMED on IMMEDIATE, so that its next run starts at once (R57). -/
def restarts (cause : EndCause) (r : StreamRec) : Bool :=
  (cause == .count || cause == .stopSource || cause == .gate) && (r.config.map (·.rearm)) == some true &&
    (r.config.map (·.start)) == some .immediate

/-- The state that a run end leaves before any restart (the table of R57). -/
def stateAfter (cause : EndCause) (r : StreamRec) : StreamState :=
  if cause = .fault then .faulted
  else if (cause == .count || cause == .stopSource || cause == .gate) && (r.config.map (·.rearm)) == some true then .armed
  else .bound

/-- What one trigger happening with these roles does to every stream (R77): a start starts its run; a stop ends its run with its cause, and
starts the next one where R57 says so; any other stream is left as it is, but for a PEER follower that a start brings with it (R83). -/
def triggered (role : StreamId → TriggerRole) (s t : State) : Prop :=
  ∀ f, match role f with
    | .start => sameRun (startedRun (s.stream f)) (t.stream f)
    | .stop cause =>
      (t.stream f).endCause = some cause ∧
      (t.stream f).state = (if restarts cause (s.stream f) then .capturing else stateAfter cause (s.stream f)) ∧
      (t.stream f).runNumber = (s.stream f).runNumber + (if restarts cause (s.stream f) then 1 else 0)
    | .none =>
      sameRun (s.stream f) (t.stream f) ∨
        (isPeerArmed (s.stream f) = true ∧ sameRun (startedRun (s.stream f)) (t.stream f))

/-- The lanes after the streams' bindings have changed (R71): a lane listens exactly while a stream holds a configuration that names it, and a
lane that begins or ends listening waits for a word boundary. -/
def listenTo (streams : Vector StreamRec 8) (lanes : Vector Lane 6) : Vector Lane 6 :=
  Vector.ofFn (fun l =>
    let bound := allStreams.any (fun f => ((vget streams f).config.map (·.lane)) == some l)
    if bound = (vget lanes l).listening then vget lanes l
    else { vget lanes l with listening := bound, phase := .awaitBoundary })

/-- The role of a happening of the source `src` for a stream: a start when it is ARMED on it, a stop when it is CAPTURING and stops on it
(R77). -/
def roleOf (src : TriggerSource) (r : StreamRec) : TriggerRole :=
  if r.state = .armed ∧ r.config.map (·.start) = some src then .start
  else if r.state = .capturing ∧ r.config.bind (·.stop) = some src then .stop .stopSource
  else .none

/-- The role of an edge of a pin to a level (R80, R81): a CAPTURING stream in GATE mode ends its run at the edge to its inactive level, and
no other edge concerns it. -/
def roleOfEdge (pin : PinId) (high : Bool) (r : StreamRec) : TriggerRole :=
  if r.state = .capturing ∧ r.config.map (·.mode) = some .gate then
    if r.config.map (·.start) = some (.ext pin (!high)) then .stop .gate else .none
  else roleOf (.ext pin high) r

/-- The skip counter after a good word (R60). -/
def skipAfter (r : StreamRec) : Nat := if (r.config.map (·.skip)).getD 1 ≤ r.skipCounter + 1 then 0 else r.skipCounter + 1

/-- The kept-words count after a kept word (R60, R46). -/
def keptAfter (r : StreamRec) : Nat := min (r.keptWords + 1) 0xFFFFFFFF

/-- A COUNT run whose count is reached with the next kept word (R62). -/
def countEnds (r : StreamRec) : Prop := ∃ c, r.config = some c ∧ c.mode = .count ∧ c.count = some (keptAfter r)

/-- A stream record with one more dropped word (R61, R63). -/
def oneDropped (r : StreamRec) : StreamRec :=
  { r with droppedInRun := min (r.droppedInRun + 1) 0xFFFF, droppedTotal := min (r.droppedTotal + 1) 0xFFFFFFFF }

/-! ## The map and the array as claims see them -/

/-- A unit record outside every chain: its state and its erase count, no owner and no slots (R22, R33). -/
def unitOut (st : UnitState) (r : UnitRec) : UnitRec := ⟨st, r.eraseCount, none, none, 0, 0, false⟩

/-- The units `gone`, of which `frozen` says whether each was FROZEN, have left their chain from `s` to `t` (R33, R40): each is DIRTY or
RETIRED, with its erase count kept, the dirty list and the retired count have grown by as many as each, and nothing else of the units
changes. -/
def unitsLeft (gone : List UnitId) (s t : State) : Prop :=
  (∃ d, t.map.dirtyList = s.map.dirtyList ++ d ∧ d.Sublist gone ∧ (∀ u ∈ gone, (s.unit u).state ≠ .frozen → u ∈ d) ∧
    t.map.retiredCount + d.length = s.map.retiredCount + gone.length) ∧
  (∀ u, gone.count u = 1 → t.unit u = unitOut (if (s.unit u).state = .frozen then .retired else .dirty) (s.unit u)) ∧
  (∀ u ∈ gone, (s.unit u).state = .frozen →
    u ∈ t.map.retiredSet ∧ t.ctl.ckptPending = true ∧ t.notices.pendingSet.getLsbD 7 = true) ∧
  (∀ u, u ∉ gone → t.unit u = s.unit u) ∧ t.map.freeList = s.map.freeList

/-- From `s` to `t` the engine has put a page into a slot with PASS (R7): the slot reads VALID with DATA GOOD, its data are the page's, and
every other slot reads as before. -/
def slotProgrammed (u : UnitId) (k : Nat) (data : Vector Word 256) (s t : State) : Prop :=
  (t.array.read (slotAddr u k)).data = data ∧ classify (t.array.read (slotAddr u k)).tag = .valid ∧
    (t.array.read (slotAddr u k)).tag.dataCrc = crc16 (dataBytes data) ∧
    ∀ x, x ≠ slotAddr u k → t.array.read x = s.array.read x

/-- From `s` to `t` a PROGRAM of a slot has failed (R7): its tag reads INVALID, and every other slot reads as before. -/
def slotSpoiled (u : UnitId) (k : Nat) (s t : State) : Prop :=
  classify (t.array.read (slotAddr u k)).tag = .invalid ∧ ∀ x, x ≠ slotAddr u k → t.array.read x = s.array.read x

/-- The phase in which a copy from a unit that failed at a slot begins (R119). -/
def copyBegins (slot : Nat) : RelocPhase := if slot = 0 then .failedPageDue else .readDue

/-- A page as a READ that ends DONE reports it (R4, R8). -/
def asReported (p : Page) : ReadResult :=
  ⟨classify p.tag, decide (classify p.tag = .valid) && p.tag.dataCrc == crc16 (dataBytes p.data), p⟩

/-- A slot as read holds the page of a stream expected at a slot (R122, R145). -/
def holdsPage (p : Page) (st : StreamId) (slot x : Nat) : Prop :=
  classify p.tag = .valid ∧ p.tag.stream.toNat = st.val ∧ p.tag.slot.toNat = slot ∧ p.tag.pageNumber.toNat = x

/-! ## Held pages as claims see them -/

/-- A STARVED stream holds the page that a buffer's seal describes, and that buffer stands nowhere else (R91, R102, R104). -/
def holdsAlone (st : StreamId) (b : BufId) (i : SealInfo) (s : State) : Prop :=
  st ∈ s.bufs.starvedList ∧ s.heldBuf st = some b ∧ (s.buf b).sealed = some i ∧ s.fillBuf st = none ∧
    (∀ f, s.fillBuf f ≠ some b) ∧ ∀ f, f ≠ st → s.heldBuf f ≠ some b

/-- A CAPTURING stream has words in its fill buffer, which stands nowhere else, and no slot is to be had for them: its chain ends in no unit
that accepts a page, and the free list is at the reserve (R26, R34, R101). -/
def sealsToHeld (st : StreamId) (b : BufId) (s : State) : Prop :=
  (s.stream st).state = .capturing ∧ st ∉ s.bufs.starvedList ∧ st ∉ s.bufs.waitList ∧ s.fillBuf st = some b ∧ (s.buf b).words ≠ [] ∧
    (s.stream st).endPage < 0xFFFFFFFF ∧ (∀ f, f ≠ st → s.fillBuf f ≠ some b) ∧ (∀ f, f ≠ st → s.heldBuf f ≠ some b) ∧
    s.map.freeList.length ≤ 24 ∧
    ∀ u, (s.chain st).getLast? = some u → ¬(((s.unit u).state = .opened ∨
      ((s.unit u).state = .frozen ∧ (s.unit u).closed = false)) ∧ (s.unit u).assigned < 64)

/-- From `s` to `t` a page of the stream in buffer `b` has been discarded (R107): no page is held and STARVED is clear, end page is `x` and the
pages in flight are `n`, the lost pages total is one higher, PAGE_LOST is raised, and the buffer, for which no stream waits once every run
has ended, is back in the pool. -/
def pageDiscarded (st : StreamId) (b : BufId) (x n : Nat) (s t : State) : Prop :=
  t.heldBuf st = none ∧ (t.stream st).starved = false ∧ (t.stream st).endPage = x ∧ (t.stream st).inFlight = n ∧
    (t.stream st).lostTotal = min ((s.stream st).lostTotal + 1) 0xFFFFFFFF ∧ t.notices.pendingSet.getLsbD 5 = true ∧
    ((∀ f ∈ s.bufs.waitList, (s.stream f).state = .capturing) → b ∈ t.bufs.pool ∧ t.buf b = PageBuf.empty)

/-! ## The mount as claims see it -/

/-- The command `c` ends a read of the mount scan with the result `res` (R8, R174): a done report, or the timeout at 400 µs, which is handled as
a slot with an INVALID tag. -/
def scanRead (c : Instr) (op : Operation) (s : State) (res : ReadResult) : Prop :=
  (∃ asRead, c = .readDone asRead ∧ res = asReported (cellsRead (s.array.read (slotAddr op.unit (op.slot.getD 0))) asRead)) ∨
    (c = .readTimeout ∧ 400 ≤ (s.time - op.startTime).toNat ∧ res = ⟨.invalid, false, erasedPage⟩)

/-- The pages of a table slot, as read, are a valid copy of the unit table (the four lines of R167). -/
def copyHolds (hdr cmt : ReadResult) (es : List ReadResult) : Bool :=
  (cmt.cls == .valid && cmt.dataGood && wordAt cmt.page 0 == 0xC0A5 && wordAt cmt.page 1 == 0xC0A5) &&
  (hdr.cls == .valid && hdr.dataGood && es.length == 4 && es.all (fun e => e.cls == .valid && e.dataGood)) &&
  crc32 (dataBytes hdr.page.data ++ es.flatMap (fun e => dataBytes e.page.data)) == (wordAt cmt.page 5 ++ wordAt cmt.page 4) &&
  (wordAt hdr.page 0 == wordAt cmt.page 2 && wordAt hdr.page 1 == wordAt cmt.page 3)

/-- The copy to choose after the reads of one table slot: a valid copy with a higher sequence number than every copy before it (R175). -/
def chosenAfter (best : Option TableCopy) (k : Fin 16) (hdr cmt : ReadResult) (es : List ReadResult) : Option TableCopy :=
  let copy : TableCopy := ⟨(wordAt hdr.page 0).toNat + 65536 * (wordAt hdr.page 1).toNat, if k.val < 8 then 0 else 1,
    es.flatMap (fun e => e.page.data.toList)⟩
  if copyHolds hdr cmt es && best.all (fun c => decide (c.seqNo < copy.seqNo)) then some copy else best

/-- The map with the entries of a copy taken (R175, R216): each unit's erase count from bits 0 to 14 of its word, and each data unit with bit
15 set RETIRED. -/
def mapFromCopy (m : UnitMap) (entries : List Word) : UnitMap :=
  let units : Vector UnitRec 1024 := Vector.ofFn (fun u =>
    let e := entries.getD u.val 0
    { vget m.units u with
      eraseCount := e.toNat % 32768
      state := if 2 ≤ u.val ∧ e.getLsbD 15 = true then .retired else (vget m.units u).state })
  let retired := (List.finRange 1024).filter (fun u => decide (2 ≤ u.val ∧ (vget units u).state = .retired))
  { m with units := units, retiredSet := retired, retiredCount := retired.length }

/-- The device with the copy of the unit table chosen, or with none found (R175). -/
def withCopy (best : Option TableCopy) (used : Vector (Option Nat) 2) (s : State) : State :=
  match best with
  | some c => { s with
      map := mapFromCopy s.map c.entries
      ctl := { s.ctl with
        seqNo := c.seqNo
        tableUnit := c.tableUnit
        nextSlot := match vget used c.tableUnit with
          | some k => if k < 7 then some (k + 1) else none
          | none => some 0 } }
  | none => { s with ctl := { s.ctl with seqNo := 0, tableUnit := 1, nextSlot := none } }

/-- `v` is the first data unit from number `n` on that is not RETIRED (R174). -/
def firstToScan (m : UnitMap) (n : Nat) (v : UnitId) : Prop :=
  2 ≤ v.val ∧ n ≤ v.val ∧ (vget m.units v).state ≠ .retired ∧
    ∀ u : UnitId, 2 ≤ u.val → n ≤ u.val → u.val < v.val → (vget m.units u).state = .retired

/-- Every data unit from number `n` on is RETIRED: the scan has no unit left to read (R174). -/
def nothingToScan (m : UnitMap) (n : Nat) : Prop := ∀ u : UnitId, 2 ≤ u.val → n ≤ u.val → (vget m.units u).state = .retired

/-- The stream that owns a unit whose slot 0 reads so (R176). -/
def ownerIn (r0 : ReadResult) : Option StreamId := if r0.cls = .valid ∧ r0.page.tag.slot = 0 then streamOf r0.page.tag.stream else none

/-- Slot `k` counts as a valid page of a unit whose slot 0 is `r0` (R177). -/
def countsAs (r0 r : ReadResult) (k : Nat) : Bool :=
  decide (r.cls = .valid ∧ r.page.tag.stream = r0.page.tag.stream ∧ r.page.tag.slot.toNat = k ∧
    r.page.tag.pageNumber.toNat = r0.page.tag.pageNumber.toNat + k)

/-- The end of a count at a slot that does not count (R177). -/
def endsAs (r : ReadResult) : ScanEnd := if r.cls = .blank then .blankEnd else .badEnd

/-- What a read at a position of the scan settles about its unit, when it is the last read of that unit (R176, R177): DIRTY, FREE, or owned with
its count and its end. -/
def foundBy (pos : ScanPos) (res : ReadResult) : Option (UnitId × ScanResult) :=
  match pos with
  | .slot63 u r0 =>
    if (ownerIn r0).isSome ∨ (r0.cls = .blank ∧ res.cls = .blank) then none else some (u, .dirty u)
  | .count u r0 r63 k run =>
    match ownerIn r0 with
    | none => none
    | some st =>
      let found := fun (n : Nat) (e : ScanEnd) (last : Word) => some (u, ScanResult.owned
        ⟨u, st, r0.page.tag.pageNumber.toNat, r0.page.tag.origin, n, e, r63.cls == .blank, last⟩)
      if countsAs r0 res k then
        if k < 62 then none
        else if countsAs r0 r63 63 then found 64 .full r63.page.tag.runNumber
        else found 63 (endsAs r63) res.page.tag.runNumber
      else found k (endsAs res) run
  | .blank u k => if res.cls ≠ .blank then some (u, .dirty u) else if k < 62 then none else some (u, .free u)
  | .header _ => none
  | .commit _ _ => none
  | .entry _ _ _ _ => none
  | .slot0 _ => none

/-- The unit that a result of the scan is about. -/
def ScanResult.about : ScanResult → UnitId
  | .free u => u
  | .dirty u => u
  | .owned o => o.unit

/-- The owned units among the results of the scan. -/
def ownedIn (l : List ScanResult) : List Owned :=
  l.filterMap (fun x => match x with
    | .owned o => some o
    | .free _ => none
    | .dirty _ => none)

/-- The copy `x` wins the relocation group of `p` (R178): it has at least the count of `p`, and before every other copy the higher count, or the
same count and the lower unit number. -/
def winsGroup (owned : List Owned) (x p : Owned) : Prop :=
  p.count ≤ x.count ∧ ∀ y ∈ owned, isCopyOf y p = true → y = x ∨ y.count < x.count ∨ (y.count = x.count ∧ x.unit < y.unit)

/-- No unit's origins lead in a circle: each copy stands further from the first unit than the unit of which it is a copy. -/
def noCircle (owned : List Owned) : Prop :=
  ∃ depth : UnitId → Nat, ∀ x ∈ owned, ∀ p ∈ owned, isCopyOf x p = true → depth p.unit < depth x.unit

/-- `stays` says of each owned unit whether it is still owned when its own relocation group comes to be settled (R178): it is no copy in a
group, or it wins the group in which it is one. -/
def groupsSettled (owned : List Owned) (stays : UnitId → Prop) : Prop :=
  ∀ x ∈ owned, stays x.unit ↔ ∀ p ∈ owned, isCopyOf x p = true → stays p.unit → winsGroup owned x p

/-- After step 4 the unit takes part in step 5: it is still owned, and it has no copy with as many pages (R178). -/
def groupLeaves (owned : List Owned) (stays : UnitId → Prop) (o : Owned) : Prop :=
  o ∈ owned ∧ stays o.unit ∧ ∀ v ∈ owned, isCopyOf v o = true → v.count < o.count

/-- Step 4 retires the unit: a copy with at least as many pages wins its group (R178). -/
def groupRetires (owned : List Owned) (stays : UnitId → Prop) (o : Owned) : Prop :=
  o ∈ owned ∧ stays o.unit ∧ ∃ v ∈ owned, isCopyOf v o = true ∧ o.count ≤ v.count

/-- The gaps between neighbours of a chain (R180). -/
def gapsIn (l : List Owned) : List Gap :=
  (l.zip l.tail).filterMap (fun ab =>
    if ab.1.first + ab.1.count < ab.2.first then some ⟨ab.1.first + ab.1.count, ab.2.first - (ab.1.first + ab.1.count)⟩ else none)

/-- A stream's units `all` in chain order lose those of `gone` and keep those of `chain` (R51, R180): none leaves a chain with up to 4 gaps, and
otherwise those before the fourth gap from the end leave, so that 3 gaps lie between the units that stay. -/
def chainCut (all gone chain : List Owned) : Prop :=
  all = gone ++ chain ∧
    if (gapsIn all).length ≤ 4 then gone = []
    else (gapsIn chain).length = 3 ∧ (gapsIn gone).length + 4 = (gapsIn all).length

/-- The record of a unit of a chain after mount (the table of R180); `won` says that it won a relocation group, `last` that it is the last unit
of its chain. -/
def mountedUnit (won last : Bool) (o : Owned) (eraseCount : Nat) : UnitRec :=
  let sc : UnitState × Bool :=
    if won then (.frozen, true)
    else if o.count = 64 then (.full, false)
    else if last && o.ending == .blankEnd && o.slot63Blank then (.opened, false)
    else (.full, true)
  ⟨sc.1, eraseCount, some o.stream, some o.first, o.count, o.count, sc.2⟩

/-! ## Invariants -/

/-- The results of the scan are about data units in ascending number, all before the unit that is read next, and an owned unit has at least one
valid page (R174, R177). -/
def State.scanOk (s : State) : Bool :=
  s.ctl.scan.all (fun sc =>
    let before := fun u : UnitId => decide (2 ≤ u.val) && sc.results.all (fun x => decide (x.about < u))
    decide ((sc.results.map ScanResult.about).Pairwise (· < ·)) &&
    sc.results.all (fun x => decide (2 ≤ x.about.val) && (match x with
      | .owned o => decide (1 ≤ o.count)
      | .free _ => true
      | .dirty _ => true)) &&
    (match sc.pos with
    | .header _ => sc.results.isEmpty
    | .commit _ _ => sc.results.isEmpty
    | .entry _ _ _ _ => sc.results.isEmpty
    | .slot0 u => before u
    | .slot63 u _ => before u
    | .count u _ _ k _ => before u && decide (1 ≤ k)
    | .blank u _ => before u))

/-- The outstanding requests are at most four, with distinct tags, none of them 0 (R195). -/
def State.windowOk (s : State) : Bool :=
  decide (s.link.requests.length ≤ 4) && decide ((s.link.requests.map (·.tag)).Nodup) && s.link.requests.all (fun r => r.tag != 0)

/-- The notice backlog holds at most 16 entries, and the overflow flag is set only while it holds 16 (R204, R206). -/
def State.backlogOk (s : State) : Bool :=
  decide (s.notices.backlog.length ≤ 16) && (!s.notices.overflow || s.notices.backlog.length == 16)

/-- A STOPPED timer has 0 ticks left, and a RUNNING one has from 1 to its period (R86, R87, R89). -/
def State.timersOk (s : State) : Bool :=
  allTimers.all (fun t =>
    if (s.timer t).running then decide (1 ≤ (s.timer t).remaining ∧ (s.timer t).remaining ≤ (s.timer t).period)
    else (s.timer t).remaining == 0)

/-- The mount scan is present exactly in MOUNTING, and a shutdown record only in SHUTTING_DOWN, with no outcome yet (R165, R182, R183). -/
def State.deviceOk (s : State) : Bool :=
  (s.ctl.scan.isSome == (s.ctl.device == .mounting)) && (s.ctl.shutdown.isNone || s.ctl.device == .shuttingDown) &&
    s.ctl.shutdown.all (fun x => x.outcome.isNone)

/-- A lane is LISTENING exactly while a stream holds a configuration that names it, and until mount has ended no stream holds a
configuration (R46, R70, R71). -/
def State.bindingOk (s : State) : Bool :=
  allLanes.all (fun l => (s.lane l).listening == isBound s l) &&
    (s.ctl.scan.isNone || allStreams.all (fun st => (s.stream st).config.isNone))

/-- The changes of the device state in one happening, a reset apart (the table of R166), and no change. -/
def deviceMove : DeviceState → DeviceState → Bool
  | .mounting, .mounting => true
  | .mounting, .ready => true
  | .mounting, .worn => true
  | .ready, .ready => true
  | .ready, .worn => true
  | .ready, .shuttingDown => true
  | .worn, .worn => true
  | .worn, .shuttingDown => true
  | .shuttingDown, .shuttingDown => true
  | .shuttingDown, .halted => true
  | .halted, .halted => true
  | _, _ => false

end Sys2Proof.Machine
end

