-- ==== Sys2Proof/Certificates/Slice0/Obligations.lean ====
section
/-!
DEFINITION. The statements about the model that the provers prove. A result is written `exec c s = .next (settle s u)`, where `u` is what
the command's own rule leaves and `settle s u` is what every happening ends with; `EveryHappeningSettles` and `SettlingIsConfined` say
what that end does.
-/
section

open Sys2Proof Sys2Proof.Machine

/-! ## The block as a whole -/

/-- Each command is one indivisible step: the step of the block takes the command at the front of the queue and runs it on the state with
the rest of the queue. That an empty queue leaves the state as it is is the model's choice (assumption 15). -/
def Obligations.StepRunsTheFrontCommand : Prop :=
  (∀ (c : Instr) (rest : List Instr) (s : State), s.pending = c :: rest → step s = exec c { s with pending := rest }) ∧
  ∀ s : State, s.pending = [] → step s = .next s

/-- Every command ends in a next state: none faults and none is refused. It leaves the queue alone. It moves the supply and the RST# pin
only when it is a command of the supply or of RST#, and device time only when it is a tick or a reset (R185, R186). It moves the array only
when it ends a PROGRAM or an ERASE or is a reset (R2, R8, R11, R19). -/
def Obligations.EveryCommandCompletes : Prop :=
  ∀ (c : Instr) (s : State), ∃ t, exec c s = .next t ∧ t.pending = s.pending ∧
    ((∀ straps ext, c ≠ .powerOn straps ext) → c ≠ .powerLoss →
      t.powered = s.powered ∧
      ((∀ straps, c ≠ .rstAssert straps) →
        ((∀ ext, c ≠ .rstRelease ext) → t.rstLow = s.rstLow) ∧
        ((∀ straps ext, c ≠ .replySent straps ext) →
          (c ≠ .deviceTimeTick → t.time = s.time) ∧
          ((∀ pass, c ≠ .programDone pass) → c ≠ .programTimeout → (∀ pass, c ≠ .eraseDone pass) → c ≠ .eraseTimeout →
            t.array = s.array))))

/-- Right after a reset: MOUNTING at the scan's first read (R165), the port IDLE (R6), device time 0 (R186), the map empty (R21), every
stream UNDEFINED (R46, R49), lanes and timers at rest (R70, R86), all buffers in the pool (R92), no relocation (R116), no reads (R138), the
link and the notice unit empty, the mask full and the hold running (R188, R203, R204). -/
def Obligations.ResetLeavesTheStatedValues : Prop :=
  let s := State.reset
  s.ctl.device = .mounting ∧ s.ctl.tableUnit = 1 ∧ s.ctl.nextSlot = none ∧ s.ctl.seqNo = 0 ∧ s.ctl.ckptPending = false ∧
  s.ctl.ckpt = none ∧ s.ctl.waiters = [] ∧ s.ctl.shutdown = none ∧ s.ctl.scan = some Scan.start ∧ Scan.start.pos = .header 0 ∧
  s.engine.op = none ∧ s.engine.readBalance = 0 ∧ s.time = 0 ∧
  s.map.freeList = [] ∧ s.map.dirtyList = [] ∧ s.map.retiredSet = [] ∧ s.map.retiredCount = 0 ∧ s.map.erasesSince = 0 ∧
  (∀ st, s.chain st = [] ∧ s.fillBuf st = none ∧ s.heldBuf st = none ∧ s.stream st = StreamRec.undefined) ∧
  (∀ l, s.lane l = ⟨false, .awaitBoundary, 0, 0, false⟩) ∧ (∀ t, s.timer t = ⟨false, 0, false, 0, 0⟩) ∧
  s.bufs.pool.length = 32 ∧ (∀ b, (s.buf b).place = .pool ∧ (s.buf b).words = []) ∧ s.bufs.queue = [] ∧ s.bufs.waitList = [] ∧
  s.bufs.starvedList = [] ∧ s.bufs.flushWaiters = [] ∧
  s.reloc.current = none ∧ s.reloc.waitList = [] ∧ s.reloc.copyBuffer = none ∧ s.reloc.standAside = false ∧
  s.reads.waitList = [] ∧ (∀ i, s.stagingBuf i = .free) ∧
  s.link.rx = .hunt ∧ s.link.requests = [] ∧ s.link.replies = [] ∧ s.link.refusalBusy = false ∧ s.link.tx = .idle ∧
  s.link.holding = true ∧ s.link.spacing = 0 ∧ s.link.discards = 0 ∧ s.link.faultReported = false ∧ s.link.resetPending = false ∧
  s.notices.pendingSet = 0x0000 ∧ s.notices.mask = 0xFFFF ∧ s.notices.backlog = [] ∧ s.notices.overflow = false

/-- The machine right after a reset meets every invariant of the model. -/
def Obligations.ResetMeetsTheInvariants : Prop :=
  State.reset.array.wf = true ∧ State.reset.windowOk = true ∧ State.reset.backlogOk = true ∧ State.reset.timersOk = true ∧
    State.reset.deviceOk = true ∧ State.reset.bindingOk = true ∧ State.reset.scanOk = true ∧ State.reset.settled = true

/-! ## Resets, the supply and device time -/

/-- POWER_ON, RST_ASSERT with RST# high, RST_RELEASE of a powered device and POWER_LOSS (R185): all RAM goes to its after-reset values, an
operation in progress is cut, the straps are sampled, and the pins' levels are taken where the reset ends (R79). Device time increases by 1 at
each microsecond, wrapping, while the device runs (R186). The model's choices: what RAM holds while the supply is down (assumption 16); that
POWER_ON resets a device that has its supply already, and that RST_ASSERT of an unpowered device moves its pin's level alone (assumption 7);
that a POWER_ON with RST# low leaves the pins' levels to RST_RELEASE (assumption 20). -/
def Obligations.PinAndSupplyResets : Prop :=
  (∀ straps ext (s : State),
    exec (.powerOn straps ext) s =
      .next (afterResetOf straps (if s.rstLow then s.triggers.ext else ext) true s.rstLow s)) ∧
  (∀ straps (s : State), s.rstLow = false →
    exec (.rstAssert straps) s =
      .next (if s.powered then afterResetOf straps s.triggers.ext true true s else { s with rstLow := true })) ∧
  (∀ ext (s : State), s.powered = true → s.rstLow = true →
    exec (.rstRelease ext) s = .next { s with rstLow := false, triggers := { s.triggers with ext := ext } }) ∧
  (∀ s : State, s.powered = true →
    exec .powerLoss s = .next (afterResetOf ⟨false, false⟩ s.triggers.ext false s.rstLow s)) ∧
  ∀ s : State,
    exec .deviceTimeTick s = .next (if s.powered ∧ s.rstLow = false then { s with time := s.time + 1 } else s)

/-- What a reset leaves of the operation it cuts (R19): a READ leaves the array unchanged, a PROGRAM leaves its slot with an INVALID tag and
every other slot unchanged, and an ERASE leaves the slots of every other unit unchanged. -/
def Obligations.CutOperationTouchesItsSlotsOnly : Prop :=
  (∀ s : State, s.engine.op = none → cutOperation s = s) ∧
  ∀ (s : State) (op : Operation), s.engine.op = some op →
    (op.kind = .read → (cutOperation s).array = s.array) ∧
    (op.kind = .program → ∀ k, op.slot = some k →
      classify ((cutOperation s).readSlot op.unit k).tag = .invalid ∧
      ∀ x, x ≠ slotAddr op.unit k → (cutOperation s).array.read x = s.array.read x) ∧
    (op.kind = .erase → ∀ x, x / 64 ≠ op.unit.val → (cutOperation s).array.read x = s.array.read x)

/-! ## The end of a happening and the transmitter -/

/-- After every command: in SHUTTING_DOWN with the drain condition met, no checkpoint in progress and the final one not started,
checkpoint pending is set (R183); an IDLE port with the stand-aside mark set has another block's claim (R121); an IDLE transmitter that is
not held has nothing to send (R199). -/
def Obligations.EveryHappeningSettles : Prop :=
  ∀ (c : Instr) (s t : State), s.settled = true → exec c s = .next t → t.settled = true

/-- The end of a happening that does not enter WORN moves nothing but the transmitter, the stages of the outstanding requests, the notice
backlog with its overflow flag, the stand-aside mark, checkpoint pending and the model's count of free values: the rest of every block, the
replies and the outstanding requests stay as the command's rule left them. -/
def Obligations.SettlingIsConfined : Prop :=
  ∀ a u : State, ¬(a.ctl.device = .ready ∧ u.ctl.device = .worn) →
    (settle a u).core = u.core ∧ (settle a u).link.replies = u.link.replies ∧ (settle a u).link.rx = u.link.rx ∧
    (settle a u).link.requests.map (fun r => (r.tag, r.kind, r.payload)) =
      u.link.requests.map (fun r => (r.tag, r.kind, r.payload))

/-- TX_HOLD_END and NOTICE_FRAME_SENT (R199, R203): 5 ms after the reset ended the hold ends, and a NOTICE frame that has left leaves the
transmitter IDLE; either way the transmitter chooses its next frame by R199. -/
def Obligations.TheTransmitterGoesOn : Prop :=
  (∀ s : State, s.running = true → s.link.holding = true → s.link.tx = .idle → 5000 ≤ s.time.toNat →
    ∃ t, exec .txHoldEnd s = .next t ∧ t.core = State.core { s with link := { s.link with holding := false } } ∧
      t.link.replies = s.link.replies ∧ choosesFrame s t) ∧
  ∀ (s : State) (frame : List Byte), s.running = true → s.link.tx = .sendingNotice frame → s.link.holding = false →
    ∃ t, exec .noticeFrameSent s = .next t ∧ t.core = s.core ∧ t.link.replies = s.link.replies ∧ choosesFrame s t

/-- REPLY_SENT (R198, R199, R202): the reply leaves the queue, its request leaves the table, or the refusal slot becomes FREE, the staging buffer
held for its words becomes FREE, and the transmitter chooses its next frame; the reply to a RESET makes the reset take effect, with the
effects of R185. -/
def Obligations.RepliesDepart : Prop :=
  ∀ (straps : Straps) (ext : BitVec 4) (s : State) (frame : List Byte) (r : Reply) (rest : List Reply),
    s.running = true → s.link.tx = .sendingReply frame → s.link.replies = r :: rest →
    ((∀ tag, r.source ≠ .request tag .reset) → s.link.holding = false →
      ∃ t, exec (.replySent straps ext) s = .next t ∧ t.core = (replyGone r rest s).core ∧ t.link.replies = rest ∧
        t.link.requests.map (·.tag) = (replyGone r rest s).link.requests.map (·.tag) ∧ choosesFrame (replyGone r rest s) t) ∧
    ∀ tag, r.source = .request tag .reset →
      exec (.replySent straps ext) s = .next (afterResetOf straps ext true false s)

/-- The bytes of a NOTICE frame (R206, R212, R214): START, LEN, KIND 0xC0, TAG 0, pending set, overflow, entry count and the backlog's
entries, oldest first; then the CRC-16 of LEN and BODY, high byte first. -/
def Obligations.NoticeFrameBytes : Prop :=
  ∀ n : NoticeUnit, n.backlog.length ≤ 16 →
    let body := noticeBody n
    body.length = 6 + 7 * n.backlog.length ∧ fieldAt body 0 2 = [0xC0, 0x00] ∧ fieldAt body 2 2 = le16 n.pendingSet ∧
    fieldAt body 4 1 = [if n.overflow then 1 else 0] ∧ fieldAt body 5 1 = [BitVec.ofNat 8 n.backlog.length] ∧
    (∀ i e, n.backlog[i]? = some e →
      fieldAt body (6 + 7 * i) 7 = [BitVec.ofNat 8 (noticeBit e.kind)] ++ le16 e.arg ++ le32 e.time) ∧
    ∃ hi lo : Byte, wireFrame body = [0xC3, BitVec.ofNat 8 body.length] ++ body ++ [hi, lo] ∧
      word16 lo hi = crc16 (BitVec.ofNat 8 body.length :: body)

/-! ## The receiver -/

/-- FRAME_DISCARD and INTER_BYTE_TIMEOUT (R191, R192): the receiver returns to HUNT, the link discard count increases by 1, stopping at
65535, and LINK_ERROR is raised with it unless it has been reported. In HUNT the inter-byte timer does not run. -/
def Obligations.DiscardsAreCounted : Prop :=
  (∀ s : State, s.running = true → exec .frameDiscard s = .next (settle s (discarded s))) ∧
  (∀ s : State, s.running = true → s.link.rx ≠ .hunt → 2000 ≤ elapsed s.time s.link.lastByte →
    exec .interByteTimeout s = .next (settle s (discarded s))) ∧
  ∀ s : State, s.running = true → s.link.rx = .hunt → exec .interByteTimeout s = .next (settle s s)

/-- RXD_BYTE by the table of R190, but for the second CRC byte: START, LEN, the body and the first CRC byte, each restarting the inter-byte
timer (R191), and the bytes that are discarded or discard their frame. -/
def Obligations.ReceiverFollowsItsTable : Prop :=
  ∀ (b : Byte) (s : State), s.running = true →
    let goes := fun rx : RxState => { s with link := { s.link with rx := rx, lastByte := s.time } }
    (s.link.rx = .hunt → exec (.rxdByte b true) s = .next (settle s s) ∧
      exec (.rxdByte b false) s = .next (settle s (if b = 0xC3 then goes .length else s))) ∧
    (s.link.rx = .length →
      exec (.rxdByte b false) s =
        .next (settle s (if 2 ≤ b.toNat ∧ b.toNat ≤ 244 then goes (.body b.toNat []) else discarded s))) ∧
    (∀ len got, s.link.rx = .body len got →
      exec (.rxdByte b false) s =
        .next (settle s (goes (if len ≤ got.length + 1 then .crc len (got ++ [b]) none else .body len (got ++ [b]))))) ∧
    (∀ len body, s.link.rx = .crc len body none → exec (.rxdByte b false) s = .next (settle s (goes (.crc len body (some b))))) ∧
    (s.link.rx ≠ .hunt → exec (.rxdByte b true) s = .next (settle s (discarded s)))

/-- The second CRC byte (R190): when the CRC-16 of LEN and the body matches, the frame is the command that its KIND names, in that very
happening; on a mismatch the frame is discarded. -/
def Obligations.LastByteIsTheCommand : Prop :=
  ∀ (s : State) (len : Nat) (kind tag hi lo : Byte) (p : List Byte),
    s.running = true → s.link.rx = .crc len (kind :: tag :: p) (some hi) →
    (word16 lo hi = crc16 (BitVec.ofNat 8 len :: kind :: tag :: p) →
      (∀ k, kind = kindCode k → exec (.rxdByte lo false) s = exec (commandOf k tag p) s) ∧
      (kind ∉ requestKindCodes → exec (.rxdByte lo false) s = exec (.badKindFrame kind tag p) s)) ∧
    (word16 lo hi ≠ crc16 (BitVec.ofNat 8 len :: kind :: tag :: p) →
      exec (.rxdByte lo false) s = .next (settle s (discarded s)))

/-! ## Taking a request -/

/-- Refusals (R193, R194, R196): a frame that fails an early check is answered through the refusal slot with the first failing check's status, or
is dropped and counted as a discard when the slot is occupied; it enters no request table and has no other effect. A request that passes
them and that the device state does not take is answered with MOUNTING, WORN or HALTED, and has no other effect. -/
def Obligations.RefusedFramesAreAnswered : Prop :=
  (∀ (k : ReqKind) (tag : Byte) (p : List Byte) (s : State), s.running = true → passesEarly k tag p s = false →
    exec (commandOf k tag p) s =
      .next (settle s (if s.link.refusalBusy then discarded s else refusedEarly (kindCode k + 0x80) tag (earlyStatus tag s) s))) ∧
  (∀ (kind tag : Byte) (p : List Byte) (s : State), s.running = true → kind ∉ requestKindCodes →
    exec (.badKindFrame kind tag p) s =
      .next (settle s (if s.link.refusalBusy then discarded s else refusedEarly 0xFF tag .badKind s))) ∧
  ∀ (k : ReqKind) (tag : Byte) (p : List Byte) (s : State), s.running = true → passesEarly k tag p s = true →
    takenIn s.ctl.device k = false →
    exec (commandOf k tag p) s = .next (settle s (answered k tag p (stateRefusal s.ctl.device) [] s))
/-- An accepted request is outstanding from the happening that takes it (R195): the request table gains one entry, with its tag, its kind
and its payload. -/
def Obligations.AcceptedRequestIsOutstanding : Prop :=
  ∀ (k : ReqKind) (tag : Byte) (p : List Byte) (s : State), accepted k tag p s = true →
    ∃ t, exec (commandOf k tag p) s = .next t ∧
      t.link.requests.map (fun r => (r.tag, r.kind, r.payload)) =
        s.link.requests.map (fun r => (r.tag, r.kind, r.payload)) ++ [(tag, k, p)]

/-! ## The requests of the link, the notice unit and the controller -/

/-- HELLO (R201): taken in every device state and completed at once with the device's constants; nothing else changes. -/
def Obligations.HelloReportsTheDevice : Prop :=
  ∀ (tag : Byte) (p : List Byte) (s : State), s.running = true → passesEarly .hello tag p s = true →
    exec (.hello tag p) s =
      .next (settle s (answered .hello tag p .ok [0x4D, 0x40, 0x08, 1, 0x00, 0x04, 64, 8, 6, 32, 4] s))

/-- STATUS (R210, R214): taken in every device state; the fields of its 73-byte reply, at their offsets; nothing else changes. -/
def Obligations.StatusReportsEveryBlock : Prop :=
  ∀ (tag : Byte) (p : List Byte) (s : State), s.running = true → passesEarly .status tag p s = true →
    ∃ c, exec (.status tag p) s = .next (settle s (answered .status tag p .ok c s)) ∧
      let b := (replyOf .status tag .ok c).body
      b.length = 73 ∧ fieldAt b 0 3 = [0x82, tag, 0x00] ∧ fieldAt b 3 1 = [deviceCode s.ctl.device] ∧
      fieldAt b 4 1 = [controllerFlags s.ctl.ckptPending s.ctl.ckpt.isSome s.link.resetPending] ∧
      fieldAt b 5 2 = n16 s.map.freeList.length ∧ fieldAt b 7 2 = n16 s.map.dirtyList.length ∧
      fieldAt b 9 2 = n16 s.map.retiredCount ∧ fieldAt b 11 1 = n8 (queueLength s) ∧ fieldAt b 12 1 = n8 s.bufs.pool.length ∧
      fieldAt b 13 2 = le16 s.notices.pendingSet ∧ fieldAt b 15 2 = le16 s.notices.mask ∧ fieldAt b 17 1 = b8 s.notices.overflow ∧
      fieldAt b 18 1 = n8 s.notices.backlog.length ∧ fieldAt b 19 4 = n32 s.ctl.seqNo ∧ fieldAt b 23 2 = n16 s.map.erasesSince ∧
      fieldAt b 25 2 = n16 s.link.discards ∧
      (∀ l : LaneId, fieldAt b (27 + 7 * l.val) 7 =
        b8 (s.lane l).listening ++ le32 (s.lane l).goodWords ++ n16 (s.lane l).parityErrors) ∧
      fieldAt b 69 4 = le32 s.time

/-- RESET (R202) is completed OK and sets reset pending; CHECKPOINT (R173) sets checkpoint pending and joins the waiters, not covered. -/
def Obligations.ResetAndCheckpointAreTaken : Prop :=
  (∀ (tag : Byte) (p : List Byte) (s : State), s.running = true → passesEarly .reset tag p s = true →
    exec (.reset tag p) s =
      .next (settle s (answered .reset tag p .ok [] { s with link := { s.link with resetPending := true } }))) ∧
  ∀ (tag : Byte) (p : List Byte) (s : State), accepted .checkpoint tag p s = true →
    exec (.checkpoint tag p) s =
      .next (settle s (waiting .checkpoint tag p
        { s with ctl := { s.ctl with ckptPending := true, waiters := s.ctl.waiters ++ [⟨tag, false⟩] } }))

/-- SHUTDOWN (R182): SHUTTING_DOWN with the request in the shutdown record, every CAPTURING stream's run ended with cause SHUTDOWN, every
ARMED stream BOUND, and checkpoint pending set. No page stays held (R107): a page held before, and a page that a run end seals and cannot
place, is discarded, its stream's end page set back to its number, with PAGE_LOST. The request waits: the replies formed are replies to
FLUSH. -/
def Obligations.ShutdownIsTaken : Prop :=
  ∀ (tag : Byte) (p : List Byte) (s : State), accepted .shutdown tag p s = true →
    ∃ t, exec (.shutdown tag p) s = .next t ∧ t.ctl.device = .shuttingDown ∧ t.ctl.shutdown = some ⟨tag, false, none⟩ ∧
      t.ctl.ckptPending = true ∧ t.ctl.ckpt = s.ctl.ckpt ∧ t.ctl.waiters = s.ctl.waiters ∧ t.ctl.seqNo = s.ctl.seqNo ∧
      t.bufs.starvedList = [] ∧
      (∀ st, (s.stream st).state = .capturing →
        (t.stream st).state = .bound ∧ (t.stream st).endCause = some .shutdown) ∧
      (∀ st, (s.stream st).state = .armed → (t.stream st).state = .bound ∧ (t.stream st).endCause = (s.stream st).endCause) ∧
      (∀ st, (s.stream st).state ≠ .capturing → (s.stream st).state ≠ .armed →
        (t.stream st).state = (s.stream st).state ∧ (t.stream st).endCause = (s.stream st).endCause) ∧
      (∀ st b i, holdsAlone st b i s → pageDiscarded st b i.pageNumber ((s.stream st).inFlight - 1) s t) ∧
      (∀ st b, sealsToHeld st b s → pageDiscarded st b (s.stream st).endPage (s.stream st).inFlight s t) ∧
      (∃ l, t.link.replies = s.link.replies ++ l ∧ ∀ x ∈ l, ∃ flushTag, x.source = .request flushTag .flush) ∧
      t.engine = s.engine ∧ t.lanes = s.lanes ∧ t.triggers = s.triggers ∧ t.reads = s.reads ∧ t.map.dirtyList = s.map.dirtyList ∧
      t.bufs.heldAtWorn = s.bufs.heldAtWorn

/-- SET NOTICE MASK (R207): the mask is replaced, and the reply carries the previous and the new mask; nothing else changes. -/
def Obligations.NoticeMaskIsReplaced : Prop :=
  ∀ (tag : Byte) (p : List Byte) (s : State), accepted .setNoticeMask tag p s = true →
    exec (.setNoticeMask tag p) s =
      .next (settle s (answered .setNoticeMask tag p .ok (le16 s.notices.mask ++ le16 (field16 p 2))
        { s with notices := { s.notices with mask := field16 p 2 } }))

/-- ACK NOTICE (R209): the pending bits named are cleared; LANE_FAULT (bit 10) clears all six lane-fault-reported flags and LINK_ERROR (bit
15) the link-fault-reported flag; the reply carries the pending set that remains; nothing else changes. -/
def Obligations.NoticesAreAcknowledged : Prop :=
  ∀ (tag : Byte) (p : List Byte) (s : State), accepted .ackNotice tag p s = true →
    let set := field16 p 2
    let left := s.notices.pendingSet &&& ~~~set
    exec (.ackNotice tag p) s =
      .next (settle s (answered .ackNotice tag p .ok (le16 left)
        { s with
          notices := { s.notices with pendingSet := left }
          lanes := if set.getLsbD 10 then s.lanes.map (fun l => { l with faultReported := false }) else s.lanes
          link := if set.getLsbD 15 then { s.link with faultReported := false } else s.link }))

/-- A raise (R205): the pending bit is set; with the mask bit clear nothing more; with it set an entry joins the backlog while it holds
fewer than 16, and otherwise the overflow flag is set. Nothing else in the device changes. -/
def Obligations.RaiseEntersTheBacklog : Prop :=
  ∀ (k : NoticeKind) (arg : Nat) (s : State),
    let n := s.notices
    raise k arg s = { s with notices := { n with
      pendingSet := n.pendingSet ||| (1#16 <<< noticeBit k)
      backlog := if n.mask.getLsbD (noticeBit k) = true ∧ n.backlog.length < 16 then
        n.backlog ++ [⟨k, BitVec.ofNat 16 arg, s.time⟩] else n.backlog
      overflow := if n.mask.getLsbD (noticeBit k) = true ∧ 16 ≤ n.backlog.length then true else n.overflow } }

/-! ## Requests that report -/

/-- STREAM INFO (R69, R214): BAD_PARAM for a stream above 7, and otherwise the stream's record, field by field at its offset in the 83-byte
reply; nothing else changes. That bits 4 to 7 of the flags byte are 0 is the model's choice (assumption 38). -/
def Obligations.StreamInfoReportsTheRecord : Prop :=
  ∀ (tag : Byte) (p : List Byte) (s : State), accepted .streamInfo tag p s = true →
    (streamOf (field8 p 2) = none → exec (.streamInfo tag p) s = .next (settle s (answered .streamInfo tag p .badParam [] s))) ∧
    ∀ st, streamOf (field8 p 2) = some st →
      ∃ c, exec (.streamInfo tag p) s = .next (settle s (answered .streamInfo tag p .ok c s)) ∧
        let r := s.stream st
        let b := (replyOf .streamInfo tag .ok c).body
        b.length = 83 ∧ fieldAt b 0 3 = [0x96, tag, 0x00] ∧ fieldAt b 3 1 = n8 st.val ∧ fieldAt b 4 1 = [streamStateCode r.state] ∧
        (r.config = none → fieldAt b 5 2 = [0xFF, 0xFF] ∧ fieldAt b 7 4 = [0, 0, 0, 0] ∧ fieldAt b 11 2 = [0, 0] ∧
          fieldAt b 13 3 = [0xFF, 0xFF, 0xFF] ∧ fieldAt b 16 3 = [0, 0, 0]) ∧
        (∀ cfg, r.config = some cfg →
          fieldAt b 5 1 = n8 cfg.lane.val ∧ fieldAt b 6 1 = [modeCode cfg.mode] ∧ fieldAt b 7 4 = n32 (cfg.count.getD 0) ∧
          fieldAt b 11 2 = n16 cfg.skip ∧ fieldAt b 13 1 = [sourceCode cfg.start] ∧
          fieldAt b 14 1 = [(cfg.stop.map sourceCode).getD 0xFF] ∧
          fieldAt b 15 1 = [(cfg.peer.map (fun x => BitVec.ofNat 8 x.val)).getD 0xFF] ∧
          fieldAt b 16 2 = le16 (cfg.threshold.getD 0) ∧ fieldAt b 18 1 = b8 cfg.rearm) ∧
        fieldAt b 19 2 = le16 r.runNumber ∧ fieldAt b 21 4 = n32 r.keptWords ∧ fieldAt b 25 1 = n8 r.skipCounter ∧
        fieldAt b 26 4 = n32 r.basePage ∧ fieldAt b 30 4 = n32 r.endPage ∧ fieldAt b 34 1 = n8 r.gaps.length ∧
        (∀ n : Fin 4, fieldAt b (35 + 8 * n.val) 8 = (match r.gaps[n.val]? with
          | some g => n32 g.first ++ n32 g.count
          | none => [0, 0, 0, 0, 0, 0, 0, 0])) ∧
        fieldAt b 67 1 = n8 r.inFlight ∧
        fieldAt b 68 1 = n8 (match s.fillBuf st with
          | some x => (s.buf x).words.length
          | none => 0) ∧
        fieldAt b 69 2 = n16 (s.chain st).length ∧ fieldAt b 71 2 = n16 r.droppedInRun ∧ fieldAt b 73 4 = n32 r.droppedTotal ∧
        fieldAt b 77 4 = n32 r.lostTotal ∧
        fieldAt b 81 1 = n8 (r.overrun.toNat + 2 * r.starved.toNat + 4 * r.relocating.toNat + 8 * r.runStartPending.toNat) ∧
        fieldAt b 82 1 = [endCauseCode r.endCause]

/-- UNIT INFO and MAP SUMMARY (R44, R45): the unit's record with its relocation role and its list position; the counts of the map, the heads of
its lists, the lowest and the highest erase count of the data units not RETIRED, and the chain lengths. Neither changes the map. With every
data unit RETIRED the two erase counts are free values (assumption 3). -/
def Obligations.MapRequestsReportTheMap : Prop :=
  (∀ (tag : Byte) (p : List Byte) (s : State), accepted .unitInfo tag p s = true →
    (unitOf (field16 p 2) = none → exec (.unitInfo tag p) s = .next (settle s (answered .unitInfo tag p .badParam [] s))) ∧
    ∀ u, unitOf (field16 p 2) = some u →
      let r := s.unit u
      ∃ (role : Byte) (pos : Word),
        exec (.unitInfo tag p) s = .next (settle s (answered .unitInfo tag p .ok
          (n16 u.val ++ [unitStateCode r.state] ++ n16 r.eraseCount ++ [(r.owner.map (fun st => BitVec.ofNat 8 st.val)).getD 0xFF] ++
            n32 (r.firstPage.getD 0) ++ n8 r.assigned ++ n8 r.programmed ++ b8 r.closed ++ [role] ++ le16 pos) s)) ∧
        (∀ x, s.reloc.current = some x → x.source = u → role = 1) ∧
        ((∀ x, s.reloc.current = some x → x.source ≠ u) → (∃ w ∈ s.reloc.waitList, w.source = u) → role = 2) ∧
        (∀ x, s.reloc.current = some x → x.source ≠ u → (∀ w ∈ s.reloc.waitList, w.source ≠ u) → x.target = some u → role = 3) ∧
        ((∀ x, s.reloc.current = some x → x.source ≠ u ∧ x.target ≠ some u) → (∀ w ∈ s.reloc.waitList, w.source ≠ u) → role = 0) ∧
        (∀ i, s.map.freeList.idxOf? u = some i → pos = BitVec.ofNat 16 i) ∧
        (u ∉ s.map.freeList → ∀ i, s.map.dirtyList.idxOf? u = some i → pos = BitVec.ofNat 16 i) ∧
        (u ∉ s.map.freeList → u ∉ s.map.dirtyList → pos = 0xFFFF)) ∧
  ∀ (tag : Byte) (p : List Byte) (s : State), accepted .mapSummary tag p s = true →
    let count := fun st : UnitState => s.map.units.toList.countP (fun r => r.state == st)
    let head := fun l : List UnitId => match l with
      | [] => le16 0xFFFF
      | u :: _ => n16 u.val
    let live := fun u : UnitId => 2 ≤ u.val ∧ (s.unit u).state ≠ .retired
    ∃ lo hi n : Nat,
      exec (.mapSummary tag p) s = .next (settle s (answered .mapSummary tag p .ok
        (n16 s.map.freeList.length ++ n16 (count .opened) ++ n16 (count .full) ++ n16 (count .frozen) ++ n16 s.map.dirtyList.length ++
          n16 (count .erasing) ++ n16 (count .target) ++ head s.map.freeList ++
          n16 (match s.map.freeList with
            | [] => 0
            | u :: _ => (s.unit u).eraseCount) ++
          head s.map.dirtyList ++ n16 lo ++ n16 hi ++ allStreams.flatMap (fun st => n16 (s.chain st).length) ++
          n16 s.map.retiredCount ++ n16 s.map.erasesSince)
        { s with freeUsed := n })) ∧
      (∀ u, live u → lo ≤ (s.unit u).eraseCount ∧ (s.unit u).eraseCount ≤ hi) ∧
      ((∃ u, live u) → n = s.freeUsed ∧ (∃ u, live u ∧ (s.unit u).eraseCount = lo) ∧ ∃ u, live u ∧ (s.unit u).eraseCount = hi)

/-! ## Defining, arming and stopping streams -/

/-- DEFINE STREAM's parameters (R64): any line of the table refuses it with BAD_PARAM and no effect. One that passes and that the stream's
state allows records each field; the count outside COUNT mode, the peer without start source PEER and the threshold without start source
LEVEL are not recorded, whatever their fields hold. -/
def Obligations.DefineParametersAreChecked : Prop :=
  ∀ (tag : Byte) (p : List Byte) (s : State), accepted .defineStream tag p s = true →
    (badDefine p = true → exec (.defineStream tag p) s = .next (settle s (answered .defineStream tag p .badParam [] s))) ∧
    (badDefine p = false → ∃ st c, (field8 p 2).toNat = st.val ∧
      ((s.stream st).state ≠ .armed → (s.stream st).state ≠ .capturing → (s.stream st).state ≠ .faulted →
        ∃ t, exec (.defineStream tag p) s = .next t ∧ (t.stream st).config = some c) ∧
      c.lane.val = (field8 p 3).toNat ∧ modeCode c.mode = field8 p 4 ∧
      c.count = (if field8 p 4 = 1 then some (field32 p 5).toNat else none) ∧ c.skip = (field16 p 9).toNat ∧
      sourceCode c.start = field8 p 11 ∧ (c.stop.map sourceCode).getD 0xFF = field8 p 12 ∧
      c.peer.map (fun x => x.val) = (if field8 p 11 = 14 then some (field8 p 13).toNat else none) ∧
      c.threshold = (if field8 p 11 = 13 then some (field16 p 14) else none) ∧ c.rearm = (field8 p 16 == 1))

/-- DEFINE STREAM's effect (R65, R71): WRONG_STATE in ARMED, CAPTURING and FAULTED; otherwise the stream is BOUND with the new configuration, its
kept-words count and skip counter 0 and run-start pending clear, the lanes listen by the new bindings, and the reply carries the stream, its
state, its end page and its run number. Every other field of the record and the rest of the device stay. -/
def Obligations.DefineBindsTheStream : Prop :=
  ∀ (tag : Byte) (p : List Byte) (s : State) (st : StreamId), accepted .defineStream tag p s = true → badDefine p = false →
    streamOf (field8 p 2) = some st →
    let r := s.stream st
    (r.state = .armed ∨ r.state = .capturing ∨ r.state = .faulted →
      exec (.defineStream tag p) s = .next (settle s (answered .defineStream tag p .wrongState [] s))) ∧
    (r.state = .undefined ∨ r.state = .dormant ∨ r.state = .bound →
      ∃ c : StreamConfig,
        let streams := vset s.streams st
          { r with state := .bound, config := some c, keptWords := 0, skipCounter := 0, runStartPending := false }
        exec (.defineStream tag p) s = .next (settle s (answered .defineStream tag p .ok
          (n8 st.val ++ [2] ++ n32 r.endPage ++ le16 r.runNumber)
          { s with streams := streams, lanes := listenTo streams s.lanes })))

/-- A run start (R54, R83): the stream is CAPTURING with its run number one higher, its counts 0 and run-start pending set, RUN_START is raised,
and it takes a buffer of the pool as its fill buffer, or joins the wait list as OVERRUN, or, STARVED, neither. Each ARMED PEER follower of it
that may start is started; every other stream, the map, the queue, the held pages and the rest of the device stay. That the buffer is the
pool's head is the model's choice (assumption 21); R94 says only that the stream takes one. -/
def Obligations.RunsStartWithTheirFollowers : Prop :=
  ∀ (barred : List StreamId) (st : StreamId) (s : State),
    let t := startRun barred st s
    let r := s.stream st
    sameRun (startedRun r) (t.stream st) ∧
    (t.stream st).overrun = (if r.starved = false ∧ s.bufs.pool = [] then true else r.overrun) ∧
    t.notices.pendingSet.getLsbD 1 = true ∧
    (r.starved = false → ∀ b rest, s.bufs.pool = b :: rest → t.fillBuf st = some b) ∧
    (r.starved = false → s.bufs.pool = [] → s.bufs.waitList ++ [st] <+: t.bufs.waitList ∧ t.fillBuf st = s.fillBuf st) ∧
    (r.starved = true → t.fillBuf st = s.fillBuf st) ∧
    (∀ f, f ≠ st → isPeerArmed (s.stream f) = true → (s.stream f).config.bind (·.peer) = some st → f ∉ barred →
      sameRun (startedRun (s.stream f)) (t.stream f)) ∧
    (∀ f, f ≠ st → isPeerArmed (s.stream f) = false ∨ f ∈ barred → t.stream f = s.stream f) ∧
    t.outside = s.outside ∧ t.map = s.map ∧ t.link = s.link ∧ t.bufs.queue = s.bufs.queue ∧ t.bufs.held = s.bufs.held ∧
    t.bufs.starvedList = s.bufs.starvedList ∧ t.bufs.flushWaiters = s.bufs.flushWaiters

/-- A run end with a cause other than FAULT (R52, R56, R57): the cause is recorded, a fill buffer with a word is sealed and counted in flight
(in a stream that has exhausted its numbering its words are discarded instead, which is the model's choice, assumption 18), RUN_END is raised, and the stream takes the state of R57, or starts its next run at once where R57 says so. Without a restart it leaves the buffer
wait list and OVERRUN, and no other stream changes but for an OVERRUN that a freed buffer ends. -/
def Obligations.RunsEndByTheirCause : Prop :=
  ∀ (barred : List StreamId) (st : StreamId) (cause : EndCause) (s : State), cause ≠ .fault →
    let t := endRun barred st cause s
    let r := s.stream st
    (t.stream st).endCause = some cause ∧
    (t.stream st).state = (if restarts cause r then .capturing else stateAfter cause r) ∧
    (t.stream st).runNumber = r.runNumber + (if restarts cause r then 1 else 0) ∧
    t.notices.pendingSet.getLsbD 2 = true ∧ (t.stream st).config = r.config ∧ (t.stream st).basePage = r.basePage ∧
    (∀ b, s.fillBuf st = some b → (s.buf b).words ≠ [] → r.endPage < 0xFFFFFFFF →
      (t.stream st).endPage = r.endPage + 1 ∧ (t.stream st).inFlight = r.inFlight + 1) ∧
    ((s.fillBuf st = none ∨ (∃ b, s.fillBuf st = some b ∧ (s.buf b).words = []) ∨ r.endPage = 0xFFFFFFFF) →
      (t.stream st).endPage = r.endPage ∧ (t.stream st).inFlight = r.inFlight ∧ (t.stream st).starved = r.starved) ∧
    (restarts cause r = false →
      (t.stream st).overrun = false ∧ st ∉ t.bufs.waitList ∧ ∀ f, f ≠ st → sameRun (s.stream f) (t.stream f)) ∧
    t.outside = s.outside

/-- The seal of a stream's fill buffer (R52, R99 to R101, R104): the page takes the end page, 0 to 0xFFFFFFFE, as its number and its tag fields
from the stream, the end page rises, and the page is queued in the accepting unit's next slot, or in slot 0 of a new unit from the head of the
free list while more than 24 units are free, or is held with the stream STARVED. At end page 0xFFFFFFFF no number is left to assign, and that
the words are then discarded and the buffer freed is the model's choice (assumption 18), and so is that a freed buffer goes to the tail of the
pool (assumption 21). -/
def Obligations.SealsPlaceOrHoldThePage : Prop :=
  ∀ (st : StreamId) (b : BufId) (s : State),
    let t := sealFill st b s
    let r := s.stream st
    let pb := s.buf b
    let x := r.endPage
    (x = 0xFFFFFFFF → t.outside = s.outside ∧ (∀ f, sameRun (s.stream f) (t.stream f)) ∧ t.map = s.map ∧
      t.bufs.queue = s.bufs.queue ∧ t.bufs.held = s.bufs.held ∧ t.link = s.link ∧ t.notices = s.notices ∧
      (s.bufs.waitList = [] → t.fillBuf st = none ∧ t.bufs.pool = s.bufs.pool ++ [b] ∧ t.buf b = PageBuf.empty)) ∧
    (x < 0xFFFFFFFF → (t.stream st).endPage = x + 1 ∧ (t.stream st).runStartPending = false ∧ (t.stream st).droppedInRun = 0 ∧
    (t.stream st).inFlight = r.inFlight + 1 ∧ t.fillBuf st = none ∧ (∀ f, f ≠ st → t.stream f = s.stream f) ∧ t.outside = s.outside ∧
    (t.buf b).sealed =
      some ⟨x, r.runNumber, r.runStartPending, decide (r.droppedInRun ≠ 0), r.droppedInRun, pb.words.length⟩ ∧
    (t.buf b).words = pb.words ++ List.replicate (256 - pb.words.length) 0xFFFF ∧
    (∀ u, (s.chain st).getLast? = some u → (s.unit u).assigned < 64 →
      ((s.unit u).state = .opened ∨ ((s.unit u).state = .frozen ∧ (s.unit u).closed = false)) →
      (t.buf b).place = .queued ∧ t.bufs.queue = s.bufs.queue ++ [⟨b, st, u, (s.unit u).assigned, x⟩] ∧
      t.unit u = { s.unit u with
        assigned := (s.unit u).assigned + 1
        state := if (s.unit u).assigned = 63 ∧ (s.unit u).state = .opened then .full else (s.unit u).state } ∧
      (∀ v, v ≠ u → t.unit v = s.unit v) ∧ t.map.freeList = s.map.freeList ∧ t.map.chains = s.map.chains ∧
      (t.stream st).starved = r.starved) ∧
    ((∀ u, (s.chain st).getLast? = some u → ¬(((s.unit u).state = .opened ∨
        ((s.unit u).state = .frozen ∧ (s.unit u).closed = false)) ∧ (s.unit u).assigned < 64)) →
      (∀ u rest, s.map.freeList = u :: rest → 24 < (u :: rest).length →
        (t.buf b).place = .queued ∧ t.bufs.queue = s.bufs.queue ++ [⟨b, st, u, 0, x⟩] ∧ t.map.freeList = rest ∧
        t.chain st = s.chain st ++ [u] ∧ t.unit u = ⟨.opened, (s.unit u).eraseCount, some st, some x, 1, 0, false⟩ ∧
        (∀ v, v ≠ u → t.unit v = s.unit v) ∧ (rest.length = 24 → t.notices.pendingSet.getLsbD 8 = true) ∧
        (t.stream st).starved = r.starved) ∧
      (s.map.freeList.length ≤ 24 →
        (t.buf b).place = .held st ∧ t.heldBuf st = some b ∧ (t.stream st).starved = true ∧
        t.bufs.starvedList = s.bufs.starvedList ++ [st] ∧ t.bufs.queue = s.bufs.queue ∧ t.map = s.map ∧
        t.notices.pendingSet.getLsbD 4 = true ∧ ∀ w ∈ t.bufs.flushWaiters, w.stream ≠ st)))

/-- ARM (R66): BAD_PARAM above stream 7, WRONG_STATE unless BOUND, NO_SPACE when the end page is 0xFFFFFFFF; otherwise the stream becomes ARMED,
and with start source IMMEDIATE, or in GATE mode with its pin's level active, its run starts at once. The reply carries the state and the
run number after the happening. -/
def Obligations.ArmWaitsOrStarts : Prop :=
  ∀ (tag : Byte) (p : List Byte) (s : State), accepted .arm tag p s = true →
    (streamOf (field8 p 2) = none → exec (.arm tag p) s = .next (settle s (answered .arm tag p .badParam [] s))) ∧
    ∀ st, streamOf (field8 p 2) = some st →
      let r := s.stream st
      let starts := r.config.any (fun c => c.start == .immediate || (c.mode == .gate && (match c.start with
        | .ext pin high => s.triggers.ext.getLsbD pin.val == high
        | _ => false)))
      (r.state ≠ .bound → exec (.arm tag p) s = .next (settle s (answered .arm tag p .wrongState [] s))) ∧
      (r.state = .bound → r.endPage = 0xFFFFFFFF → exec (.arm tag p) s = .next (settle s (answered .arm tag p .noSpace [] s))) ∧
      (r.state = .bound → r.endPage ≠ 0xFFFFFFFF → starts = false →
        exec (.arm tag p) s = .next (settle s (answered .arm tag p .ok ([3] ++ le16 r.runNumber)
          { s with streams := vset s.streams st { r with state := .armed } }))) ∧
      (r.state = .bound → r.endPage ≠ 0xFFFFFFFF → starts = true →
        ∃ t, exec (.arm tag p) s = .next t ∧ sameRun (startedRun r) (t.stream st) ∧
          t.link.replies = s.link.replies ++ [replyOf .arm tag .ok ([4] ++ le16 (r.runNumber + 1))] ∧
          (∀ f, f ≠ st → t.stream f = s.stream f ∨
            (isPeerArmed (s.stream f) = true ∧ sameRun (startedRun (s.stream f)) (t.stream f))) ∧
          t.outside = s.outside ∧ t.map = s.map ∧ t.bufs.queue = s.bufs.queue)

/-- STOP by the stream's state (R67): a run ends with cause STOP and the stream is BOUND whatever its rearm flag; an ARMED stream becomes BOUND; in
every other state nothing changes. The reply carries the state after, whether a run ended, and the run number. -/
def Obligations.StopEndsTheRun : Prop :=
  ∀ (tag : Byte) (p : List Byte) (s : State), accepted .stop tag p s = true →
    (streamOf (field8 p 2) = none → exec (.stop tag p) s = .next (settle s (answered .stop tag p .badParam [] s))) ∧
    ∀ st, streamOf (field8 p 2) = some st →
      let r := s.stream st
      (r.state = .capturing →
        ∃ t l, exec (.stop tag p) s = .next t ∧ (t.stream st).state = .bound ∧ (t.stream st).endCause = some .stop ∧
          (t.stream st).runNumber = r.runNumber ∧ (t.stream st).overrun = false ∧
          t.link.replies = s.link.replies ++ l ++ [replyOf .stop tag .ok ([2, 1] ++ le16 r.runNumber)] ∧
          (∀ f, f ≠ st → sameRun (s.stream f) (t.stream f)) ∧ t.outside = s.outside) ∧
      (r.state = .armed →
        exec (.stop tag p) s = .next (settle s (answered .stop tag p .ok ([2, 0] ++ le16 r.runNumber)
          { s with streams := vset s.streams st { r with state := .bound } }))) ∧
      (r.state ≠ .capturing → r.state ≠ .armed →
        exec (.stop tag p) s = .next (settle s (answered .stop tag p .ok ([streamStateCode r.state, 0] ++ le16 r.runNumber) s)))

/-- FLUSH (R52, R113): a STARVED stream is answered NO_SPACE at once. A fill buffer with a word is sealed; NO_SPACE when that starved the stream.
With no page in flight OK, and otherwise the FLUSH waits. The reply carries the stream, its state, whether a page was sealed, and its end
page. For a BOUND stream whose run WORN entry ended and whose held page it discarded, R137 says NO_SPACE, and R113 and R136 say OK or a wait:
which of the two is a free value, the model's choice (assumption 34). Its choices too: that a FLUSH whose own seal ends the run reports the
state that the run end leaves (assumption 33); that a stream which has exhausted its numbering seals nothing and ends its run with its words
discarded (assumption 18). -/
def Obligations.FlushSealsAndWaits : Prop :=
  ∀ (tag : Byte) (p : List Byte) (s : State), accepted .flush tag p s = true →
    (streamOf (field8 p 2) = none → exec (.flush tag p) s = .next (settle s (answered .flush tag p .badParam [] s))) ∧
    ∀ st, streamOf (field8 p 2) = some st →
      let r := s.stream st
      let plain := n8 st.val ++ [streamStateCode r.state, 0] ++ n32 r.endPage
      let noted := st ∈ s.bufs.heldAtWorn ∧ r.endCause = some .worn ∧ r.state = .bound
      let placed := fun u : State => if r.inFlight = 0 then answered .flush tag p .ok plain u
        else waiting .flush tag p { u with bufs := { u.bufs with flushWaiters := u.bufs.flushWaiters ++ [⟨tag, st, false⟩] } }
      (r.starved = true → exec (.flush tag p) s = .next (settle s (answered .flush tag p .noSpace plain s))) ∧
      (r.starved = false → (∀ b, s.fillBuf st = some b → (s.buf b).words = []) →
        (¬noted → exec (.flush tag p) s = .next (settle s (placed s))) ∧
        (noted → let drawn := { s with freeUsed := s.freeUsed + 1 }
          exec (.flush tag p) s = .next (settle s (answered .flush tag p .noSpace plain drawn)) ∨
          exec (.flush tag p) s = .next (settle s (placed drawn)))) ∧
      (∀ b, r.starved = false → s.fillBuf st = some b → (s.buf b).words ≠ [] → r.endPage = 0xFFFFFFFF →
        ∃ t, exec (.flush tag p) s = .next t ∧ (t.stream st).endPage = 0xFFFFFFFF ∧ (t.stream st).inFlight = r.inFlight ∧
          (t.stream st).state = .bound ∧ (t.stream st).endCause = some .limit ∧ t.outside = s.outside ∧
          (0 < r.inFlight → t.bufs.flushWaiters = s.bufs.flushWaiters ++ [⟨tag, st, false⟩]) ∧
          (r.inFlight = 0 → t.link.replies = s.link.replies ++
            [replyOf .flush tag .ok (n8 st.val ++ [2, 0] ++ n32 0xFFFFFFFF)])) ∧
      (∀ b, r.starved = false → s.fillBuf st = some b → (s.buf b).words ≠ [] → r.endPage < 0xFFFFFFFF →
        ∃ t, exec (.flush tag p) s = .next t ∧ (t.stream st).endPage = r.endPage + 1 ∧
          (t.stream st).inFlight = r.inFlight + 1 ∧ t.outside = s.outside ∧
          (t.stream st).state = (if r.endPage + 1 = 0xFFFFFFFF then .bound else r.state) ∧
          (∀ f, f ≠ st → sameRun (s.stream f) (t.stream f)) ∧
          ((t.stream st).starved = false → t.bufs.flushWaiters = s.bufs.flushWaiters ++ [⟨tag, st, true⟩] ∧ t.link.replies = s.link.replies) ∧
          ((t.stream st).starved = true → ∃ l, t.link.replies = s.link.replies ++ l ++ [replyOf .flush tag .noSpace
            (n8 st.val ++ [streamStateCode (t.stream st).state, 1] ++ n32 (t.stream st).endPage)]))

/-- UNBIND (R68, R49, R147): WRONG_STATE in ARMED and CAPTURING, no effect in DORMANT and UNDEFINED; a BOUND or FAULTED stream loses its
configuration and is DORMANT while it holds data, and otherwise UNDEFINED with the values of R49, its waiting reads answered NO_DATA. The
lanes listen by the bindings that remain. -/
def Obligations.UnbindRemovesTheConfiguration : Prop :=
  ∀ (tag : Byte) (p : List Byte) (s : State), accepted .unbind tag p s = true →
    (streamOf (field8 p 2) = none → exec (.unbind tag p) s = .next (settle s (answered .unbind tag p .badParam [] s))) ∧
    ∀ st, streamOf (field8 p 2) = some st →
      let r := s.stream st
      (r.state = .armed ∨ r.state = .capturing →
        exec (.unbind tag p) s = .next (settle s (answered .unbind tag p .wrongState [] s))) ∧
      (r.state = .dormant ∨ r.state = .undefined →
        exec (.unbind tag p) s = .next (settle s (answered .unbind tag p .ok [streamStateCode r.state] s))) ∧
      (r.state = .bound ∨ r.state = .faulted → s.chain st ≠ [] ∨ 0 < r.inFlight →
        let streams := vset s.streams st { r with state := .dormant, config := none }
        exec (.unbind tag p) s = .next (settle s (answered .unbind tag p .ok [1]
          { s with streams := streams, lanes := listenTo streams s.lanes }))) ∧
      (r.state = .bound ∨ r.state = .faulted → s.chain st = [] → r.inFlight = 0 →
        let streams := vset s.streams st StreamRec.undefined
        ∃ t, exec (.unbind tag p) s = .next t ∧
          t.core = State.core { s with
            streams := streams
            lanes := listenTo streams s.lanes
            reads := { s.reads with waitList := s.reads.waitList.filter (fun q => q.stream ≠ st) } } ∧
          t.link.replies = s.link.replies ++
            (s.reads.waitList.filter (fun q => q.stream = st)).map
              (fun q => replyOf .read q.tag .noData (n8 st.val ++ n32 q.pageNumber)) ++
            [replyOf .unbind tag .ok [0]])

/-- TIMER (R89, R90): BAD_PARAM by its checks; START sets period and mode, reloads the remaining ticks and runs from this happening, in whatever
state the timer is; STOP stops a RUNNING timer and keeps its period and mode. The reply carries the timer before and after. Where the
payload holds action, period and mode (offsets 3, 4 and 6) is the model's inference (assumption 17), since R213 does not lay TIMER out. -/
def Obligations.TimersStartAndStop : Prop :=
  (∀ (tag : Byte) (p : List Byte) (s : State), accepted .timer tag p s = true →
    2 < (field8 p 2).toNat ∨ 1 < (field8 p 3).toNat ∨ (field8 p 3 = 0 ∧ (field16 p 4 = 0 ∨ 1 < (field8 p 6).toNat)) →
    exec (commandOf .timer tag p) s = .next (settle s (answered .timer tag p .badParam [] s))) ∧
  ∀ (tag : Byte) (p : List Byte) (s : State) (t : TimerId), accepted .timer tag p s = true → (field8 p 2).toNat = t.val →
    let r := s.timer t
    let set := fun x : Timer => { s with triggers := { s.triggers with timers := vset s.triggers.timers t x } }
    (field8 p 3 = 0 → field16 p 4 ≠ 0 → (field8 p 6).toNat ≤ 1 →
      exec (.timerStart tag p) s = .next (settle s (answered .timer tag p .ok
        (n8 t.val ++ b8 r.running ++ [1] ++ le16 (field16 p 4) ++ [field8 p 6] ++ le16 (field16 p 4))
        (set ⟨true, (field16 p 4).toNat, field8 p 6 == 1, (field16 p 4).toNat, s.time⟩)))) ∧
    (field8 p 3 = 1 → r.running = true →
      exec (.timerStop tag p) s = .next (settle s (answered .timer tag p .ok
        (n8 t.val ++ [1, 0] ++ n16 r.period ++ b8 r.periodic ++ [0, 0]) (set { r with running := false, remaining := 0 })))) ∧
    (field8 p 3 = 1 → r.running = false →
      exec (.timerStop tag p) s = .next (settle s (answered .timer tag p .ok
        (n8 t.val ++ [0, 0] ++ n16 r.period ++ b8 r.periodic ++ n16 r.remaining) s)))

/-! ## Recorded data -/

/-- READ (R139 to R141, R146): BAD_PARAM for a stream above 7 or more than 112 words; NO_DATA for a stream UNDEFINED, a page outside the held
range or a page in a gap; OK from the page buffer that holds the page; and otherwise the read waits. That bits 5 to 7 of the reply's flags
byte are 0 is the model's choice (assumption 38). -/
def Obligations.ReadsAreLookedUp : Prop :=
  ∀ (tag : Byte) (p : List Byte) (s : State), accepted .read tag p s = true →
    (7 < (field8 p 2).toNat ∨ 112 < (field8 p 8).toNat →
      exec (.read tag p) s = .next (settle s (answered .read tag p .badParam [] s))) ∧
    ∀ st, (field8 p 2).toNat = st.val → (field8 p 8).toNat ≤ 112 →
      let r := s.stream st
      let x := (field32 p 3).toNat
      let offset := (field8 p 7).toNat
      let count := (field8 p 8).toNat
      let held := r.state ≠ .undefined ∧ r.basePage ≤ x ∧ x < r.endPage ∧ ∀ g ∈ r.gaps, x < g.first ∨ g.first + g.count ≤ x
      let holds := fun b : BufId => (s.buf b).stream = some st ∧ (s.buf b).sealed.map (·.pageNumber) = some x ∧
        ((s.buf b).place = .queued ∨ (s.buf b).place = .held st ∨ (s.buf b).place = .failed)
      (¬held → exec (.read tag p) s = .next (settle s (answered .read tag p .noData (n8 st.val ++ n32 x) s))) ∧
      (held → (∀ b, ¬holds b) →
        exec (.read tag p) s = .next (settle s (waiting .read tag p
          { s with reads := { s.reads with waitList := s.reads.waitList ++ [⟨tag, st, x, offset, count⟩] } }))) ∧
      (held → ∀ b i, holds b → (∀ b', holds b' → b' = b) → (s.buf b).sealed = some i →
        let words := (((s.buf b).words.take i.wordCount).drop offset).take count
        exec (.read tag p) s = .next (settle s (answered .read tag p .ok
          (n8 st.val ++ n32 x ++ le16 i.runNumber ++ n16 i.wordCount ++ n8 (i.runStart.toNat + 2 * i.gap.toNat + 16) ++
            le32 (s.buf b).firstWordTime ++ n16 i.droppedBefore ++ n8 words.length ++ words.flatMap le16) s)))

/-- RELEASE (R152 to R156): the longest front part of the chain whose units lie wholly below the limit, are programmed throughout and are under
no relocation leaves the chain; base page and the gaps follow; a DORMANT stream that holds nothing becomes UNDEFINED, and an exhausted BOUND
or FAULTED one restarts its numbering (R53); waiting reads below the held range are withdrawn; the reply reports all of it. -/
def Obligations.ReleaseRemovesTheFront : Prop :=
  ∀ (tag : Byte) (p : List Byte) (s : State), accepted .release tag p s = true →
    (streamOf (field8 p 2) = none → exec (.release tag p) s = .next (settle s (answered .release tag p .badParam [] s))) ∧
    ∀ st, streamOf (field8 p 2) = some st →
      let r := s.stream st
      let limit := (field32 p 3).toNat
      let leaves := fun u : UnitId => ((s.unit u).firstPage.getD 0) + (s.unit u).assigned ≤ limit ∧
        (s.unit u).programmed = (s.unit u).assigned ∧ (∀ x, s.reloc.current = some x → x.source ≠ u) ∧
        ∀ x ∈ s.reloc.waitList, x.source ≠ u
      (r.state = .undefined → exec (.release tag p) s = .next (settle s
        (answered .release tag p .ok (n8 st.val ++ List.replicate 13 0) s))) ∧
      (r.state ≠ .undefined → s.map.retiredCount + (s.chain st).countP (fun u => (s.unit u).state == .frozen) < 48 →
        ∃ t gone rest, exec (.release tag p) s = .next t ∧ s.chain st = gone ++ rest ∧ (∀ u ∈ gone, leaves u) ∧
          (∀ u l, rest = u :: l → ¬leaves u) ∧ unitsLeft gone s t ∧ t.chain st = rest ∧
          (∀ f, f ≠ st → t.chain f = s.chain f ∧ t.stream f = s.stream f) ∧
          (let base := if gone = [] then r.basePage else
            match rest with
            | u :: _ => (t.unit u).firstPage.getD 0
            | [] => ((s.heldBuf st).bind (fun b => (s.buf b).sealed)).elim r.endPage (·.pageNumber)
          let gaps := r.gaps.filter (fun g => base < g.first + g.count)
          t.stream st =
            (if rest = [] ∧ r.inFlight = 0 ∧ r.state = .dormant then StreamRec.undefined
            else if rest = [] ∧ r.inFlight = 0 ∧ (r.state = .bound ∨ r.state = .faulted) ∧ r.endPage = 0xFFFFFFFF then
              { r with basePage := 0, endPage := 0, gaps := [] }
            else { r with basePage := base, gaps := gaps })) ∧
          (let lost := fun q : ReadReq => decide (q.stream = st ∧ ((t.stream st).state = .undefined ∨
            q.pageNumber < (t.stream st).basePage ∨ (t.stream st).endPage ≤ q.pageNumber))
          t.reads.waitList = s.reads.waitList.filter (fun q => !lost q) ∧
          t.link.replies = s.link.replies ++
            (s.reads.waitList.filter lost).map (fun q => replyOf .read q.tag .noData (n8 st.val ++ n32 q.pageNumber)) ++
            [replyOf .release tag .ok (n8 st.val ++ n16 gone.length ++ n16 (gone.countP (fun u => (s.unit u).state == .frozen)) ++
              n32 (t.stream st).basePage ++ n32 (t.stream st).endPage ++ [streamStateCode (t.stream st).state])]) ∧
          t.bufs = s.bufs ∧ t.engine = s.engine ∧ t.triggers = s.triggers ∧ t.array = s.array ∧
          (r.state ≠ .dormant → t.lanes = s.lanes))

/-- DELETE (R158, R159): WRONG_STATE for a stream that is ARMED, CAPTURING or RELOCATING or has a page in flight; an UNDEFINED stream is
answered with zeros; otherwise, when the retirements leave the count below 48, every unit leaves the chain, the stream is UNDEFINED, its
waiting reads are answered NO_DATA, and the reply counts the units and those retired. The layout of the reply (the stream in 1 byte, the two
counts in 2 bytes each) is the model's inference (assumption 17), since R214 does not lay it out. -/
def Obligations.DeleteEmptiesTheStream : Prop :=
  ∀ (tag : Byte) (p : List Byte) (s : State), accepted .delete tag p s = true →
    (streamOf (field8 p 2) = none → exec (.delete tag p) s = .next (settle s (answered .delete tag p .badParam [] s))) ∧
    ∀ st, streamOf (field8 p 2) = some st →
      let r := s.stream st
      (r.state = .armed ∨ r.state = .capturing ∨ r.relocating = true ∨ 0 < r.inFlight →
        exec (.delete tag p) s = .next (settle s (answered .delete tag p .wrongState [] s))) ∧
      (r.state = .undefined → r.relocating = false → r.inFlight = 0 →
        exec (.delete tag p) s = .next (settle s (answered .delete tag p .ok (n8 st.val ++ [0, 0, 0, 0]) s))) ∧
      (r.state = .dormant ∨ r.state = .bound ∨ r.state = .faulted → r.relocating = false → r.inFlight = 0 →
        s.map.retiredCount + (s.chain st).countP (fun u => (s.unit u).state == .frozen) < 48 →
        let streams := vset s.streams st StreamRec.undefined
        ∃ t, exec (.delete tag p) s = .next t ∧ unitsLeft (s.chain st) s t ∧ t.chain st = [] ∧ (∀ f, f ≠ st → t.chain f = s.chain f) ∧
          t.streams = streams ∧ t.lanes = listenTo streams s.lanes ∧
          t.reads.waitList = s.reads.waitList.filter (fun q => q.stream ≠ st) ∧
          t.link.replies = s.link.replies ++
            (s.reads.waitList.filter (fun q => q.stream = st)).map
              (fun q => replyOf .read q.tag .noData (n8 st.val ++ n32 q.pageNumber)) ++
            [replyOf .delete tag .ok (n8 st.val ++ n16 (s.chain st).length ++
              n16 ((s.chain st).countP (fun u => (s.unit u).state == .frozen)))] ∧
          t.bufs = s.bufs ∧ t.engine = s.engine ∧ t.triggers = s.triggers ∧ t.array = s.array)

/-! ## Triggers and timers -/

/-- FIRE (R84, R85): HOST, as the start and the stop source of the streams in the mask; the reply names the streams whose run started and those
whose run FIRE ended. -/
def Obligations.FireStartsAndStops : Prop :=
  ∀ (tag : Byte) (p : List Byte) (s : State), accepted .fire tag p s = true →
    let role := fun f : StreamId => if (field8 p 2).getLsbD f.val then roleOf .host (s.stream f) else .none
    ∃ t l started stopped, exec (.fire tag p) s = .next t ∧ triggered role s t ∧ t.outside = s.outside ∧
      t.link.replies = s.link.replies ++ l ++ [replyOf .fire tag .ok [started, stopped]] ∧
      ∀ f : StreamId, (started.getLsbD f.val = true ↔ (t.stream f).runNumber ≠ (s.stream f).runNumber) ∧
        (stopped.getLsbD f.val = true ↔ role f = .stop .stopSource)

/-- EXT_EDGE, TIMER_TICK and TIMER_EXPIRY (R79 to R81, R87, R88). The pin's last sampled level follows its edge, which starts and stops the
streams that have it as their source, and ends with cause GATE the runs gated by the other level; a level that is no change is no edge (the
model's reading of R79). 100 µs after its present tick began, a RUNNING timer's remaining ticks fall by 1; at the last one a periodic timer
reloads, a one-shot timer stops, and the streams that have the timer as their source start and stop. That a TIMER_TICK or TIMER_EXPIRY that is
not due changes nothing is the model's inference (assumption 7), and that one that is due may come late is its choice (assumption 9). -/
def Obligations.EdgesAndTimersTrigger : Prop :=
  (∀ (pin : PinId) (high : Bool) (s : State), s.running = true →
    (s.triggers.ext.getLsbD pin.val = high → exec (.extEdge pin high) s = .next (settle s s)) ∧
    (s.triggers.ext.getLsbD pin.val ≠ high →
      ∃ t, exec (.extEdge pin high) s = .next t ∧ triggered (fun f => roleOfEdge pin high (s.stream f)) s t ∧
        (∀ n : PinId, t.triggers.ext.getLsbD n.val = if n = pin then high else s.triggers.ext.getLsbD n.val) ∧
        t.outside = State.outside { s with triggers := { s.triggers with ext := t.triggers.ext } })) ∧
  ∀ (n : TimerId) (s : State), s.running = true →
    let r := s.timer n
    let passed := r.running = true ∧ 100 ≤ (s.time - r.tickStart).toNat
    (passed → 1 < r.remaining →
      exec (.timerTick n) s = .next (settle s { s with triggers := { s.triggers with
        timers := vset s.triggers.timers n { r with remaining := r.remaining - 1, tickStart := r.tickStart + 100 } } }) ∧
      exec (.timerExpiry n) s = .next (settle s s)) ∧
    (passed → r.remaining ≤ 1 →
      exec (.timerTick n) s = .next (settle s s) ∧
      ∃ t, exec (.timerExpiry n) s = .next t ∧ triggered (fun f => roleOf (.timer n) (s.stream f)) s t ∧
        t.timer n = (if r.periodic then { r with remaining := r.period, tickStart := r.tickStart + 100 }
          else { r with running := false, remaining := 0 }) ∧
        t.outside = State.outside { s with triggers := { s.triggers with timers := vset s.triggers.timers n (t.timer n) } }) ∧
    (¬passed → exec (.timerTick n) s = .next (settle s s) ∧ exec (.timerExpiry n) s = .next (settle s s))
/-! ## Words at the lanes -/

/-- LANE_GOOD_WORD (R60 to R62, R73): counted at a LISTENING lane; each CAPTURING stream of the lane takes it by its skip counter, and each stream
ARMED on LEVEL whose threshold it reaches starts with it. A kept word goes into the fill buffer, is dropped without one, ends a COUNT run at
its count, and seals a buffer that it fills (R52: up to page 0xFFFFFFFE; that an exhausted stream's run then ends with its words discarded
is the model's choice, assumption 18). -/
def Obligations.GoodWordsReachTheirStreams : Prop :=
  ∀ (l : LaneId) (w : Word) (s : State), s.running = true →
    ((s.lane l).listening = false → exec (.laneGoodWord l w) s = .next (settle s s)) ∧
    ((s.lane l).listening = true →
      let lane := s.lane l
      let lanes := vset s.lanes l { lane with goodWords := lane.goodWords + 1, phase := .afterWord 0 }
      let captures := fun r : StreamRec => r.config.map (·.lane) = some l ∧ r.state = .capturing
      let starts := fun r : StreamRec => r.config.map (·.lane) = some l ∧ r.state = .armed ∧ r.config.map (·.start) = some .level ∧
        (r.config.bind (·.threshold)).getD 0 ≤ w
      (∃ t, exec (.laneGoodWord l w) s = .next t ∧ t.outside = State.outside { s with lanes := lanes } ∧
        ∀ f, let r := s.stream f
          (¬captures r → ¬starts r → sameRun r (t.stream f) ∨ (isPeerArmed r = true ∧ sameRun (startedRun r) (t.stream f))) ∧
          (starts r → (t.stream f).runNumber = r.runNumber + 1 ∧ (t.stream f).keptWords = 1) ∧
          (captures r → r.skipCounter ≠ 0 → sameRun { r with skipCounter := skipAfter r } (t.stream f)) ∧
          (captures r → r.skipCounter = 0 → ¬countEnds r →
            (t.stream f).runNumber = r.runNumber ∧ (t.stream f).keptWords = keptAfter r ∧ (t.stream f).skipCounter = skipAfter r) ∧
          (captures r → r.skipCounter = 0 → countEnds r →
            (t.stream f).endCause = some .count ∧
            (t.stream f).state = (if restarts .count r then .capturing else stateAfter .count r))) ∧
      ∀ f, let r := s.stream f
        let kept := { r with skipCounter := skipAfter r, keptWords := keptAfter r }
        captures r → r.skipCounter = 0 → ¬countEnds r → (∀ g, g ≠ f → ¬captures (s.stream g) ∧ ¬starts (s.stream g)) →
        (s.fillBuf f = none →
          exec (.laneGoodWord l w) s =
            .next (settle s { s with lanes := lanes, streams := vset s.streams f (oneDropped kept) })) ∧
        (∀ b, s.fillBuf f = some b → (s.buf b).words.length < 255 →
          let pb := s.buf b
          let pb' := if pb.words = [] then { pb with words := [w], stream := some f, firstWordTime := s.time }
            else { pb with words := pb.words ++ [w] }
          exec (.laneGoodWord l w) s = .next (settle s { s with
            lanes := lanes
            streams := vset s.streams f kept
            bufs := { s.bufs with bufs := vset s.bufs.bufs b pb' } })) ∧
        ∀ b, s.fillBuf f = some b → (s.buf b).words.length = 255 →
          ∃ t, exec (.laneGoodWord l w) s = .next t ∧
            (r.endPage < 0xFFFFFFFF → (t.stream f).endPage = r.endPage + 1 ∧ (t.stream f).inFlight = r.inFlight + 1 ∧
              (t.stream f).droppedInRun = 0 ∧ (t.stream f).state = if r.endPage + 1 = 0xFFFFFFFF then .bound else .capturing) ∧
            (r.endPage = 0xFFFFFFFF → (t.stream f).endPage = 0xFFFFFFFF ∧ (t.stream f).inFlight = r.inFlight ∧
              (t.stream f).state = .bound ∧ (t.stream f).endCause = some .limit))

/-- LANE_BAD_WORD, LNCLK_RISING_EDGE and LANE_WORD_BOUNDARY (R71, R72, R75). A bad word is counted at a LISTENING lane; each CAPTURING stream of
the lane drops one word, and LANE_FAULT is raised unless it has been reported. The first 16 bits of a word are its data, bit 15 first, and the
17th makes it a good word when the 17 bits hold an odd number of ones, and a bad one otherwise; a boundary with bits received since the last
word or boundary makes them a fragment; bits before the first boundary are ignored. -/
def Obligations.BitsMakeWords : Prop :=
  (∀ (l : LaneId) (fragment : Bool) (s : State), s.running = true →
    ((s.lane l).listening = false → exec (.laneBadWord l fragment) s = .next (settle s s)) ∧
    ((s.lane l).listening = true →
      let lane := s.lane l
      exec (.laneBadWord l fragment) s = .next (settle s { s with
        lanes := vset s.lanes l { lane with
          phase := if fragment then .inWord [] else .afterWord 0
          parityErrors := min (lane.parityErrors + 1) 65535
          faultReported := true }
        streams := Vector.ofFn (fun f =>
          let r := s.stream f
          if r.config.map (·.lane) = some l ∧ r.state = .capturing then oneDropped r else r)
        notices := if lane.faultReported then s.notices else s.notices.raise .laneFault (BitVec.ofNat 16 l.val) s.time }))) ∧
  ∀ (l : LaneId) (dat : Bool) (s : State), s.running = true → (s.lane l).listening = true →
    let lane := s.lane l
    let goes := fun ph : LanePhase => { s with lanes := vset s.lanes l { lane with phase := ph } }
    (lane.phase = .awaitBoundary → exec (.lnclkRisingEdge l dat) s = .next (settle s s)) ∧
    (∀ bits, lane.phase = .inWord bits → bits.length < 16 →
      exec (.lnclkRisingEdge l dat) s = .next (settle s (goes (.inWord (bits ++ [dat]))))) ∧
    (∀ bits, lane.phase = .inWord bits → bits.length = 16 →
      ∃ w : Word, (∀ i, i < 16 → w.getLsbD (15 - i) = bits.getD i false) ∧
        exec (.lnclkRisingEdge l dat) s =
          if (bits ++ [dat]).count true % 2 = 1 then exec (.laneGoodWord l w) s else exec (.laneBadWord l false) s) ∧
    (∀ extra, lane.phase = .afterWord extra →
      exec (.lnclkRisingEdge l dat) s = .next (settle s (goes (.afterWord (min (extra + 1) 16))))) ∧
    (lane.phase = .awaitBoundary ∨ lane.phase = .inWord [] ∨ lane.phase = .afterWord 0 →
      exec (.laneWordBoundary l) s = .next (settle s (goes (.inWord [])))) ∧
    ((∃ b bits, lane.phase = .inWord (b :: bits)) ∨ (∃ n, lane.phase = .afterWord (n + 1)) →
      exec (.laneWordBoundary l) s = exec (.laneBadWord l true) s)
/-! ## The array's port -/

/-- The arbiter (R13, R14, R16): its choice at an IDLE port, by the ranks of R14. A grant that is not its choice changes nothing, which is the
model's choice (assumption 8). -/
def Obligations.TheArbiterRanksTheClaims : Prop :=
  (∀ s : State,
    let reloc := (∃ r v, s.reloc.current = some r ∧ r.target = some v) ∧ s.reloc.standAside = false
    let ckpt := s.ctl.ckpt ≠ none ∨ s.ctl.ckptPending = true
    let erase := s.map.dirtyList ≠ [] ∧ (s.ctl.device = .ready ∨
      (s.ctl.device = .shuttingDown ∧ ∀ x, s.ctl.shutdown = some x → x.finalStarted = false))
    let read := s.reads.waitList ≠ [] ∧ ∃ i, s.stagingBuf i = .free
    let program := ∃ e ∈ s.bufs.queue, (s.stream e.stream).relocating = false
    let low := s.map.freeList.length ≤ 24
    let rises := s.bufs.queue.countP (fun e => !(s.stream e.stream).relocating) < 16 ∨ s.engine.readBalance = 4
    (s.engine.op ≠ none → winner s = none) ∧
    (s.engine.op = none → s.ctl.device = .mounting → winner s = if s.ctl.scan.isSome then some .mount else none) ∧
    (s.ctl.device = .halted → winner s = none) ∧
    (s.engine.op = none → s.ctl.device = .ready ∨ s.ctl.device = .worn ∨ s.ctl.device = .shuttingDown →
      (reloc → winner s = some .relocation) ∧
      (¬reloc → ckpt → winner s = some .checkpoint) ∧
      (¬reloc → ¬ckpt → erase → low → winner s = some .erase) ∧
      (¬reloc → ¬ckpt → ¬(erase ∧ low) → read → rises → winner s = some .read) ∧
      (¬reloc → ¬ckpt → ¬(erase ∧ low) → ¬(read ∧ rises) → program → winner s = some .program) ∧
      (¬reloc → ¬ckpt → ¬(erase ∧ low) → ¬(read ∧ rises) → ¬program → read → winner s = some .read) ∧
      (¬reloc → ¬ckpt → ¬(erase ∧ low) → ¬program → ¬read → erase → winner s = some .erase) ∧
      (¬reloc → ¬ckpt → ¬program → ¬read → ¬erase → winner s = none))) ∧
  ∀ s : State, s.running = true →
    (winner s ≠ some .program → exec .programGrant s = .next (settle s s)) ∧
    (winner s ≠ some .read → exec .readGrant s = .next (settle s s)) ∧
    (winner s ≠ some .erase → exec .eraseGrant s = .next (settle s s)) ∧
    (winner s ≠ some .checkpoint → exec .checkpointStart s = .next (settle s s) ∧ exec .checkpointOpGrant s = .next (settle s s)) ∧
    (winner s ≠ some .relocation → exec .relocationStepGrant s = .next (settle s s)) ∧
    (winner s ≠ some .mount → exec .mountReadGrant s = .next (settle s s))

/-- Grants to the program queue, the read-back path, the erase process, the relocation step and the mount step (R6, R10, R15, R17, R25, R120, R144,
R160, R174): the operation that the port then holds, the read-balance count, and what leaves its list. -/
def Obligations.GrantsStartTheirOperation : Prop :=
  ∀ s : State, s.running = true →
    let held := { s.reloc with standAside := false }
    (winner s = some .program → ∃ before e after, s.bufs.queue = before ++ e :: after ∧
      (∀ x ∈ before, (s.stream x.stream).relocating = true) ∧ (s.stream e.stream).relocating = false ∧
      exec .programGrant s = .next (settle s { s with
        reloc := held
        engine := ⟨some ⟨.program, e.unit, some e.slot, .programQueue, some (.pageBuffer e.buf), some .compute, s.time⟩,
          min (s.engine.readBalance + 1) 4⟩ })) ∧
    (winner s = some .read → ∀ q rest u k, s.reads.waitList = q :: rest → locate s q.stream q.pageNumber = some (u, k) →
      let i : StagingId := if s.stagingBuf 0 = .free then 0 else 1
      (u ∈ s.chain q.stream ∧ ∃ first, (s.unit u).firstPage = some first ∧ q.pageNumber = first + k ∧ k < (s.unit u).assigned) ∧
      exec .readGrant s = .next (settle s { s with
        reloc := held
        reads := { s.reads with waitList := rest, staging := vset s.reads.staging i (.inUse q none) }
        engine := ⟨some ⟨.read, u, some k, .readPath, some (.staging i), none, s.time⟩, 0⟩ })) ∧
    (winner s = some .erase → ∀ u rest, s.map.dirtyList = u :: rest →
      exec .eraseGrant s = .next (settle s { s with
        reloc := held
        map := { s.map with dirtyList := rest, units := vset s.map.units u (unitOut .erasing (s.unit u)) }
        engine := { s.engine with op := some ⟨.erase, u, none, .eraseProcess, none, none, s.time⟩ } })) ∧
    (winner s = some .relocation → ∀ r v, s.reloc.current = some r → r.target = some v →
      exec .relocationStepGrant s = .next (settle s { s with
        reloc := held
        engine := { s.engine with op := some (match r.phase with
          | .readDue => ⟨.read, r.source, some r.copyPos, .relocationStep, some .copyBuffer, none, s.time⟩
          | .programDue => ⟨.program, v, some r.copyPos, .relocationStep, some .copyBuffer, some .keep, s.time⟩
          | .failedPageDue => ⟨.program, v, some r.slot, .relocationStep, some (.pageBuffer r.buf), some .compute, s.time⟩) } })) ∧
    (winner s = some .mount → ∀ sc, s.ctl.scan = some sc →
      ∃ u k, exec .mountReadGrant s = .next (settle s { s with
          reloc := held
          engine := { s.engine with op := some ⟨.read, u, some k, .mountStep, some .scanBuffer, none, s.time⟩ } }) ∧
        (match sc.pos with
          | .header n => u.val = n.val / 8 ∧ k = 8 * (n.val % 8)
          | .commit n _ => u.val = n.val / 8 ∧ k = 8 * (n.val % 8) + 5
          | .entry n _ _ got => u.val = n.val / 8 ∧ k = 8 * (n.val % 8) + 1 + got.length
          | .slot0 v => u = v ∧ k = 0
          | .slot63 v _ => u = v ∧ k = 63
          | .count v _ _ n _ => u = v ∧ k = n
          | .blank v n => u = v ∧ k = n))

/-- CHECKPOINT_START and CHECKPOINT_OP_GRANT (R121, R168, R169, R183): a checkpoint takes its snapshot, covers the waiters and begins with the
header of the next table slot, or with the erase of the other table unit when no table slot is left; later grants run its next operation.
The grant clears the stand-aside mark. With the sequence number exhausted a checkpoint writes nothing and fails, and the final one so ends
SHUTDOWN with FAULT. The model's part in this: the replies name the current table unit and a table slot that is a free value (assumption 4);
that they carry the unchanged sequence number is its inference (assumption 19); the shutdown record is cleared (assumption 26). -/
def Obligations.CheckpointsStartAndGoOn : Prop :=
  ∀ s : State, s.running = true → winner s = some .checkpoint →
    let final := decide (s.ctl.device = .shuttingDown ∧ s.bufs.queue = [] ∧ s.reloc.current = none ∧ s.reloc.waitList = [] ∧
      s.reads.waitList = [])
    let snap : Snapshot := ⟨s.map.units.map (fun r => (r.eraseCount, r.state == .retired)), s.map.retiredCount, s.ctl.seqNo + 1⟩
    let held := { s.reloc with standAside := false }
    let marked := { s.ctl with
      ckptPending := false
      waiters := s.ctl.waiters.map (fun w : CkptWaiter => { w with covered := true })
      shutdown := if final then s.ctl.shutdown.map (fun x : Shutdown => { x with finalStarted := true }) else s.ctl.shutdown }
    (s.ctl.ckpt = none → s.ctl.seqNo ≠ 0xFFFFFFFF → ∀ k, s.ctl.nextSlot = some k →
      exec .checkpointStart s = .next (settle s { s with
        reloc := held
        map := { s.map with erasesSince := 0 }
        ctl := { marked with
          ckpt := some ⟨snap, s.ctl.tableUnit, some k, .page 0, final⟩
          tableBuffer := some (tablePageData snap 0) }
        engine := { s.engine with op := some ⟨.program, tableUnitId s.ctl.tableUnit, some (8 * k), .checkpointStep,
          some .tableBuffer, some .compute, s.time⟩ } })) ∧
    (s.ctl.ckpt = none → s.ctl.seqNo ≠ 0xFFFFFFFF → s.ctl.nextSlot = none →
      let other : Fin 2 := if s.ctl.tableUnit = 0 then 1 else 0
      exec .checkpointStart s = .next (settle s { s with
        reloc := held
        map := { s.map with erasesSince := 0 }
        ctl := { marked with ckpt := some ⟨snap, other, none, .erase, final⟩ }
        engine := { s.engine with op := some ⟨.erase, tableUnitId other, none, .checkpointStep, none, none, s.time⟩ } })) ∧
    (s.ctl.ckpt = none → s.ctl.seqNo = 0xFFFFFFFF → final = false → s.deviceOk = true →
      ∃ t b, exec .checkpointStart s = .next t ∧ t.ctl.ckpt = none ∧ t.ctl.ckptPending = false ∧ t.ctl.waiters = [] ∧
        t.ctl.seqNo = s.ctl.seqNo ∧ t.engine = s.engine ∧ t.array = s.array ∧ t.map.erasesSince = 0 ∧
        t.notices.pendingSet.getLsbD 14 = true ∧ t.reloc = held ∧ t.ctl.device = s.ctl.device ∧ t.ctl.shutdown = s.ctl.shutdown ∧
        t.link.replies = s.link.replies ++
          s.ctl.waiters.map (fun w => replyOf .checkpoint w.tag .fault (n32 s.ctl.seqNo ++ n8 s.ctl.tableUnit.val ++ [b]))) ∧
    (s.ctl.ckpt = none → s.ctl.seqNo = 0xFFFFFFFF → final = true → ∀ x, s.ctl.shutdown = some x →
      ∃ t b, exec .checkpointStart s = .next t ∧ t.ctl.ckpt = none ∧ t.ctl.ckptPending = false ∧ t.ctl.waiters = [] ∧
        t.ctl.seqNo = s.ctl.seqNo ∧ t.engine = s.engine ∧ t.array = s.array ∧ t.map.erasesSince = 0 ∧
        t.notices.pendingSet.getLsbD 14 = true ∧ t.reloc = held ∧ t.ctl.device = .halted ∧ t.ctl.shutdown = none ∧
        (∀ n, t.timer n = { s.timer n with running := false, remaining := 0 }) ∧
        t.link.replies = s.link.replies ++
          s.ctl.waiters.map (fun w => replyOf .checkpoint w.tag .fault (n32 s.ctl.seqNo ++ n8 s.ctl.tableUnit.val ++ [b])) ++
          [replyOf .shutdown x.tag .fault (n32 s.ctl.seqNo)]) ∧
    (∀ c i k, s.ctl.ckpt = some c → c.next = .page i → c.tableSlot = some k →
      exec .checkpointOpGrant s = .next (settle s { s with
        reloc := held
        ctl := { s.ctl with tableBuffer := some (tablePageData c.snapshot i) }
        engine := { s.engine with op := some ⟨.program, tableUnitId c.tableUnit, some (8 * k + i), .checkpointStep,
          some .tableBuffer, some .compute, s.time⟩ } }))

/-- The pages of a table-slot copy (R167, R216): the header holds the sequence number and the retired count, an entry word its unit's erase count in
bits 0 to 14 and the retired flag in bit 15, the commit page the mark, the sequence number and the CRC-32 of the header's and the entries'
data; every other word is 0xFFFF. -/
def Obligations.TablePagesHoldTheSnapshot : Prop :=
  ∀ sn : Snapshot, sn.seqNo < 4294967296 → sn.retiredCount < 65536 → (∀ u : UnitId, (vget sn.entries u).1 < 32768) →
    let word := fun i j => (tablePageData sn i).toList.getD j 0
    ((word 0 0).toNat + 65536 * (word 0 1).toNat = sn.seqNo ∧ (word 0 2).toNat = sn.retiredCount ∧
      ∀ j, 3 ≤ j → j < 256 → word 0 j = 0xFFFF) ∧
    (∀ u : UnitId, let w := word (1 + u.val / 256) (u.val % 256)
      w.toNat % 32768 = (vget sn.entries u).1 ∧ w.getLsbD 15 = (vget sn.entries u).2) ∧
    word 5 0 = 0xC0A5 ∧ word 5 1 = 0xC0A5 ∧ (word 5 2).toNat + 65536 * (word 5 3).toNat = sn.seqNo ∧
    (word 5 5) ++ (word 5 4) = crc32 ([0, 1, 2, 3, 4].flatMap (fun i => dataBytes (tablePageData sn i))) ∧
    ∀ j, 6 ≤ j → j < 256 → word 5 j = 0xFFFF

/-! ## Ends of operations -/

/-- A program-queue program ends (R3, R7, R11, R27, R100, R110, R111, R117, R119). With PASS the slot holds the sealed page, VALID with DATA GOOD;
the unit's programmed count rises, the entry leaves the queue, the buffer is freed and the pages in flight fall. With FAIL the slot is
INVALID, the unit FROZEN, the buffer FAILED and the stream RELOCATING, and a relocation begins or waits; with none in progress and no free
unit it is abandoned in that happening (R119, R127), and the stream is FAULTED at the failed page. That a freed buffer goes to the tail of
the pool is the model's choice (assumption 21). -/
def Obligations.QueueProgramsEnd : Prop :=
  ∀ (s : State) (u : UnitId) (k : Nat) (b : BufId) (t0 : Time) (e : QueueEntry), s.running = true →
    s.engine.op = some ⟨.program, u, some k, .programQueue, some (.pageBuffer b), some .compute, t0⟩ →
    s.bufs.queue.find? (fun x => x.buf = b) = some e →
    let r := s.stream e.stream
    let ru := s.unit e.unit
    let rest := s.bufs.queue.filter (fun x => x.buf ≠ b)
    let mine := s.bufs.flushWaiters.filter (fun w => w.stream = e.stream ∧ r.inFlight ≤ 1)
    (∃ t, exec (.programDone true) s = .next t ∧ slotProgrammed u k (pageData (s.buf b).words) s t ∧
      (∀ st i, (s.buf b).stream = some st → (s.buf b).sealed = some i →
        let g := (t.array.read (slotAddr u k)).tag
        g.stream = BitVec.ofNat 8 st.val ∧ g.slot = BitVec.ofNat 8 k ∧ g.wordCount = BitVec.ofNat 16 i.wordCount ∧
        g.pageNumber = BitVec.ofNat 32 i.pageNumber ∧ g.runNumber = i.runNumber ∧
        g.droppedBefore = BitVec.ofNat 16 i.droppedBefore ∧ g.firstWordTime = (s.buf b).firstWordTime ∧ g.origin = 0xFFFF ∧
        g.flags = BitVec.ofNat 8 (i.runStart.toNat + 2 * i.gap.toNat)) ∧
      t.engine = { s.engine with op := none } ∧ t.map.units = vset s.map.units e.unit { ru with programmed := ru.programmed + 1 } ∧
      t.bufs.queue = rest ∧ sameRun { r with inFlight := r.inFlight - 1 } (t.stream e.stream) ∧
      (∀ f, f ≠ e.stream → sameRun (s.stream f) (t.stream f)) ∧
      (s.bufs.waitList = [] → t.bufs.pool = s.bufs.pool ++ [b] ∧ t.buf b = PageBuf.empty) ∧
      (∀ f l, s.bufs.waitList = f :: l → t.bufs.pool = s.bufs.pool ∧ t.bufs.waitList = l ∧ t.fillBuf f = some b ∧
        (t.stream f).overrun = false) ∧
      t.bufs.flushWaiters = s.bufs.flushWaiters.filter (fun w => ¬(w.stream = e.stream ∧ r.inFlight ≤ 1)) ∧
      t.link.replies = s.link.replies ++ mine.map (fun w => replyOf .flush w.tag .ok
        (n8 e.stream.val ++ [streamStateCode r.state] ++ b8 w.sealed ++ n32 r.endPage))) ∧
    (∃ t, exec (.programDone false) s = .next t ∧ slotSpoiled u k s t) ∧
    (∀ v free, s.reloc.current = none → s.reloc.waitList = [] → s.map.freeList = v :: free →
      ∃ t, exec (.programDone false) s = .next t ∧ t.engine = { s.engine with op := none } ∧ t.bufs.queue = rest ∧
        t.buf b = { s.buf b with place := .failed } ∧ t.streams = vset s.streams e.stream { r with relocating := true } ∧
        t.map.freeList = free ∧
        t.map.units = vset (vset s.map.units e.unit { ru with state := .frozen }) v
          ⟨.target, (s.unit v).eraseCount, some e.stream, some (ru.firstPage.getD 0), 0, 0, false⟩ ∧
        t.reloc.current = some ⟨e.stream, e.unit, e.slot, b, some v, 1, 0, copyBegins e.slot⟩ ∧ t.reloc.waitList = [] ∧
        (free.length = 24 → t.notices.pendingSet.getLsbD 8 = true) ∧ t.link.replies = s.link.replies) ∧
    (s.reloc.current = none → s.reloc.waitList = [] → s.map.freeList = [] → s.map.retiredCount < 47 ∨ e.slot ≠ 0 →
      let x := (ru.firstPage.getD 0) + e.slot
      let lost := 1 + rest.countP (fun y => y.stream = e.stream) + (s.heldBuf e.stream).toList.length
      ∃ t, exec (.programDone false) s = .next t ∧ t.engine = { s.engine with op := none } ∧ t.reloc.current = none ∧
        t.reloc.waitList = [] ∧ (t.stream e.stream).state = .faulted ∧ (t.stream e.stream).endPage = x ∧
        (t.stream e.stream).starved = false ∧ (t.stream e.stream).relocating = false ∧
        (t.stream e.stream).inFlight = r.inFlight - lost ∧ (t.stream e.stream).lostTotal = min (r.lostTotal + lost) 0xFFFFFFFF ∧
        (t.stream e.stream).endCause = (if r.state = .capturing then some .fault else r.endCause) ∧
        (r.state = .capturing → t.notices.pendingSet.getLsbD 2 = true) ∧ t.notices.pendingSet.getLsbD 12 = true ∧
        t.notices.pendingSet.getLsbD 5 = true ∧ (∀ y ∈ t.bufs.queue, y.stream ≠ e.stream) ∧ t.heldBuf e.stream = none ∧
        e.stream ∉ t.bufs.starvedList ∧
        t.chain e.stream = (s.chain e.stream).takeWhile (· ≠ e.unit) ++ (if e.slot = 0 then [] else [e.unit]) ∧
        t.bufs.flushWaiters = s.bufs.flushWaiters.filter (fun w => w.stream ≠ e.stream) ∧
        t.link.replies = s.link.replies ++ (s.bufs.flushWaiters.filter (fun w => w.stream = e.stream)).map
          (fun w => replyOf .flush w.tag .fault (n8 e.stream.val ++ [5] ++ b8 w.sealed ++ n32 x))) ∧
    ∀ x, s.reloc.current = some x →
      ∃ t, exec (.programDone false) s = .next t ∧ t.engine = { s.engine with op := none } ∧ t.bufs.queue = rest ∧
        t.buf b = { s.buf b with place := .failed } ∧ t.streams = vset s.streams e.stream { r with relocating := true } ∧
        t.map = { s.map with units := vset s.map.units e.unit { ru with state := .frozen } } ∧
        t.reloc.current = some x ∧ t.reloc.waitList = s.reloc.waitList ++ [⟨e.stream, e.unit, e.slot, b⟩] ∧
        t.link.replies = s.link.replies

/-- The copy of a relocation (R8, R37, R120 to R123): a copy read leaves the slot in the copy buffer with the tag prepared, RELOC set and the
origin the source; DAMAGED with a notice when the data are not GOOD, and a rebuilt tag when the slot does not read as the page expected. A
copy program with PASS moves to the next slot and lets the other blocks have one operation. -/
def Obligations.CopiesMoveThePages : Prop :=
  ∀ (s : State) (r : Reloc) (v : UnitId) (t0 : Time), s.running = true → s.reloc.current = some r → r.target = some v →
    let idle := { s.engine with op := none }
    let x := (s.unit r.source).firstPage.getD 0 + r.copyPos
    let origin := BitVec.ofNat 16 r.source.val
    let rebuilt := fun crc : Word => (⟨0x5A, BitVec.ofNat 8 r.stream.val, 0x0C, BitVec.ofNat 8 r.copyPos, 256, BitVec.ofNat 32 x, 0, 0, 0,
      origin, crc, 0⟩ : Tag)
    let copied := fun page : Page =>
      { s with engine := idle, reloc := { s.reloc with current := some { r with phase := .programDue }, copyBuffer := some page } }
    let noticed := s.notices.raise .damagedPage (BitVec.ofNat 16 r.stream.val) s.time
    (s.engine.op = some ⟨.read, r.source, some r.copyPos, .relocationStep, some .copyBuffer, none, t0⟩ →
      (∀ asRead,
        let page := cellsRead (s.array.read (slotAddr r.source r.copyPos)) asRead
        (holdsPage page r.stream r.copyPos x → page.tag.dataCrc = crc16 (dataBytes page.data) →
          exec (.readDone asRead) s = .next (settle s
            (copied ⟨page.data, { page.tag with flags := (page.tag.flags &&& 0x0F) ||| 0x04, origin := origin }⟩))) ∧
        (holdsPage page r.stream r.copyPos x → page.tag.dataCrc ≠ crc16 (dataBytes page.data) →
          exec (.readDone asRead) s = .next (settle s { copied ⟨page.data,
            { page.tag with flags := (page.tag.flags &&& 0x0F) ||| 0x0C, origin := origin }⟩ with notices := noticed })) ∧
        (¬holdsPage page r.stream r.copyPos x →
          exec (.readDone asRead) s =
            .next (settle s { copied ⟨page.data, rebuilt page.tag.dataCrc⟩ with notices := noticed }))) ∧
      (400 ≤ (s.time - t0).toNat →
        exec .readTimeout s =
          .next (settle s { copied ⟨Vector.replicate 256 0xFFFF, rebuilt 0xFFFF⟩ with notices := noticed }))) ∧
    (s.engine.op = some ⟨.program, v, some r.copyPos, .relocationStep, some .copyBuffer, some .keep, t0⟩ →
      r.phase ≠ .failedPageDue → ∀ page, s.reloc.copyBuffer = some page →
      let rv := s.unit v
      exec (.programDone true) s = .next (settle s { s with
        array := s.array.write (slotAddr v r.copyPos) (programmedPage .keep page)
        engine := idle
        map := { s.map with units := vset s.map.units v { rv with assigned := rv.assigned + 1, programmed := rv.programmed + 1 } }
        reloc := { s.reloc with
          current := some { r with
            copyPos := r.copyPos + 1
            phase := if r.copyPos + 1 < r.slot then .readDue else .failedPageDue }
          copyBuffer := none
          standAside := true } }))

/-- A program into the target ends (R38, R40, R119, R124 to R126), short of WORN entry. When the failed page's program passes, the target takes
the source's place in the chain and the source is retired, the queue entries name the target, the buffer is freed, the stream is no longer
RELOCATING, and the relocation that waits longest starts. When a copy program or the failed page's program fails before the third attempt, the
target is retired and the next free unit is the target of a new copy. That a freed buffer goes to the tail of the pool is the model's choice
(assumption 21). -/
def Obligations.RelocationsCompleteOrTakeAnotherTarget : Prop :=
  ∀ (s : State) (r : Reloc) (v : UnitId) (t0 : Time), s.running = true → s.reloc.current = some r → r.target = some v →
    r.source ≠ v → s.map.retiredCount ≠ 47 ∨ s.ctl.device ≠ .ready →
    let ru := s.unit r.source
    let rv := s.unit v
    let q := s.stream r.stream
    let placed : UnitRec := ⟨if (s.chain r.stream).getLast? = some r.source ∧ ru.assigned < 64 then .opened else .full, rv.eraseCount,
      rv.owner, ru.firstPage, ru.assigned, r.slot + 1, false⟩
    (r.phase = .failedPageDue →
      s.engine.op = some ⟨.program, v, some r.slot, .relocationStep, some (.pageBuffer r.buf), some .compute, t0⟩ →
      (∀ w ws, s.reloc.waitList = w :: ws → s.map.freeList ≠ []) →
      ∃ t l, exec (.programDone true) s = .next t ∧ slotProgrammed v r.slot (pageData (s.buf r.buf).words) s t ∧
        (t.array.read (slotAddr v r.slot)).tag.origin = BitVec.ofNat 16 r.source.val ∧
        (t.array.read (slotAddr v r.slot)).tag.flags.getLsbD 2 = true ∧
        t.engine = { s.engine with op := none } ∧
        t.chain r.stream = (s.chain r.stream).map (fun x => if x = r.source then v else x) ∧
        (∀ f, f ≠ r.stream → t.chain f = s.chain f ∧ sameRun (s.stream f) (t.stream f)) ∧
        r.source ∈ t.map.retiredSet ∧ t.map.retiredCount = s.map.retiredCount + 1 ∧ t.ctl.ckptPending = true ∧
        t.bufs.queue = s.bufs.queue.map
          (fun e => if e.stream = r.stream ∧ e.unit = r.source then { e with unit := v } else e) ∧
        sameRun { q with relocating := false, inFlight := q.inFlight - 1 } (t.stream r.stream) ∧
        (s.bufs.waitList = [] → t.bufs.pool = s.bufs.pool ++ [r.buf] ∧ t.buf r.buf = PageBuf.empty) ∧
        t.notices.pendingSet.getLsbD 6 = true ∧ t.notices.pendingSet.getLsbD 7 = true ∧
        t.link.replies = s.link.replies ++ l ∧ (2 ≤ q.inFlight → l = []) ∧
        (s.reloc.waitList = [] → t.reloc.current = none ∧ t.reloc.waitList = [] ∧ t.map.freeList = s.map.freeList ∧ t.unit v = placed ∧
          t.unit r.source = unitOut .retired ru ∧ ∀ x, x ≠ v → x ≠ r.source → t.unit x = s.unit x) ∧
        ∀ w ws y free, s.reloc.waitList = w :: ws → s.map.freeList = y :: free → y ≠ v → y ≠ r.source → w.source ≠ v →
          w.source ≠ r.source →
          t.reloc.current = some ⟨w.stream, w.source, w.slot, w.buf, some y, 1, 0, copyBegins w.slot⟩ ∧ t.reloc.waitList = ws ∧
          t.map.freeList = free ∧ t.unit v = placed ∧ t.unit r.source = unitOut .retired ru ∧
          t.unit y = ⟨.target, (s.unit y).eraseCount, some w.stream, some ((s.unit w.source).firstPage.getD 0), 0, 0, false⟩ ∧
          ∀ x, x ≠ v → x ≠ r.source → x ≠ y → t.unit x = s.unit x) ∧
    ∀ op k w rest, s.engine.op = some op → op.kind = .program → op.requester = .relocationStep → op.unit = v → op.slot = some k →
      r.attempt < 3 → s.map.freeList = w :: rest → w ≠ v →
      ∃ t, exec (.programDone false) s = .next t ∧ slotSpoiled v k s t ∧ t.engine = { s.engine with op := none } ∧
        t.reloc.current = some { r with attempt := r.attempt + 1, target := some w, copyPos := 0, phase := copyBegins r.slot } ∧
        t.reloc.waitList = s.reloc.waitList ∧ t.reloc.copyBuffer = none ∧ t.unit v = unitOut .retired rv ∧
        t.unit w = ⟨.target, (s.unit w).eraseCount, some r.stream, some (ru.firstPage.getD 0), 0, 0, false⟩ ∧
        (∀ x, x ≠ v → x ≠ w → t.unit x = s.unit x) ∧ t.map.freeList = rest ∧ v ∈ t.map.retiredSet ∧
        t.map.retiredCount = s.map.retiredCount + 1 ∧ t.ctl.ckptPending = true ∧ t.streams = s.streams ∧ t.bufs = s.bufs ∧
        t.link.replies = s.link.replies

/-- The abandonment of a relocation (R39, R50, R127): on the third failing target, or with no free unit left, the stream is FAULTED, with a run
end when it was CAPTURING; its sealed pages from the failed one on are lost and its end page is the failed page; its chain ends at the
source, which is closed there, or retired when it failed at slot 0; its FLUSHes end with FAULT. -/
def Obligations.AbandonmentFaultsTheStream : Prop :=
  ∀ (s : State) (r : Reloc) (v : UnitId) (op : Operation), s.running = true → s.reloc.current = some r → r.target = some v →
    r.source ≠ v → s.map.retiredCount < 46 → s.reloc.waitList = [] →
    s.engine.op = some op → op.kind = .program → op.requester = .relocationStep → 3 ≤ r.attempt ∨ s.map.freeList = [] →
    let q := s.stream r.stream
    let x := (s.unit r.source).firstPage.getD 0 + r.slot
    let lost := 1 + s.bufs.queue.countP (fun e => e.stream = r.stream) + (s.heldBuf r.stream).toList.length
    ∃ t, exec (.programDone false) s = .next t ∧ t.engine = { s.engine with op := none } ∧ t.reloc.current = none ∧
      t.reloc.waitList = [] ∧ t.reloc.copyBuffer = none ∧ v ∈ t.map.retiredSet ∧
      (t.stream r.stream).state = .faulted ∧ (t.stream r.stream).endPage = x ∧ (t.stream r.stream).starved = false ∧
      (t.stream r.stream).relocating = false ∧ (t.stream r.stream).inFlight = q.inFlight - lost ∧
      (t.stream r.stream).lostTotal = min (q.lostTotal + lost) 0xFFFFFFFF ∧ (t.stream r.stream).config = q.config ∧
      (t.stream r.stream).runNumber = q.runNumber ∧
      (t.stream r.stream).endCause = (if q.state = .capturing then some .fault else q.endCause) ∧
      (q.state = .capturing → t.notices.pendingSet.getLsbD 2 = true) ∧ t.notices.pendingSet.getLsbD 12 = true ∧
      t.notices.pendingSet.getLsbD 5 = true ∧ t.notices.pendingSet.getLsbD 7 = true ∧
      (∀ f, f ≠ r.stream →
        { t.stream f with overrun := false, starved := false } = { s.stream f with overrun := false, starved := false }) ∧
      (∀ e ∈ t.bufs.queue, e.stream ≠ r.stream) ∧ t.heldBuf r.stream = none ∧ r.stream ∉ t.bufs.starvedList ∧
      t.chain r.stream = (s.chain r.stream).takeWhile (· ≠ r.source) ++ (if r.slot = 0 then [] else [r.source]) ∧
      ((s.chain r.stream).count r.source = 1 → r.source ∉ s.map.freeList →
        t.unit r.source = if r.slot = 0 then unitOut .retired (s.unit r.source)
          else { s.unit r.source with assigned := r.slot, closed := true }) ∧
      t.bufs.flushWaiters = s.bufs.flushWaiters.filter (fun w => w.stream ≠ r.stream) ∧
      t.link.replies = s.link.replies ++ (s.bufs.flushWaiters.filter (fun w => w.stream = r.stream)).map
        (fun w => replyOf .flush w.tag .fault (n8 r.stream.val ++ [5] ++ b8 w.sealed ++ n32 x))

/-- The array read of a READ ends (R4, R8, R143, R145, R146): OK or DAMAGED from the slot when it reads as the page expected, DAMAGED with a
rebuilt tag when it does not, and FAULT on a timeout. Its words stay in the staging buffer until the reply has left. A slot reads as stored or
as the report says that it has drifted (assumption 5), but an erased slot reads erased, and a slot with an INVALID tag reads INVALID.
That bits 5 to 7 of the reply's flags byte are 0 is the model's choice (assumption 38), and that the words of a tag which states more than
256 are cut at the 256 of the page is its inference (assumption 22). -/
def Obligations.ReadBacksEnd : Prop :=
  (∀ (stored : Page) (asRead : Option Page), cellsRead stored none = stored ∧ cellsRead erasedPage asRead = erasedPage ∧
    (classify stored.tag = .invalid → classify (cellsRead stored asRead).tag = .invalid) ∧
    ∀ page, classify stored.tag = .valid → cellsRead stored (some page) = page) ∧
  ∀ (s : State) (u : UnitId) (k : Nat) (i : StagingId) (t0 : Time) (q : ReadReq) (old : Option Page), s.running = true →
    s.engine.op = some ⟨.read, u, some k, .readPath, some (.staging i), none, t0⟩ → s.stagingBuf i = .inUse q old →
    let finish := fun (body : List Byte) (held : Option StagingId) (kept : Staging) => { s with
      engine := { s.engine with op := none }
      reads := { s.reads with staging := vset s.reads.staging i kept }
      link := { s.link with
        requests := s.link.requests.map (fun x => if x.tag = q.tag then { x with stage := .completed } else x)
        replies := s.link.replies ++ [⟨.request q.tag .read, body, held⟩] } }
    (∀ asRead,
      let page := cellsRead (s.array.read (slotAddr u k)) asRead
      let g := page.tag
      let answer := fun (st : Status) (run count : Word) (flags : Byte) (time : Time) (dropped : Word) =>
        let words := ((page.data.toList.take count.toNat).drop q.offset).take q.count
        let body := (replyOf .read q.tag st (n8 q.stream.val ++ n32 q.pageNumber ++ le16 run ++ le16 count ++ [flags] ++ le32 time ++
          le16 dropped ++ n8 words.length ++ words.flatMap le16)).body
        exec (.readDone asRead) s =
          .next (settle s (if words = [] then finish body none .free else finish body (some i) (.inUse q (some page))))
      (holdsPage page q.stream k q.pageNumber →
        answer (if g.dataCrc = crc16 (dataBytes page.data) ∧ g.flags.getLsbD 3 = false then .ok else .damaged)
          g.runNumber g.wordCount (g.flags &&& 0x0F) g.firstWordTime g.droppedBefore) ∧
      (¬holdsPage page q.stream k q.pageNumber → answer .damaged 0 256 0x08 0 0)) ∧
    (400 ≤ (s.time - t0).toNat →
      exec .readTimeout s =
        .next (settle s (finish (replyOf .read q.tag .fault (n8 q.stream.val ++ n32 q.pageNumber)).body none .free)))

/-- The operations of a checkpoint end (R2, R169 to R171, R173, R183): with PASS the next page is due, and the commit page makes the copy the
newest, completes the covered requests with OK and raises CHECKPOINT_DONE; a FAIL ends it with TABLE_FAULT and FAULT and the next table slot
skipped. When it was the final one, SHUTDOWN completes: HALTED with every timer STOPPED. That a CHECKPOINT reply with FAULT carries the
unchanged sequence number is the model's inference (assumption 19; R183 says it of SHUTDOWN), and that the table buffer is empty from the
checkpoint's end (assumption 36) and the shutdown record cleared at SHUTDOWN's completion (assumption 26) are its choices. -/
def Obligations.CheckpointOperationsEnd : Prop :=
  ∀ (s : State) (c : Ckpt) (t0 : Time), s.running = true → s.deviceOk = true → s.ctl.ckpt = some c →
    let u := tableUnitId c.tableUnit
    let idle := { s.engine with op := none }
    let covered := fun (st : Status) (seqNo : Nat) (slot : Byte) => (s.ctl.waiters.filter (·.covered)).map
      (fun w => replyOf .checkpoint w.tag st (n32 seqNo ++ n8 c.tableUnit.val ++ [slot]))
    let ended := fun (t : State) (st : Status) (seqNo : Nat) (slot : Byte) =>
      t.engine = idle ∧ t.ctl.ckpt = none ∧ t.ctl.tableBuffer = none ∧ t.ctl.seqNo = seqNo ∧
      t.ctl.waiters = s.ctl.waiters.filter (fun w => !w.covered) ∧ t.map = s.map ∧ t.streams = s.streams ∧ t.bufs = s.bufs ∧
      (c.final = false → t.ctl.device = s.ctl.device ∧ t.ctl.shutdown = s.ctl.shutdown ∧ t.triggers = s.triggers ∧
        t.link.replies = s.link.replies ++ covered st seqNo slot) ∧
      (c.final = true → ∀ x, s.ctl.shutdown = some x → t.ctl.device = .halted ∧ t.ctl.shutdown = none ∧
        (∀ n, t.timer n = { s.timer n with running := false, remaining := 0 }) ∧
        t.link.replies = s.link.replies ++ covered st seqNo slot ++ [replyOf .shutdown x.tag st (n32 seqNo)])
    (∀ k i d, c.tableSlot = some k → c.next = .page i → s.ctl.tableBuffer = some d →
      s.engine.op = some ⟨.program, u, some (8 * k + i), .checkpointStep, some .tableBuffer, some .compute, t0⟩ →
      (i < 5 →
        exec (.programDone true) s = .next (settle s { s with
          array := s.array.write (slotAddr u (8 * k + i)) (programmedPage .compute ⟨d, tableTag (8 * k + i)⟩)
          engine := idle
          ctl := { s.ctl with ckpt := some { c with next := .page (i + 1) } } })) ∧
      (i = 5 → ∃ t, exec (.programDone true) s = .next t ∧ slotProgrammed u (8 * k + i) d s t ∧
        ended t .ok c.snapshot.seqNo (BitVec.ofNat 8 k) ∧ t.ctl.tableUnit = s.ctl.tableUnit ∧
        t.ctl.nextSlot = (if k < 7 then some (k + 1) else none) ∧ t.notices.pendingSet.getLsbD 13 = true) ∧
      ∃ t, exec (.programDone false) s = .next t ∧ slotSpoiled u (8 * k + i) s t ∧
        ended t .fault s.ctl.seqNo (BitVec.ofNat 8 k) ∧ t.ctl.tableUnit = s.ctl.tableUnit ∧
        t.ctl.nextSlot = (if k < 7 then some (k + 1) else none) ∧ t.notices.pendingSet.getLsbD 14 = true) ∧
    (s.engine.op = some ⟨.erase, u, none, .checkpointStep, none, none, t0⟩ →
      let ru := s.unit u
      exec (.eraseDone true) s = .next (settle s { s with
        array := s.array.eraseUnit u
        engine := idle
        map := { s.map with units := vset s.map.units u { ru with eraseCount := min (ru.eraseCount + 1) 32767 } }
        ctl := { s.ctl with
          tableUnit := c.tableUnit
          nextSlot := some 0
          ckpt := some { c with tableSlot := some 0, next := .page 0 } } }) ∧
      ∃ t, exec (.eraseDone false) s = .next t ∧ ended t .fault s.ctl.seqNo 0xFF ∧ t.ctl.tableUnit = s.ctl.tableUnit ∧
        t.ctl.nextSlot = s.ctl.nextSlot ∧ t.notices.pendingSet.getLsbD 14 = true)

/-- A data-unit erase ends (R2, R9, R11, R29, R40, R43, R161, R162): with PASS every slot of the unit reads erased, its erase count rises, stopping
at 32767, it is FREE at its place in the free list's order, and the 32nd erase since a checkpoint sets checkpoint pending; with FAIL it is
retired. The slots of the other units stay. The retirement that takes the count from 47 to 48 in READY enters WORN and raises WORN, and every
run ends (R41, R135). -/
def Obligations.ErasesEnd : Prop :=
  ∀ (s : State) (u : UnitId) (t0 : Time), s.running = true →
    s.engine.op = some ⟨.erase, u, none, .eraseProcess, none, none, t0⟩ →
    let ru := s.unit u
    let count := min (ru.eraseCount + 1) 32767
    (s.bufs.starvedList = [] →
      ∃ t before after, exec (.eraseDone true) s = .next t ∧ t.engine = { s.engine with op := none } ∧
        (∀ a, t.array.read a = if a / 64 = u.val then erasedPage else s.array.read a) ∧
        t.map.units = vset s.map.units u ⟨.free, count, none, none, 0, 0, false⟩ ∧
        s.map.freeList = before ++ after ∧ t.map.freeList = before ++ u :: after ∧
        (∀ x ∈ before, ¬freeBefore t.map u x = true) ∧ (∀ x l, after = x :: l → freeBefore t.map u x = true) ∧
        t.map.erasesSince = min (s.map.erasesSince + 1) 65535 ∧
        (32 ≤ s.map.erasesSince + 1 → t.ctl.ckptPending = true) ∧
        (s.map.erasesSince + 1 < 32 → s.ctl.device ≠ .shuttingDown → t.ctl.ckptPending = s.ctl.ckptPending) ∧
        t.map.dirtyList = s.map.dirtyList ∧ t.streams = s.streams ∧ t.bufs = s.bufs) ∧
    (s.map.retiredCount = 47 → s.ctl.device = .ready →
      ∃ t, exec (.eraseDone false) s = .next t ∧ t.engine = { s.engine with op := none } ∧ t.ctl.device = .worn ∧
        t.notices.pendingSet.getLsbD 9 = true ∧ t.notices.pendingSet.getLsbD 7 = true ∧ u ∈ t.map.retiredSet ∧
        t.map.retiredCount = 48 ∧ t.ctl.ckptPending = true ∧ t.bufs.starvedList = [] ∧
        (∀ a, a / 64 ≠ u.val → t.array.read a = s.array.read a) ∧
        ∀ f, ((s.stream f).state = .capturing → (t.stream f).state = .bound ∧ (t.stream f).endCause = some .worn) ∧
          ((s.stream f).state = .armed → (t.stream f).state = .bound)) ∧
    (s.map.retiredCount ≠ 47 ∨ s.ctl.device ≠ .ready →
      ∃ t, exec (.eraseDone false) s = .next t ∧ t.engine = { s.engine with op := none } ∧ t.ctl.device = s.ctl.device ∧
        (∀ a, a / 64 ≠ u.val → t.array.read a = s.array.read a) ∧
        t.map.units = vset s.map.units u (unitOut .retired ru) ∧ t.map.freeList = s.map.freeList ∧
        t.map.dirtyList = s.map.dirtyList ∧ u ∈ t.map.retiredSet ∧ t.map.retiredCount = s.map.retiredCount + 1 ∧
        t.ctl.ckptPending = true ∧ t.notices.pendingSet.getLsbD 7 = true ∧ t.streams = s.streams ∧ t.bufs = s.bufs)

/-- PROGRAM_TIMEOUT, READ_TIMEOUT, ERASE_TIMEOUT, their done reports and LATE_DONE_DISCARD (R7 to R9, R12, R40): 2000 µs after its start a
PROGRAM ends as a FAIL, its slot INVALID, and after 15000 µs an ERASE ends as a FAIL, the units beside its own untouched and a data unit retired; 400 µs
after its start a READ ends as a TIMEOUT, which leaves the array unchanged. Before that, and without an operation of its kind, a timeout has
no effect, nor has a done report without its operation: that these change nothing is the model's inference (assumption 7), and that a timeout
that is due may come late is its choice (assumption 9). -/
def Obligations.TimeoutsAndLateReports : Prop :=
  (∀ s : State, exec .lateDoneDiscard s = .next s) ∧
  (∀ s : State, s.running = true → (∀ op, s.engine.op = some op → op.kind ≠ .program) →
    (∀ pass, exec (.programDone pass) s = .next (settle s s)) ∧ exec .programTimeout s = .next (settle s s)) ∧
  (∀ s : State, s.running = true → (∀ op, s.engine.op = some op → op.kind ≠ .read) →
    (∀ page, exec (.readDone page) s = .next (settle s s)) ∧ exec .readTimeout s = .next (settle s s)) ∧
  (∀ s : State, s.running = true → (∀ op, s.engine.op = some op → op.kind ≠ .erase) →
    (∀ pass, exec (.eraseDone pass) s = .next (settle s s)) ∧ exec .eraseTimeout s = .next (settle s s)) ∧
  ∀ (s : State) (op : Operation), s.running = true → s.engine.op = some op →
    let since := (s.time - op.startTime).toNat
    (op.kind = .program → 2000 ≤ since → ∀ k, op.slot = some k →
      ∃ t, exec .programTimeout s = .next t ∧ exec (.programDone false) s = .next t ∧ t.engine = { s.engine with op := none } ∧
        slotSpoiled op.unit k s t) ∧
    (op.kind = .program → since < 2000 → exec .programTimeout s = .next (settle s s)) ∧
    (op.kind = .erase → 15000 ≤ since →
      ∃ t, exec .eraseTimeout s = .next t ∧ exec (.eraseDone false) s = .next t ∧ t.engine = { s.engine with op := none } ∧
        (∀ a, a / 64 ≠ op.unit.val → t.array.read a = s.array.read a) ∧
        (op.requester = .eraseProcess → op.unit ∈ t.map.retiredSet ∧ t.map.retiredCount = s.map.retiredCount + 1 ∧
          t.ctl.ckptPending = true ∧ t.notices.pendingSet.getLsbD 7 = true)) ∧
    (op.kind = .erase → since < 15000 → exec .eraseTimeout s = .next (settle s s)) ∧
    (op.kind = .read → 400 ≤ since →
      ∃ t, exec .readTimeout s = .next t ∧ t.engine = { s.engine with op := none } ∧ t.array = s.array) ∧
    (op.kind = .read → since < 400 → exec .readTimeout s = .next (settle s s))

/-! ## Hand-overs within the block -/

/-- BUFFER_GRANT, STARVED_RELIEF, RELOCATION_START, FLUSH_COMPLETE and SHUTDOWN_COMPLETE (R36, R93, R96, R106, R114, R118, R119, R183), each in a state
that meets its condition, and without it no effect; relief is stated for 25 free units, of which it takes one. The model's choices: that they
are commands of their own, beside the happenings that take them at once (assumption 14), that the pool's head is the buffer granted
(assumption 21), and that the shutdown record keeps the outcome of the final checkpoint (assumption 26). -/
def Obligations.HandOversTakeTheirCondition : Prop :=
  ∀ s : State, s.running = true →
    (∀ b pool st rest, s.bufs.pool = b :: pool → s.bufs.waitList = st :: rest →
      let r := s.stream st
      exec .bufferGrant s = .next (settle s { s with
        streams := vset s.streams st { r with overrun := false }
        bufs := { s.bufs with
          pool := pool
          waitList := rest
          bufs := vset s.bufs.bufs b ⟨.fill st, [], none, 0, none, none, none⟩
          fill := vset s.bufs.fill st (some b) } })) ∧
    (s.bufs.pool = [] ∨ s.bufs.waitList = [] → exec .bufferGrant s = .next (settle s s)) ∧
    (∀ st l b i u free, s.bufs.starvedList = st :: l → s.heldBuf st = some b → (s.buf b).sealed = some i →
      s.map.freeList = u :: free → free.length = 24 →
      ∃ t, exec .starvedRelief s = .next t ∧ t.map.freeList = free ∧ t.chain st = s.chain st ++ [u] ∧
        t.unit u = ⟨.opened, (s.unit u).eraseCount, some st, some i.pageNumber, 1, 0, false⟩ ∧
        (∀ v, v ≠ u → t.unit v = s.unit v) ∧ t.bufs.queue = s.bufs.queue ++ [⟨b, st, u, 0, i.pageNumber⟩] ∧
        t.heldBuf st = none ∧ t.bufs.starvedList = l.filter (· ≠ st) ∧ (t.stream st).starved = false ∧
        (∀ f, f ≠ st → t.stream f = s.stream f) ∧ t.notices.pendingSet.getLsbD 8 = true ∧ t.link.replies = s.link.replies) ∧
    (s.bufs.starvedList = [] ∨ s.map.freeList.length ≤ 24 → exec .starvedRelief s = .next (settle s s)) ∧
    (∀ w rest v free, s.reloc.current = none → s.reloc.waitList = w :: rest → s.map.freeList = v :: free →
      ∃ t, exec .relocationStart s = .next t ∧ t.reloc.waitList = rest ∧ t.map.freeList = free ∧
        t.reloc.current = some ⟨w.stream, w.source, w.slot, w.buf, some v, 1, 0, copyBegins w.slot⟩ ∧
        t.unit v = ⟨.target, (s.unit v).eraseCount, some w.stream, some ((s.unit w.source).firstPage.getD 0), 0, 0, false⟩ ∧
        (∀ x, x ≠ v → t.unit x = s.unit x) ∧ t.streams = s.streams ∧ t.bufs = s.bufs) ∧
    (s.reloc.current ≠ none ∨ s.reloc.waitList = [] → exec .relocationStart s = .next (settle s s)) ∧
    (let due := fun st : StreamId => let r := s.stream st
      if r.state = .faulted then some Status.fault else if r.starved then some .noSpace else if r.inFlight = 0 then some .ok else none
    ∃ t, exec .flushComplete s = .next t ∧ t.bufs.flushWaiters = s.bufs.flushWaiters.filter (fun w => (due w.stream).isNone) ∧
      (∀ w ∈ s.bufs.flushWaiters, ∀ st, due w.stream = some st →
        replyOf .flush w.tag st (n8 w.stream.val ++ [streamStateCode (s.stream w.stream).state] ++ b8 w.sealed ++
          n32 (s.stream w.stream).endPage) ∈ t.link.replies) ∧
      t.streams = s.streams ∧ t.map = s.map ∧ t.bufs.queue = s.bufs.queue) ∧
    (∀ x ok, s.ctl.shutdown = some x → x.outcome = some ok →
      ∃ t, exec .shutdownComplete s = .next t ∧ t.ctl.device = .halted ∧ t.ctl.shutdown = none ∧
        (∀ n, t.timer n = { s.timer n with running := false, remaining := 0 }) ∧
        t.link.replies = s.link.replies ++
          [replyOf .shutdown x.tag (if ok then .ok else .fault) (n32 s.ctl.seqNo)] ∧
        t.streams = s.streams ∧ t.map = s.map) ∧
    ((∀ x, s.ctl.shutdown = some x → x.outcome = none) → exec .shutdownComplete s = .next (settle s s))

/-! ## Mount -/

/-- The reads of the mount scan, as they end in a done report or at their timeout (R167, R174 to R177): what the scan holds and reads next. A table
slot's header and commit page, its entry pages when the commit mark is there, then the next table slot; after the last one the copy with the
highest sequence number gives the erase counts, the retired units and the table position. A unit's slots 0 and 63, then its valid pages one by
one, or the slots between when both are BLANK; what the last read of a unit settles about it joins the results, and the scan goes on at the next
unit that is not RETIRED. The end of the scan behind its last unit is MountSettlesTheMap's. -/
def Obligations.MountScanGoesOn : Prop :=
  ∀ (c : Instr) (res : ReadResult) (s : State) (op : Operation) (sc : Scan), s.running = true → s.engine.op = some op →
    op.kind = .read → op.requester = .mountStep → s.ctl.scan = some sc → scanRead c op s res →
    let goes := fun (u : State) (best : Option TableCopy) (used : Vector (Option Nat) 2) (results : List ScanResult) (pos : ScanPos) =>
      exec c s = .next (settle s { u with
        engine := { s.engine with op := none }
        ctl := { u.ctl with scan := some ⟨pos, best, used, results, some res.page⟩ } })
    let on := goes s sc.best sc.highUsed sc.results
    let slotEnds := fun (k : Fin 16) (hdr cmt : ReadResult) (es : List ReadResult) =>
      let best := chosenAfter sc.best k hdr cmt es
      let used := if hdr.cls = .blank ∧ cmt.cls = .blank then sc.highUsed
        else vset sc.highUsed (if k.val < 8 then 0 else 1) (some (k.val % 8))
      (∀ next : Fin 16, next.val = k.val + 1 → goes s best used sc.results (.header next)) ∧
      (k.val = 15 →
        let u := withCopy best used s
        (∀ v, firstToScan u.map 2 v → goes u best used sc.results (.slot0 v)) ∧
        (nothingToScan u.map 2 → ∃ t, exec c s = .next t ∧ t.ctl.scan = none ∧ (t.ctl.device = .ready ∨ t.ctl.device = .worn) ∧
          t.notices.pendingSet.getLsbD 0 = true))
    (∀ k, sc.pos = .header k → on (.commit k res)) ∧
    (∀ k hdr, sc.pos = .commit k hdr →
      let mark := res.cls = .valid ∧ wordAt res.page 0 = 0xC0A5 ∧ wordAt res.page 1 = 0xC0A5
      (mark → on (.entry k hdr res [])) ∧ (¬mark → slotEnds k hdr res [])) ∧
    (∀ k hdr cmt got, sc.pos = .entry k hdr cmt got →
      (got.length < 3 → on (.entry k hdr cmt (got ++ [res]))) ∧ (got.length = 3 → slotEnds k hdr cmt (got ++ [res]))) ∧
    (∀ u, sc.pos = .slot0 u → on (.slot63 u res)) ∧
    (∀ u r0, sc.pos = .slot63 u r0 →
      ((ownerIn r0).isSome = true → on (.count u r0 res 1 r0.page.tag.runNumber)) ∧
      (r0.cls = .blank → res.cls = .blank → on (.blank u 1))) ∧
    (∀ u r0 r63 k run, sc.pos = .count u r0 r63 k run → k < 62 → countsAs r0 res k = true →
      on (.count u r0 r63 (k + 1) res.page.tag.runNumber)) ∧
    (∀ u k, sc.pos = .blank u k → res.cls = .blank → k < 62 → on (.blank u (k + 1))) ∧
    ∀ u x v, foundBy sc.pos res = some (u, x) → firstToScan s.map (u.val + 1) v →
      goes s sc.best sc.highUsed (sc.results ++ [x]) (.slot0 v)

/-- The end of the mount, in the happening of the scan's last read (R51, R165, R178 to R181), for an array without a circle of origins (assumption
12). Relocation groups: a winning copy has its source retired, the losers are DIRTY. Overlaps: a unit is kept when it overlaps no kept unit that
comes before it by count and number. Chains: the kept units of a stream by first page, cut to the part behind the fourth gap from its end when
it has more than 4 gaps, so that 3 gaps stay (assumption 13), each unit with its count and its state by the table of R180. Streams with units
are DORMANT, with the end page at most 0xFFFFFFFF (assumption 28). The free list is in wear order and the dirty list in unit order, and the
device is READY, or WORN with 48 units or more retired, with MOUNT_DONE raised. -/
def Obligations.MountSettlesTheMap : Prop :=
  ∀ (c : Instr) (res : ReadResult) (s : State) (op : Operation) (sc : Scan) (u : UnitId) (x : ScanResult), s.running = true →
    s.engine.op = some op → op.kind = .read → op.requester = .mountStep → s.ctl.scan = some sc → s.ctl.device = .mounting →
    s.scanOk = true → scanRead c op s res → foundBy sc.pos res = some (u, x) → nothingToScan s.map (u.val + 1) →
    let found := sc.results ++ [x]
    let owned := ownedIn found
    noCircle owned →
    ∃ (t : State) (stays : UnitId → Prop) (kept : List Owned) (all gone chain : StreamId → List Owned) (retired dirty : List UnitId),
      exec c s = .next (settle s t) ∧
      (groupsSettled owned stays ∧ retired.Nodup ∧
        (∀ v, v ∈ retired ↔ ∃ o, groupRetires owned stays o ∧ o.unit = v)) ∧
      (kept.Nodup ∧ ∀ o, o ∈ kept ↔ groupLeaves owned stays o ∧
        ∀ y ∈ kept, takenBefore y o = true → overlaps y o = false) ∧
      (∀ f, (all f).Perm (kept.filter (fun o => o.stream = f)) ∧ (all f).Pairwise (fun a b => a.first < b.first) ∧
        chainCut (all f) (gone f) (chain f)) ∧
      (dirty.Pairwise (· < ·) ∧ ∀ v, v ∈ dirty ↔ .dirty v ∈ found ∨
        ∃ o ∈ owned, o.unit = v ∧ (¬stays v ∨ (groupLeaves owned stays o ∧ o ∉ kept) ∨ ∃ f, o ∈ gone f)) ∧
      (∀ f, chain f = [] → t.chain f = s.chain f ∧ t.stream f = s.stream f) ∧
      (∀ f a z, (chain f).head? = some a → (chain f).getLast? = some z →
        t.chain f = (chain f).map (·.unit) ∧
        t.stream f = { StreamRec.undefined with
          state := .dormant
          basePage := a.first
          endPage := min (z.first + z.count) 0xFFFFFFFF
          runNumber := z.lastRun
          gaps := gapsIn (chain f) }) ∧
      (∀ f, ∀ o ∈ chain f, t.unit o.unit =
        mountedUnit (owned.any (fun v => isCopyOf v o)) (decide ((chain f).getLast? = some o)) o (s.unit o.unit).eraseCount) ∧
      (∀ v ∈ retired, t.unit v = unitOut .retired (s.unit v) ∧ v ∈ t.map.retiredSet ∧ t.ctl.ckptPending = true ∧
        t.notices.pendingSet.getLsbD 7 = true) ∧
      (∀ v ∈ dirty, t.unit v = unitOut .dirty (s.unit v)) ∧ (∀ v, .free v ∈ found → t.unit v = unitOut .free (s.unit v)) ∧
      (∀ v, (∀ y ∈ found, y.about ≠ v) → t.unit v = s.unit v) ∧
      t.map.dirtyList = s.map.dirtyList ++ dirty ∧ t.map.retiredCount = s.map.retiredCount + retired.length ∧
      t.map.freeList.Perm (s.map.freeList ++ (found.filter (fun y => y == .free y.about)).map (·.about)) ∧
      (s.map.freeList.Pairwise (fun a b => freeBefore s.map b a = false) →
        t.map.freeList.Pairwise (fun a b => freeBefore t.map b a = false)) ∧
      t.ctl.scan = none ∧ t.ctl.device = (if 48 ≤ t.map.retiredCount then .worn else .ready) ∧
      t.notices.pendingSet.getLsbD 0 = true ∧ t.engine = { s.engine with op := none } ∧ t.array = s.array ∧ t.bufs = s.bufs ∧
      t.link = s.link ∧ t.lanes = s.lanes ∧ t.triggers = s.triggers ∧ t.reads = s.reads ∧ t.reloc = s.reloc ∧
      t.ctl.seqNo = s.ctl.seqNo ∧ t.ctl.tableUnit = s.ctl.tableUnit ∧ t.ctl.nextSlot = s.ctl.nextSlot

/-! ## Wear and the invariants -/

/-- WORN entry (R58, R107, R135): at the end of the happening that takes the device from READY to WORN, every CAPTURING stream has ended its run
with cause WORN, every ARMED stream is BOUND, and no page stays held: a page held before, and a page that a run end seals and cannot place, is
discarded, its stream's end page set back to its number, with PAGE_LOST. The streams so discarded, and no stream that neither was STARVED nor
CAPTURING, are noted for the FLUSH requests that follow (R137): the note is the model's own field (assumption 34). -/
def Obligations.WornEntryEndsTheRuns : Prop :=
  ∀ a u : State, a.ctl.device = .ready → u.ctl.device = .worn →
    let t := settle a u
    t.ctl.device = .worn ∧ t.bufs.starvedList = [] ∧ t.engine = u.engine ∧ t.lanes = u.lanes ∧ t.triggers = u.triggers ∧
    (∀ f b i, holdsAlone f b i u → pageDiscarded f b i.pageNumber ((u.stream f).inFlight - 1) u t ∧ f ∈ t.bufs.heldAtWorn) ∧
    (∀ f b, sealsToHeld f b u → pageDiscarded f b (u.stream f).endPage (u.stream f).inFlight u t ∧ f ∈ t.bufs.heldAtWorn) ∧
    (∀ f ∈ t.bufs.heldAtWorn, f ∈ u.bufs.starvedList ∨ (u.stream f).state = .capturing) ∧
    ∀ f, ((u.stream f).state = .capturing → (t.stream f).state = .bound ∧ (t.stream f).endCause = some .worn) ∧
      ((u.stream f).state = .armed → (t.stream f).state = .bound ∧ (t.stream f).endCause = (u.stream f).endCause) ∧
      ((u.stream f).state ≠ .capturing → (u.stream f).state ≠ .armed →
        (t.stream f).state = (u.stream f).state ∧ (t.stream f).endCause = (u.stream f).endCause)

/-- Every step keeps the canonical form of the array: addresses strictly rising, and no entry that reads as an erased slot does. That form is the
model's choice (assumption 31); R1 says only what an erased slot reads. -/
def Obligations.ArrayFormKept : Prop :=
  ∀ s t : State, s.array.wf = true → step s = .next t → t.array.wf = true

/-- Every step keeps the invariants: at most four outstanding requests with distinct tags and none 0 (R195), the backlog and its overflow flag
(R204, R206), the timers' remaining ticks (R86, R87, R89), the lanes that listen exactly while a stream names them (R71), the device state with
the scan and the shutdown record (R165, R166, R182), and the results of the scan in unit order (R174, R177). The device state moves only by
the table of R166, but for a reset. -/
def Obligations.InvariantsKept : Prop :=
  ∀ s t : State, step s = .next t →
    (s.windowOk = true → t.windowOk = true) ∧ (s.backlogOk = true → t.backlogOk = true) ∧
    (s.timersOk = true → t.timersOk = true) ∧ (s.scanOk = true → t.scanOk = true) ∧ (s.bindingOk = true → s.deviceOk = true → t.bindingOk = true) ∧
    (s.deviceOk = true → t.deviceOk = true ∧ (deviceMove s.ctl.device t.ctl.device = true ∨ t.ctl.device = .mounting))

end
end

