-- ==== Sys2Proof/Laws/State.lean ====
section
/-!
SUPPORT. One lemma per field per update of State: what each accessor of Machine/Ops.lean leaves and what it writes, so that no later
proof unfolds a record update.
-/
-- The theorems of this file are elaborated one after another: in parallel their waiting threads exceed the memory limit of the check.
set_option Elab.async false

namespace Sys2Proof.Machine

variable (s : State)

/-! ### setUnit -/
@[simp] theorem State.setUnit_pending (u : UnitId) (r : UnitRec) : (s.setUnit u r).pending = s.pending := rfl
@[simp] theorem State.setUnit_powered (u : UnitId) (r : UnitRec) : (s.setUnit u r).powered = s.powered := rfl
@[simp] theorem State.setUnit_rstLow (u : UnitId) (r : UnitRec) : (s.setUnit u r).rstLow = s.rstLow := rfl
@[simp] theorem State.setUnit_time (u : UnitId) (r : UnitRec) : (s.setUnit u r).time = s.time := rfl
@[simp] theorem State.setUnit_array (u : UnitId) (r : UnitRec) : (s.setUnit u r).array = s.array := rfl
@[simp] theorem State.setUnit_engine (u : UnitId) (r : UnitRec) : (s.setUnit u r).engine = s.engine := rfl
@[simp] theorem State.setUnit_streams (u : UnitId) (r : UnitRec) : (s.setUnit u r).streams = s.streams := rfl
@[simp] theorem State.setUnit_lanes (u : UnitId) (r : UnitRec) : (s.setUnit u r).lanes = s.lanes := rfl
@[simp] theorem State.setUnit_triggers (u : UnitId) (r : UnitRec) : (s.setUnit u r).triggers = s.triggers := rfl
@[simp] theorem State.setUnit_bufs (u : UnitId) (r : UnitRec) : (s.setUnit u r).bufs = s.bufs := rfl
@[simp] theorem State.setUnit_reloc (u : UnitId) (r : UnitRec) : (s.setUnit u r).reloc = s.reloc := rfl
@[simp] theorem State.setUnit_reads (u : UnitId) (r : UnitRec) : (s.setUnit u r).reads = s.reads := rfl
@[simp] theorem State.setUnit_ctl (u : UnitId) (r : UnitRec) : (s.setUnit u r).ctl = s.ctl := rfl
@[simp] theorem State.setUnit_link (u : UnitId) (r : UnitRec) : (s.setUnit u r).link = s.link := rfl
@[simp] theorem State.setUnit_notices (u : UnitId) (r : UnitRec) : (s.setUnit u r).notices = s.notices := rfl
@[simp] theorem State.setUnit_freeUsed (u : UnitId) (r : UnitRec) : (s.setUnit u r).freeUsed = s.freeUsed := rfl
@[simp] theorem State.setUnit_map_freeList (u : UnitId) (r : UnitRec) : (s.setUnit u r).map.freeList = s.map.freeList := rfl
@[simp] theorem State.setUnit_map_dirtyList (u : UnitId) (r : UnitRec) : (s.setUnit u r).map.dirtyList = s.map.dirtyList := rfl
@[simp] theorem State.setUnit_map_chains (u : UnitId) (r : UnitRec) : (s.setUnit u r).map.chains = s.map.chains := rfl
@[simp] theorem State.setUnit_map_retiredSet (u : UnitId) (r : UnitRec) : (s.setUnit u r).map.retiredSet = s.map.retiredSet := rfl
@[simp] theorem State.setUnit_map_retiredCount (u : UnitId) (r : UnitRec) : (s.setUnit u r).map.retiredCount = s.map.retiredCount := rfl
@[simp] theorem State.setUnit_map_erasesSince (u : UnitId) (r : UnitRec) : (s.setUnit u r).map.erasesSince = s.map.erasesSince := rfl
@[simp] theorem State.setUnit_unit (u : UnitId) (r : UnitRec) : (s.setUnit u r).unit u = r := by simp [State.setUnit, State.unit]
theorem State.setUnit_unit_ite (u : UnitId) (r : UnitRec) (j : UnitId) : (s.setUnit u r).unit j = if u = j then r else s.unit j := by
  simp [State.setUnit, State.unit, vget_vset]
@[simp] theorem State.setUnit_unit_ne (u : UnitId) (r : UnitRec) (j : UnitId) (h : u ≠ j) : (s.setUnit u r).unit j = s.unit j := by
  simp [State.setUnit_unit_ite, h]
@[simp] theorem State.setUnit_chain (u : UnitId) (r : UnitRec) (j : StreamId) : (s.setUnit u r).chain j = s.chain j := rfl
@[simp] theorem State.setUnit_stream (u : UnitId) (r : UnitRec) (j : StreamId) : (s.setUnit u r).stream j = s.stream j := rfl
@[simp] theorem State.setUnit_lane (u : UnitId) (r : UnitRec) (j : LaneId) : (s.setUnit u r).lane j = s.lane j := rfl
@[simp] theorem State.setUnit_timer (u : UnitId) (r : UnitRec) (j : TimerId) : (s.setUnit u r).timer j = s.timer j := rfl
@[simp] theorem State.setUnit_buf (u : UnitId) (r : UnitRec) (j : BufId) : (s.setUnit u r).buf j = s.buf j := rfl
@[simp] theorem State.setUnit_fillBuf (u : UnitId) (r : UnitRec) (j : StreamId) : (s.setUnit u r).fillBuf j = s.fillBuf j := rfl
@[simp] theorem State.setUnit_heldBuf (u : UnitId) (r : UnitRec) (j : StreamId) : (s.setUnit u r).heldBuf j = s.heldBuf j := rfl
@[simp] theorem State.setUnit_stagingBuf (u : UnitId) (r : UnitRec) (j : StagingId) : (s.setUnit u r).stagingBuf j = s.stagingBuf j := rfl
@[simp] theorem State.setUnit_running (u : UnitId) (r : UnitRec) : (s.setUnit u r).running = s.running := rfl
@[simp] theorem State.setUnit_freeCount (u : UnitId) (r : UnitRec) : (s.setUnit u r).freeCount = s.freeCount := rfl

/-! ### setChain -/
@[simp] theorem State.setChain_pending (st : StreamId) (c : List UnitId) : (s.setChain st c).pending = s.pending := rfl
@[simp] theorem State.setChain_powered (st : StreamId) (c : List UnitId) : (s.setChain st c).powered = s.powered := rfl
@[simp] theorem State.setChain_rstLow (st : StreamId) (c : List UnitId) : (s.setChain st c).rstLow = s.rstLow := rfl
@[simp] theorem State.setChain_time (st : StreamId) (c : List UnitId) : (s.setChain st c).time = s.time := rfl
@[simp] theorem State.setChain_array (st : StreamId) (c : List UnitId) : (s.setChain st c).array = s.array := rfl
@[simp] theorem State.setChain_engine (st : StreamId) (c : List UnitId) : (s.setChain st c).engine = s.engine := rfl
@[simp] theorem State.setChain_streams (st : StreamId) (c : List UnitId) : (s.setChain st c).streams = s.streams := rfl
@[simp] theorem State.setChain_lanes (st : StreamId) (c : List UnitId) : (s.setChain st c).lanes = s.lanes := rfl
@[simp] theorem State.setChain_triggers (st : StreamId) (c : List UnitId) : (s.setChain st c).triggers = s.triggers := rfl
@[simp] theorem State.setChain_bufs (st : StreamId) (c : List UnitId) : (s.setChain st c).bufs = s.bufs := rfl
@[simp] theorem State.setChain_reloc (st : StreamId) (c : List UnitId) : (s.setChain st c).reloc = s.reloc := rfl
@[simp] theorem State.setChain_reads (st : StreamId) (c : List UnitId) : (s.setChain st c).reads = s.reads := rfl
@[simp] theorem State.setChain_ctl (st : StreamId) (c : List UnitId) : (s.setChain st c).ctl = s.ctl := rfl
@[simp] theorem State.setChain_link (st : StreamId) (c : List UnitId) : (s.setChain st c).link = s.link := rfl
@[simp] theorem State.setChain_notices (st : StreamId) (c : List UnitId) : (s.setChain st c).notices = s.notices := rfl
@[simp] theorem State.setChain_freeUsed (st : StreamId) (c : List UnitId) : (s.setChain st c).freeUsed = s.freeUsed := rfl
@[simp] theorem State.setChain_map_units (st : StreamId) (c : List UnitId) : (s.setChain st c).map.units = s.map.units := rfl
@[simp] theorem State.setChain_map_freeList (st : StreamId) (c : List UnitId) : (s.setChain st c).map.freeList = s.map.freeList := rfl
@[simp] theorem State.setChain_map_dirtyList (st : StreamId) (c : List UnitId) : (s.setChain st c).map.dirtyList = s.map.dirtyList := rfl
@[simp] theorem State.setChain_map_retiredSet (st : StreamId) (c : List UnitId) : (s.setChain st c).map.retiredSet = s.map.retiredSet := rfl
@[simp] theorem State.setChain_map_retiredCount (st : StreamId) (c : List UnitId) : (s.setChain st c).map.retiredCount = s.map.retiredCount := rfl
@[simp] theorem State.setChain_map_erasesSince (st : StreamId) (c : List UnitId) : (s.setChain st c).map.erasesSince = s.map.erasesSince := rfl
@[simp] theorem State.setChain_unit (st : StreamId) (c : List UnitId) (j : UnitId) : (s.setChain st c).unit j = s.unit j := rfl
@[simp] theorem State.setChain_chain (st : StreamId) (c : List UnitId) : (s.setChain st c).chain st = c := by simp [State.setChain, State.chain]
theorem State.setChain_chain_ite (st : StreamId) (c : List UnitId) (j : StreamId) : (s.setChain st c).chain j = if st = j then c else s.chain j := by
  simp [State.setChain, State.chain, vget_vset]
@[simp] theorem State.setChain_chain_ne (st : StreamId) (c : List UnitId) (j : StreamId) (h : st ≠ j) : (s.setChain st c).chain j = s.chain j := by
  simp [State.setChain_chain_ite, h]
@[simp] theorem State.setChain_stream (st : StreamId) (c : List UnitId) (j : StreamId) : (s.setChain st c).stream j = s.stream j := rfl
@[simp] theorem State.setChain_lane (st : StreamId) (c : List UnitId) (j : LaneId) : (s.setChain st c).lane j = s.lane j := rfl
@[simp] theorem State.setChain_timer (st : StreamId) (c : List UnitId) (j : TimerId) : (s.setChain st c).timer j = s.timer j := rfl
@[simp] theorem State.setChain_buf (st : StreamId) (c : List UnitId) (j : BufId) : (s.setChain st c).buf j = s.buf j := rfl
@[simp] theorem State.setChain_fillBuf (st : StreamId) (c : List UnitId) (j : StreamId) : (s.setChain st c).fillBuf j = s.fillBuf j := rfl
@[simp] theorem State.setChain_heldBuf (st : StreamId) (c : List UnitId) (j : StreamId) : (s.setChain st c).heldBuf j = s.heldBuf j := rfl
@[simp] theorem State.setChain_stagingBuf (st : StreamId) (c : List UnitId) (j : StagingId) : (s.setChain st c).stagingBuf j = s.stagingBuf j := rfl
@[simp] theorem State.setChain_running (st : StreamId) (c : List UnitId) : (s.setChain st c).running = s.running := rfl
@[simp] theorem State.setChain_freeCount (st : StreamId) (c : List UnitId) : (s.setChain st c).freeCount = s.freeCount := rfl

/-! ### setFreeList -/
@[simp] theorem State.setFreeList_pending (l : List UnitId) : (s.setFreeList l).pending = s.pending := rfl
@[simp] theorem State.setFreeList_powered (l : List UnitId) : (s.setFreeList l).powered = s.powered := rfl
@[simp] theorem State.setFreeList_rstLow (l : List UnitId) : (s.setFreeList l).rstLow = s.rstLow := rfl
@[simp] theorem State.setFreeList_time (l : List UnitId) : (s.setFreeList l).time = s.time := rfl
@[simp] theorem State.setFreeList_array (l : List UnitId) : (s.setFreeList l).array = s.array := rfl
@[simp] theorem State.setFreeList_engine (l : List UnitId) : (s.setFreeList l).engine = s.engine := rfl
@[simp] theorem State.setFreeList_streams (l : List UnitId) : (s.setFreeList l).streams = s.streams := rfl
@[simp] theorem State.setFreeList_lanes (l : List UnitId) : (s.setFreeList l).lanes = s.lanes := rfl
@[simp] theorem State.setFreeList_triggers (l : List UnitId) : (s.setFreeList l).triggers = s.triggers := rfl
@[simp] theorem State.setFreeList_bufs (l : List UnitId) : (s.setFreeList l).bufs = s.bufs := rfl
@[simp] theorem State.setFreeList_reloc (l : List UnitId) : (s.setFreeList l).reloc = s.reloc := rfl
@[simp] theorem State.setFreeList_reads (l : List UnitId) : (s.setFreeList l).reads = s.reads := rfl
@[simp] theorem State.setFreeList_ctl (l : List UnitId) : (s.setFreeList l).ctl = s.ctl := rfl
@[simp] theorem State.setFreeList_link (l : List UnitId) : (s.setFreeList l).link = s.link := rfl
@[simp] theorem State.setFreeList_notices (l : List UnitId) : (s.setFreeList l).notices = s.notices := rfl
@[simp] theorem State.setFreeList_freeUsed (l : List UnitId) : (s.setFreeList l).freeUsed = s.freeUsed := rfl
@[simp] theorem State.setFreeList_map_units (l : List UnitId) : (s.setFreeList l).map.units = s.map.units := rfl
@[simp] theorem State.setFreeList_map_dirtyList (l : List UnitId) : (s.setFreeList l).map.dirtyList = s.map.dirtyList := rfl
@[simp] theorem State.setFreeList_map_chains (l : List UnitId) : (s.setFreeList l).map.chains = s.map.chains := rfl
@[simp] theorem State.setFreeList_map_retiredSet (l : List UnitId) : (s.setFreeList l).map.retiredSet = s.map.retiredSet := rfl
@[simp] theorem State.setFreeList_map_retiredCount (l : List UnitId) : (s.setFreeList l).map.retiredCount = s.map.retiredCount := rfl
@[simp] theorem State.setFreeList_map_erasesSince (l : List UnitId) : (s.setFreeList l).map.erasesSince = s.map.erasesSince := rfl
@[simp] theorem State.setFreeList_map_freeList (l : List UnitId) : (s.setFreeList l).map.freeList = l := rfl
@[simp] theorem State.setFreeList_unit (l : List UnitId) (j : UnitId) : (s.setFreeList l).unit j = s.unit j := rfl
@[simp] theorem State.setFreeList_chain (l : List UnitId) (j : StreamId) : (s.setFreeList l).chain j = s.chain j := rfl
@[simp] theorem State.setFreeList_stream (l : List UnitId) (j : StreamId) : (s.setFreeList l).stream j = s.stream j := rfl
@[simp] theorem State.setFreeList_lane (l : List UnitId) (j : LaneId) : (s.setFreeList l).lane j = s.lane j := rfl
@[simp] theorem State.setFreeList_timer (l : List UnitId) (j : TimerId) : (s.setFreeList l).timer j = s.timer j := rfl
@[simp] theorem State.setFreeList_buf (l : List UnitId) (j : BufId) : (s.setFreeList l).buf j = s.buf j := rfl
@[simp] theorem State.setFreeList_fillBuf (l : List UnitId) (j : StreamId) : (s.setFreeList l).fillBuf j = s.fillBuf j := rfl
@[simp] theorem State.setFreeList_heldBuf (l : List UnitId) (j : StreamId) : (s.setFreeList l).heldBuf j = s.heldBuf j := rfl
@[simp] theorem State.setFreeList_stagingBuf (l : List UnitId) (j : StagingId) : (s.setFreeList l).stagingBuf j = s.stagingBuf j := rfl
@[simp] theorem State.setFreeList_running (l : List UnitId) : (s.setFreeList l).running = s.running := rfl
@[simp] theorem State.setFreeList_freeCount (l : List UnitId) : (s.setFreeList l).freeCount = l.length := rfl

/-! ### setDirtyList -/
@[simp] theorem State.setDirtyList_pending (l : List UnitId) : (s.setDirtyList l).pending = s.pending := rfl
@[simp] theorem State.setDirtyList_powered (l : List UnitId) : (s.setDirtyList l).powered = s.powered := rfl
@[simp] theorem State.setDirtyList_rstLow (l : List UnitId) : (s.setDirtyList l).rstLow = s.rstLow := rfl
@[simp] theorem State.setDirtyList_time (l : List UnitId) : (s.setDirtyList l).time = s.time := rfl
@[simp] theorem State.setDirtyList_array (l : List UnitId) : (s.setDirtyList l).array = s.array := rfl
@[simp] theorem State.setDirtyList_engine (l : List UnitId) : (s.setDirtyList l).engine = s.engine := rfl
@[simp] theorem State.setDirtyList_streams (l : List UnitId) : (s.setDirtyList l).streams = s.streams := rfl
@[simp] theorem State.setDirtyList_lanes (l : List UnitId) : (s.setDirtyList l).lanes = s.lanes := rfl
@[simp] theorem State.setDirtyList_triggers (l : List UnitId) : (s.setDirtyList l).triggers = s.triggers := rfl
@[simp] theorem State.setDirtyList_bufs (l : List UnitId) : (s.setDirtyList l).bufs = s.bufs := rfl
@[simp] theorem State.setDirtyList_reloc (l : List UnitId) : (s.setDirtyList l).reloc = s.reloc := rfl
@[simp] theorem State.setDirtyList_reads (l : List UnitId) : (s.setDirtyList l).reads = s.reads := rfl
@[simp] theorem State.setDirtyList_ctl (l : List UnitId) : (s.setDirtyList l).ctl = s.ctl := rfl
@[simp] theorem State.setDirtyList_link (l : List UnitId) : (s.setDirtyList l).link = s.link := rfl
@[simp] theorem State.setDirtyList_notices (l : List UnitId) : (s.setDirtyList l).notices = s.notices := rfl
@[simp] theorem State.setDirtyList_freeUsed (l : List UnitId) : (s.setDirtyList l).freeUsed = s.freeUsed := rfl
@[simp] theorem State.setDirtyList_map_units (l : List UnitId) : (s.setDirtyList l).map.units = s.map.units := rfl
@[simp] theorem State.setDirtyList_map_freeList (l : List UnitId) : (s.setDirtyList l).map.freeList = s.map.freeList := rfl
@[simp] theorem State.setDirtyList_map_chains (l : List UnitId) : (s.setDirtyList l).map.chains = s.map.chains := rfl
@[simp] theorem State.setDirtyList_map_retiredSet (l : List UnitId) : (s.setDirtyList l).map.retiredSet = s.map.retiredSet := rfl
@[simp] theorem State.setDirtyList_map_retiredCount (l : List UnitId) : (s.setDirtyList l).map.retiredCount = s.map.retiredCount := rfl
@[simp] theorem State.setDirtyList_map_erasesSince (l : List UnitId) : (s.setDirtyList l).map.erasesSince = s.map.erasesSince := rfl
@[simp] theorem State.setDirtyList_map_dirtyList (l : List UnitId) : (s.setDirtyList l).map.dirtyList = l := rfl
@[simp] theorem State.setDirtyList_unit (l : List UnitId) (j : UnitId) : (s.setDirtyList l).unit j = s.unit j := rfl
@[simp] theorem State.setDirtyList_chain (l : List UnitId) (j : StreamId) : (s.setDirtyList l).chain j = s.chain j := rfl
@[simp] theorem State.setDirtyList_stream (l : List UnitId) (j : StreamId) : (s.setDirtyList l).stream j = s.stream j := rfl
@[simp] theorem State.setDirtyList_lane (l : List UnitId) (j : LaneId) : (s.setDirtyList l).lane j = s.lane j := rfl
@[simp] theorem State.setDirtyList_timer (l : List UnitId) (j : TimerId) : (s.setDirtyList l).timer j = s.timer j := rfl
@[simp] theorem State.setDirtyList_buf (l : List UnitId) (j : BufId) : (s.setDirtyList l).buf j = s.buf j := rfl
@[simp] theorem State.setDirtyList_fillBuf (l : List UnitId) (j : StreamId) : (s.setDirtyList l).fillBuf j = s.fillBuf j := rfl
@[simp] theorem State.setDirtyList_heldBuf (l : List UnitId) (j : StreamId) : (s.setDirtyList l).heldBuf j = s.heldBuf j := rfl
@[simp] theorem State.setDirtyList_stagingBuf (l : List UnitId) (j : StagingId) : (s.setDirtyList l).stagingBuf j = s.stagingBuf j := rfl
@[simp] theorem State.setDirtyList_running (l : List UnitId) : (s.setDirtyList l).running = s.running := rfl
@[simp] theorem State.setDirtyList_freeCount (l : List UnitId) : (s.setDirtyList l).freeCount = s.freeCount := rfl

/-! ### setStream -/
@[simp] theorem State.setStream_pending (st : StreamId) (r : StreamRec) : (s.setStream st r).pending = s.pending := rfl
@[simp] theorem State.setStream_powered (st : StreamId) (r : StreamRec) : (s.setStream st r).powered = s.powered := rfl
@[simp] theorem State.setStream_rstLow (st : StreamId) (r : StreamRec) : (s.setStream st r).rstLow = s.rstLow := rfl
@[simp] theorem State.setStream_time (st : StreamId) (r : StreamRec) : (s.setStream st r).time = s.time := rfl
@[simp] theorem State.setStream_array (st : StreamId) (r : StreamRec) : (s.setStream st r).array = s.array := rfl
@[simp] theorem State.setStream_engine (st : StreamId) (r : StreamRec) : (s.setStream st r).engine = s.engine := rfl
@[simp] theorem State.setStream_map (st : StreamId) (r : StreamRec) : (s.setStream st r).map = s.map := rfl
@[simp] theorem State.setStream_lanes (st : StreamId) (r : StreamRec) : (s.setStream st r).lanes = s.lanes := rfl
@[simp] theorem State.setStream_triggers (st : StreamId) (r : StreamRec) : (s.setStream st r).triggers = s.triggers := rfl
@[simp] theorem State.setStream_bufs (st : StreamId) (r : StreamRec) : (s.setStream st r).bufs = s.bufs := rfl
@[simp] theorem State.setStream_reloc (st : StreamId) (r : StreamRec) : (s.setStream st r).reloc = s.reloc := rfl
@[simp] theorem State.setStream_reads (st : StreamId) (r : StreamRec) : (s.setStream st r).reads = s.reads := rfl
@[simp] theorem State.setStream_ctl (st : StreamId) (r : StreamRec) : (s.setStream st r).ctl = s.ctl := rfl
@[simp] theorem State.setStream_link (st : StreamId) (r : StreamRec) : (s.setStream st r).link = s.link := rfl
@[simp] theorem State.setStream_notices (st : StreamId) (r : StreamRec) : (s.setStream st r).notices = s.notices := rfl
@[simp] theorem State.setStream_freeUsed (st : StreamId) (r : StreamRec) : (s.setStream st r).freeUsed = s.freeUsed := rfl
@[simp] theorem State.setStream_unit (st : StreamId) (r : StreamRec) (j : UnitId) : (s.setStream st r).unit j = s.unit j := rfl
@[simp] theorem State.setStream_chain (st : StreamId) (r : StreamRec) (j : StreamId) : (s.setStream st r).chain j = s.chain j := rfl
@[simp] theorem State.setStream_stream (st : StreamId) (r : StreamRec) : (s.setStream st r).stream st = r := by simp [State.setStream, State.stream]
theorem State.setStream_stream_ite (st : StreamId) (r : StreamRec) (j : StreamId) : (s.setStream st r).stream j = if st = j then r else s.stream j := by
  simp [State.setStream, State.stream, vget_vset]
@[simp] theorem State.setStream_stream_ne (st : StreamId) (r : StreamRec) (j : StreamId) (h : st ≠ j) : (s.setStream st r).stream j = s.stream j := by
  simp [State.setStream_stream_ite, h]
@[simp] theorem State.setStream_lane (st : StreamId) (r : StreamRec) (j : LaneId) : (s.setStream st r).lane j = s.lane j := rfl
@[simp] theorem State.setStream_timer (st : StreamId) (r : StreamRec) (j : TimerId) : (s.setStream st r).timer j = s.timer j := rfl
@[simp] theorem State.setStream_buf (st : StreamId) (r : StreamRec) (j : BufId) : (s.setStream st r).buf j = s.buf j := rfl
@[simp] theorem State.setStream_fillBuf (st : StreamId) (r : StreamRec) (j : StreamId) : (s.setStream st r).fillBuf j = s.fillBuf j := rfl
@[simp] theorem State.setStream_heldBuf (st : StreamId) (r : StreamRec) (j : StreamId) : (s.setStream st r).heldBuf j = s.heldBuf j := rfl
@[simp] theorem State.setStream_stagingBuf (st : StreamId) (r : StreamRec) (j : StagingId) : (s.setStream st r).stagingBuf j = s.stagingBuf j := rfl
@[simp] theorem State.setStream_running (st : StreamId) (r : StreamRec) : (s.setStream st r).running = s.running := rfl
@[simp] theorem State.setStream_freeCount (st : StreamId) (r : StreamRec) : (s.setStream st r).freeCount = s.freeCount := rfl

/-! ### setLane -/
@[simp] theorem State.setLane_pending (l : LaneId) (r : Lane) : (s.setLane l r).pending = s.pending := rfl
@[simp] theorem State.setLane_powered (l : LaneId) (r : Lane) : (s.setLane l r).powered = s.powered := rfl
@[simp] theorem State.setLane_rstLow (l : LaneId) (r : Lane) : (s.setLane l r).rstLow = s.rstLow := rfl
@[simp] theorem State.setLane_time (l : LaneId) (r : Lane) : (s.setLane l r).time = s.time := rfl
@[simp] theorem State.setLane_array (l : LaneId) (r : Lane) : (s.setLane l r).array = s.array := rfl
@[simp] theorem State.setLane_engine (l : LaneId) (r : Lane) : (s.setLane l r).engine = s.engine := rfl
@[simp] theorem State.setLane_map (l : LaneId) (r : Lane) : (s.setLane l r).map = s.map := rfl
@[simp] theorem State.setLane_streams (l : LaneId) (r : Lane) : (s.setLane l r).streams = s.streams := rfl
@[simp] theorem State.setLane_triggers (l : LaneId) (r : Lane) : (s.setLane l r).triggers = s.triggers := rfl
@[simp] theorem State.setLane_bufs (l : LaneId) (r : Lane) : (s.setLane l r).bufs = s.bufs := rfl
@[simp] theorem State.setLane_reloc (l : LaneId) (r : Lane) : (s.setLane l r).reloc = s.reloc := rfl
@[simp] theorem State.setLane_reads (l : LaneId) (r : Lane) : (s.setLane l r).reads = s.reads := rfl
@[simp] theorem State.setLane_ctl (l : LaneId) (r : Lane) : (s.setLane l r).ctl = s.ctl := rfl
@[simp] theorem State.setLane_link (l : LaneId) (r : Lane) : (s.setLane l r).link = s.link := rfl
@[simp] theorem State.setLane_notices (l : LaneId) (r : Lane) : (s.setLane l r).notices = s.notices := rfl
@[simp] theorem State.setLane_freeUsed (l : LaneId) (r : Lane) : (s.setLane l r).freeUsed = s.freeUsed := rfl
@[simp] theorem State.setLane_unit (l : LaneId) (r : Lane) (j : UnitId) : (s.setLane l r).unit j = s.unit j := rfl
@[simp] theorem State.setLane_chain (l : LaneId) (r : Lane) (j : StreamId) : (s.setLane l r).chain j = s.chain j := rfl
@[simp] theorem State.setLane_stream (l : LaneId) (r : Lane) (j : StreamId) : (s.setLane l r).stream j = s.stream j := rfl
@[simp] theorem State.setLane_lane (l : LaneId) (r : Lane) : (s.setLane l r).lane l = r := by simp [State.setLane, State.lane]
theorem State.setLane_lane_ite (l : LaneId) (r : Lane) (j : LaneId) : (s.setLane l r).lane j = if l = j then r else s.lane j := by
  simp [State.setLane, State.lane, vget_vset]
@[simp] theorem State.setLane_lane_ne (l : LaneId) (r : Lane) (j : LaneId) (h : l ≠ j) : (s.setLane l r).lane j = s.lane j := by
  simp [State.setLane_lane_ite, h]
@[simp] theorem State.setLane_timer (l : LaneId) (r : Lane) (j : TimerId) : (s.setLane l r).timer j = s.timer j := rfl
@[simp] theorem State.setLane_buf (l : LaneId) (r : Lane) (j : BufId) : (s.setLane l r).buf j = s.buf j := rfl
@[simp] theorem State.setLane_fillBuf (l : LaneId) (r : Lane) (j : StreamId) : (s.setLane l r).fillBuf j = s.fillBuf j := rfl
@[simp] theorem State.setLane_heldBuf (l : LaneId) (r : Lane) (j : StreamId) : (s.setLane l r).heldBuf j = s.heldBuf j := rfl
@[simp] theorem State.setLane_stagingBuf (l : LaneId) (r : Lane) (j : StagingId) : (s.setLane l r).stagingBuf j = s.stagingBuf j := rfl
@[simp] theorem State.setLane_running (l : LaneId) (r : Lane) : (s.setLane l r).running = s.running := rfl
@[simp] theorem State.setLane_freeCount (l : LaneId) (r : Lane) : (s.setLane l r).freeCount = s.freeCount := rfl

/-! ### setTimer -/
@[simp] theorem State.setTimer_pending (t : TimerId) (r : Timer) : (s.setTimer t r).pending = s.pending := rfl
@[simp] theorem State.setTimer_powered (t : TimerId) (r : Timer) : (s.setTimer t r).powered = s.powered := rfl
@[simp] theorem State.setTimer_rstLow (t : TimerId) (r : Timer) : (s.setTimer t r).rstLow = s.rstLow := rfl
@[simp] theorem State.setTimer_time (t : TimerId) (r : Timer) : (s.setTimer t r).time = s.time := rfl
@[simp] theorem State.setTimer_array (t : TimerId) (r : Timer) : (s.setTimer t r).array = s.array := rfl
@[simp] theorem State.setTimer_engine (t : TimerId) (r : Timer) : (s.setTimer t r).engine = s.engine := rfl
@[simp] theorem State.setTimer_map (t : TimerId) (r : Timer) : (s.setTimer t r).map = s.map := rfl
@[simp] theorem State.setTimer_streams (t : TimerId) (r : Timer) : (s.setTimer t r).streams = s.streams := rfl
@[simp] theorem State.setTimer_lanes (t : TimerId) (r : Timer) : (s.setTimer t r).lanes = s.lanes := rfl
@[simp] theorem State.setTimer_bufs (t : TimerId) (r : Timer) : (s.setTimer t r).bufs = s.bufs := rfl
@[simp] theorem State.setTimer_reloc (t : TimerId) (r : Timer) : (s.setTimer t r).reloc = s.reloc := rfl
@[simp] theorem State.setTimer_reads (t : TimerId) (r : Timer) : (s.setTimer t r).reads = s.reads := rfl
@[simp] theorem State.setTimer_ctl (t : TimerId) (r : Timer) : (s.setTimer t r).ctl = s.ctl := rfl
@[simp] theorem State.setTimer_link (t : TimerId) (r : Timer) : (s.setTimer t r).link = s.link := rfl
@[simp] theorem State.setTimer_notices (t : TimerId) (r : Timer) : (s.setTimer t r).notices = s.notices := rfl
@[simp] theorem State.setTimer_freeUsed (t : TimerId) (r : Timer) : (s.setTimer t r).freeUsed = s.freeUsed := rfl
@[simp] theorem State.setTimer_triggers_ext (t : TimerId) (r : Timer) : (s.setTimer t r).triggers.ext = s.triggers.ext := rfl
@[simp] theorem State.setTimer_unit (t : TimerId) (r : Timer) (j : UnitId) : (s.setTimer t r).unit j = s.unit j := rfl
@[simp] theorem State.setTimer_chain (t : TimerId) (r : Timer) (j : StreamId) : (s.setTimer t r).chain j = s.chain j := rfl
@[simp] theorem State.setTimer_stream (t : TimerId) (r : Timer) (j : StreamId) : (s.setTimer t r).stream j = s.stream j := rfl
@[simp] theorem State.setTimer_lane (t : TimerId) (r : Timer) (j : LaneId) : (s.setTimer t r).lane j = s.lane j := rfl
@[simp] theorem State.setTimer_timer (t : TimerId) (r : Timer) : (s.setTimer t r).timer t = r := by simp [State.setTimer, State.timer]
theorem State.setTimer_timer_ite (t : TimerId) (r : Timer) (j : TimerId) : (s.setTimer t r).timer j = if t = j then r else s.timer j := by
  simp [State.setTimer, State.timer, vget_vset]
@[simp] theorem State.setTimer_timer_ne (t : TimerId) (r : Timer) (j : TimerId) (h : t ≠ j) : (s.setTimer t r).timer j = s.timer j := by
  simp [State.setTimer_timer_ite, h]
@[simp] theorem State.setTimer_buf (t : TimerId) (r : Timer) (j : BufId) : (s.setTimer t r).buf j = s.buf j := rfl
@[simp] theorem State.setTimer_fillBuf (t : TimerId) (r : Timer) (j : StreamId) : (s.setTimer t r).fillBuf j = s.fillBuf j := rfl
@[simp] theorem State.setTimer_heldBuf (t : TimerId) (r : Timer) (j : StreamId) : (s.setTimer t r).heldBuf j = s.heldBuf j := rfl
@[simp] theorem State.setTimer_stagingBuf (t : TimerId) (r : Timer) (j : StagingId) : (s.setTimer t r).stagingBuf j = s.stagingBuf j := rfl
@[simp] theorem State.setTimer_running (t : TimerId) (r : Timer) : (s.setTimer t r).running = s.running := rfl
@[simp] theorem State.setTimer_freeCount (t : TimerId) (r : Timer) : (s.setTimer t r).freeCount = s.freeCount := rfl

/-! ### setBuf -/
@[simp] theorem State.setBuf_pending (b : BufId) (r : PageBuf) : (s.setBuf b r).pending = s.pending := rfl
@[simp] theorem State.setBuf_powered (b : BufId) (r : PageBuf) : (s.setBuf b r).powered = s.powered := rfl
@[simp] theorem State.setBuf_rstLow (b : BufId) (r : PageBuf) : (s.setBuf b r).rstLow = s.rstLow := rfl
@[simp] theorem State.setBuf_time (b : BufId) (r : PageBuf) : (s.setBuf b r).time = s.time := rfl
@[simp] theorem State.setBuf_array (b : BufId) (r : PageBuf) : (s.setBuf b r).array = s.array := rfl
@[simp] theorem State.setBuf_engine (b : BufId) (r : PageBuf) : (s.setBuf b r).engine = s.engine := rfl
@[simp] theorem State.setBuf_map (b : BufId) (r : PageBuf) : (s.setBuf b r).map = s.map := rfl
@[simp] theorem State.setBuf_streams (b : BufId) (r : PageBuf) : (s.setBuf b r).streams = s.streams := rfl
@[simp] theorem State.setBuf_lanes (b : BufId) (r : PageBuf) : (s.setBuf b r).lanes = s.lanes := rfl
@[simp] theorem State.setBuf_triggers (b : BufId) (r : PageBuf) : (s.setBuf b r).triggers = s.triggers := rfl
@[simp] theorem State.setBuf_reloc (b : BufId) (r : PageBuf) : (s.setBuf b r).reloc = s.reloc := rfl
@[simp] theorem State.setBuf_reads (b : BufId) (r : PageBuf) : (s.setBuf b r).reads = s.reads := rfl
@[simp] theorem State.setBuf_ctl (b : BufId) (r : PageBuf) : (s.setBuf b r).ctl = s.ctl := rfl
@[simp] theorem State.setBuf_link (b : BufId) (r : PageBuf) : (s.setBuf b r).link = s.link := rfl
@[simp] theorem State.setBuf_notices (b : BufId) (r : PageBuf) : (s.setBuf b r).notices = s.notices := rfl
@[simp] theorem State.setBuf_freeUsed (b : BufId) (r : PageBuf) : (s.setBuf b r).freeUsed = s.freeUsed := rfl
@[simp] theorem State.setBuf_bufs_pool (b : BufId) (r : PageBuf) : (s.setBuf b r).bufs.pool = s.bufs.pool := rfl
@[simp] theorem State.setBuf_bufs_fill (b : BufId) (r : PageBuf) : (s.setBuf b r).bufs.fill = s.bufs.fill := rfl
@[simp] theorem State.setBuf_bufs_held (b : BufId) (r : PageBuf) : (s.setBuf b r).bufs.held = s.bufs.held := rfl
@[simp] theorem State.setBuf_bufs_queue (b : BufId) (r : PageBuf) : (s.setBuf b r).bufs.queue = s.bufs.queue := rfl
@[simp] theorem State.setBuf_bufs_waitList (b : BufId) (r : PageBuf) : (s.setBuf b r).bufs.waitList = s.bufs.waitList := rfl
@[simp] theorem State.setBuf_bufs_starvedList (b : BufId) (r : PageBuf) : (s.setBuf b r).bufs.starvedList = s.bufs.starvedList := rfl
@[simp] theorem State.setBuf_bufs_heldAtWorn (b : BufId) (r : PageBuf) : (s.setBuf b r).bufs.heldAtWorn = s.bufs.heldAtWorn := rfl
@[simp] theorem State.setBuf_bufs_flushWaiters (b : BufId) (r : PageBuf) : (s.setBuf b r).bufs.flushWaiters = s.bufs.flushWaiters := rfl
@[simp] theorem State.setBuf_unit (b : BufId) (r : PageBuf) (j : UnitId) : (s.setBuf b r).unit j = s.unit j := rfl
@[simp] theorem State.setBuf_chain (b : BufId) (r : PageBuf) (j : StreamId) : (s.setBuf b r).chain j = s.chain j := rfl
@[simp] theorem State.setBuf_stream (b : BufId) (r : PageBuf) (j : StreamId) : (s.setBuf b r).stream j = s.stream j := rfl
@[simp] theorem State.setBuf_lane (b : BufId) (r : PageBuf) (j : LaneId) : (s.setBuf b r).lane j = s.lane j := rfl
@[simp] theorem State.setBuf_timer (b : BufId) (r : PageBuf) (j : TimerId) : (s.setBuf b r).timer j = s.timer j := rfl
@[simp] theorem State.setBuf_buf (b : BufId) (r : PageBuf) : (s.setBuf b r).buf b = r := by simp [State.setBuf, State.buf]
theorem State.setBuf_buf_ite (b : BufId) (r : PageBuf) (j : BufId) : (s.setBuf b r).buf j = if b = j then r else s.buf j := by
  simp [State.setBuf, State.buf, vget_vset]
@[simp] theorem State.setBuf_buf_ne (b : BufId) (r : PageBuf) (j : BufId) (h : b ≠ j) : (s.setBuf b r).buf j = s.buf j := by
  simp [State.setBuf_buf_ite, h]
@[simp] theorem State.setBuf_fillBuf (b : BufId) (r : PageBuf) (j : StreamId) : (s.setBuf b r).fillBuf j = s.fillBuf j := rfl
@[simp] theorem State.setBuf_heldBuf (b : BufId) (r : PageBuf) (j : StreamId) : (s.setBuf b r).heldBuf j = s.heldBuf j := rfl
@[simp] theorem State.setBuf_stagingBuf (b : BufId) (r : PageBuf) (j : StagingId) : (s.setBuf b r).stagingBuf j = s.stagingBuf j := rfl
@[simp] theorem State.setBuf_running (b : BufId) (r : PageBuf) : (s.setBuf b r).running = s.running := rfl
@[simp] theorem State.setBuf_freeCount (b : BufId) (r : PageBuf) : (s.setBuf b r).freeCount = s.freeCount := rfl

/-! ### setFill -/
@[simp] theorem State.setFill_pending (st : StreamId) (b : Option BufId) : (s.setFill st b).pending = s.pending := rfl
@[simp] theorem State.setFill_powered (st : StreamId) (b : Option BufId) : (s.setFill st b).powered = s.powered := rfl
@[simp] theorem State.setFill_rstLow (st : StreamId) (b : Option BufId) : (s.setFill st b).rstLow = s.rstLow := rfl
@[simp] theorem State.setFill_time (st : StreamId) (b : Option BufId) : (s.setFill st b).time = s.time := rfl
@[simp] theorem State.setFill_array (st : StreamId) (b : Option BufId) : (s.setFill st b).array = s.array := rfl
@[simp] theorem State.setFill_engine (st : StreamId) (b : Option BufId) : (s.setFill st b).engine = s.engine := rfl
@[simp] theorem State.setFill_map (st : StreamId) (b : Option BufId) : (s.setFill st b).map = s.map := rfl
@[simp] theorem State.setFill_streams (st : StreamId) (b : Option BufId) : (s.setFill st b).streams = s.streams := rfl
@[simp] theorem State.setFill_lanes (st : StreamId) (b : Option BufId) : (s.setFill st b).lanes = s.lanes := rfl
@[simp] theorem State.setFill_triggers (st : StreamId) (b : Option BufId) : (s.setFill st b).triggers = s.triggers := rfl
@[simp] theorem State.setFill_reloc (st : StreamId) (b : Option BufId) : (s.setFill st b).reloc = s.reloc := rfl
@[simp] theorem State.setFill_reads (st : StreamId) (b : Option BufId) : (s.setFill st b).reads = s.reads := rfl
@[simp] theorem State.setFill_ctl (st : StreamId) (b : Option BufId) : (s.setFill st b).ctl = s.ctl := rfl
@[simp] theorem State.setFill_link (st : StreamId) (b : Option BufId) : (s.setFill st b).link = s.link := rfl
@[simp] theorem State.setFill_notices (st : StreamId) (b : Option BufId) : (s.setFill st b).notices = s.notices := rfl
@[simp] theorem State.setFill_freeUsed (st : StreamId) (b : Option BufId) : (s.setFill st b).freeUsed = s.freeUsed := rfl
@[simp] theorem State.setFill_bufs_bufs (st : StreamId) (b : Option BufId) : (s.setFill st b).bufs.bufs = s.bufs.bufs := rfl
@[simp] theorem State.setFill_bufs_pool (st : StreamId) (b : Option BufId) : (s.setFill st b).bufs.pool = s.bufs.pool := rfl
@[simp] theorem State.setFill_bufs_held (st : StreamId) (b : Option BufId) : (s.setFill st b).bufs.held = s.bufs.held := rfl
@[simp] theorem State.setFill_bufs_queue (st : StreamId) (b : Option BufId) : (s.setFill st b).bufs.queue = s.bufs.queue := rfl
@[simp] theorem State.setFill_bufs_waitList (st : StreamId) (b : Option BufId) : (s.setFill st b).bufs.waitList = s.bufs.waitList := rfl
@[simp] theorem State.setFill_bufs_starvedList (st : StreamId) (b : Option BufId) : (s.setFill st b).bufs.starvedList = s.bufs.starvedList := rfl
@[simp] theorem State.setFill_bufs_heldAtWorn (st : StreamId) (b : Option BufId) : (s.setFill st b).bufs.heldAtWorn = s.bufs.heldAtWorn := rfl
@[simp] theorem State.setFill_bufs_flushWaiters (st : StreamId) (b : Option BufId) : (s.setFill st b).bufs.flushWaiters = s.bufs.flushWaiters := rfl
@[simp] theorem State.setFill_unit (st : StreamId) (b : Option BufId) (j : UnitId) : (s.setFill st b).unit j = s.unit j := rfl
@[simp] theorem State.setFill_chain (st : StreamId) (b : Option BufId) (j : StreamId) : (s.setFill st b).chain j = s.chain j := rfl
@[simp] theorem State.setFill_stream (st : StreamId) (b : Option BufId) (j : StreamId) : (s.setFill st b).stream j = s.stream j := rfl
@[simp] theorem State.setFill_lane (st : StreamId) (b : Option BufId) (j : LaneId) : (s.setFill st b).lane j = s.lane j := rfl
@[simp] theorem State.setFill_timer (st : StreamId) (b : Option BufId) (j : TimerId) : (s.setFill st b).timer j = s.timer j := rfl
@[simp] theorem State.setFill_buf (st : StreamId) (b : Option BufId) (j : BufId) : (s.setFill st b).buf j = s.buf j := rfl
@[simp] theorem State.setFill_fillBuf (st : StreamId) (b : Option BufId) : (s.setFill st b).fillBuf st = b := by simp [State.setFill, State.fillBuf]
theorem State.setFill_fillBuf_ite (st : StreamId) (b : Option BufId) (j : StreamId) : (s.setFill st b).fillBuf j = if st = j then b else s.fillBuf j := by
  simp [State.setFill, State.fillBuf, vget_vset]
@[simp] theorem State.setFill_fillBuf_ne (st : StreamId) (b : Option BufId) (j : StreamId) (h : st ≠ j) : (s.setFill st b).fillBuf j = s.fillBuf j := by
  simp [State.setFill_fillBuf_ite, h]
@[simp] theorem State.setFill_heldBuf (st : StreamId) (b : Option BufId) (j : StreamId) : (s.setFill st b).heldBuf j = s.heldBuf j := rfl
@[simp] theorem State.setFill_stagingBuf (st : StreamId) (b : Option BufId) (j : StagingId) : (s.setFill st b).stagingBuf j = s.stagingBuf j := rfl
@[simp] theorem State.setFill_running (st : StreamId) (b : Option BufId) : (s.setFill st b).running = s.running := rfl
@[simp] theorem State.setFill_freeCount (st : StreamId) (b : Option BufId) : (s.setFill st b).freeCount = s.freeCount := rfl

/-! ### setHeld -/
@[simp] theorem State.setHeld_pending (st : StreamId) (b : Option BufId) : (s.setHeld st b).pending = s.pending := rfl
@[simp] theorem State.setHeld_powered (st : StreamId) (b : Option BufId) : (s.setHeld st b).powered = s.powered := rfl
@[simp] theorem State.setHeld_rstLow (st : StreamId) (b : Option BufId) : (s.setHeld st b).rstLow = s.rstLow := rfl
@[simp] theorem State.setHeld_time (st : StreamId) (b : Option BufId) : (s.setHeld st b).time = s.time := rfl
@[simp] theorem State.setHeld_array (st : StreamId) (b : Option BufId) : (s.setHeld st b).array = s.array := rfl
@[simp] theorem State.setHeld_engine (st : StreamId) (b : Option BufId) : (s.setHeld st b).engine = s.engine := rfl
@[simp] theorem State.setHeld_map (st : StreamId) (b : Option BufId) : (s.setHeld st b).map = s.map := rfl
@[simp] theorem State.setHeld_streams (st : StreamId) (b : Option BufId) : (s.setHeld st b).streams = s.streams := rfl
@[simp] theorem State.setHeld_lanes (st : StreamId) (b : Option BufId) : (s.setHeld st b).lanes = s.lanes := rfl
@[simp] theorem State.setHeld_triggers (st : StreamId) (b : Option BufId) : (s.setHeld st b).triggers = s.triggers := rfl
@[simp] theorem State.setHeld_reloc (st : StreamId) (b : Option BufId) : (s.setHeld st b).reloc = s.reloc := rfl
@[simp] theorem State.setHeld_reads (st : StreamId) (b : Option BufId) : (s.setHeld st b).reads = s.reads := rfl
@[simp] theorem State.setHeld_ctl (st : StreamId) (b : Option BufId) : (s.setHeld st b).ctl = s.ctl := rfl
@[simp] theorem State.setHeld_link (st : StreamId) (b : Option BufId) : (s.setHeld st b).link = s.link := rfl
@[simp] theorem State.setHeld_notices (st : StreamId) (b : Option BufId) : (s.setHeld st b).notices = s.notices := rfl
@[simp] theorem State.setHeld_freeUsed (st : StreamId) (b : Option BufId) : (s.setHeld st b).freeUsed = s.freeUsed := rfl
@[simp] theorem State.setHeld_bufs_bufs (st : StreamId) (b : Option BufId) : (s.setHeld st b).bufs.bufs = s.bufs.bufs := rfl
@[simp] theorem State.setHeld_bufs_pool (st : StreamId) (b : Option BufId) : (s.setHeld st b).bufs.pool = s.bufs.pool := rfl
@[simp] theorem State.setHeld_bufs_fill (st : StreamId) (b : Option BufId) : (s.setHeld st b).bufs.fill = s.bufs.fill := rfl
@[simp] theorem State.setHeld_bufs_queue (st : StreamId) (b : Option BufId) : (s.setHeld st b).bufs.queue = s.bufs.queue := rfl
@[simp] theorem State.setHeld_bufs_waitList (st : StreamId) (b : Option BufId) : (s.setHeld st b).bufs.waitList = s.bufs.waitList := rfl
@[simp] theorem State.setHeld_bufs_starvedList (st : StreamId) (b : Option BufId) : (s.setHeld st b).bufs.starvedList = s.bufs.starvedList := rfl
@[simp] theorem State.setHeld_bufs_heldAtWorn (st : StreamId) (b : Option BufId) : (s.setHeld st b).bufs.heldAtWorn = s.bufs.heldAtWorn := rfl
@[simp] theorem State.setHeld_bufs_flushWaiters (st : StreamId) (b : Option BufId) : (s.setHeld st b).bufs.flushWaiters = s.bufs.flushWaiters := rfl
@[simp] theorem State.setHeld_unit (st : StreamId) (b : Option BufId) (j : UnitId) : (s.setHeld st b).unit j = s.unit j := rfl
@[simp] theorem State.setHeld_chain (st : StreamId) (b : Option BufId) (j : StreamId) : (s.setHeld st b).chain j = s.chain j := rfl
@[simp] theorem State.setHeld_stream (st : StreamId) (b : Option BufId) (j : StreamId) : (s.setHeld st b).stream j = s.stream j := rfl
@[simp] theorem State.setHeld_lane (st : StreamId) (b : Option BufId) (j : LaneId) : (s.setHeld st b).lane j = s.lane j := rfl
@[simp] theorem State.setHeld_timer (st : StreamId) (b : Option BufId) (j : TimerId) : (s.setHeld st b).timer j = s.timer j := rfl
@[simp] theorem State.setHeld_buf (st : StreamId) (b : Option BufId) (j : BufId) : (s.setHeld st b).buf j = s.buf j := rfl
@[simp] theorem State.setHeld_fillBuf (st : StreamId) (b : Option BufId) (j : StreamId) : (s.setHeld st b).fillBuf j = s.fillBuf j := rfl
@[simp] theorem State.setHeld_heldBuf (st : StreamId) (b : Option BufId) : (s.setHeld st b).heldBuf st = b := by simp [State.setHeld, State.heldBuf]
theorem State.setHeld_heldBuf_ite (st : StreamId) (b : Option BufId) (j : StreamId) : (s.setHeld st b).heldBuf j = if st = j then b else s.heldBuf j := by
  simp [State.setHeld, State.heldBuf, vget_vset]
@[simp] theorem State.setHeld_heldBuf_ne (st : StreamId) (b : Option BufId) (j : StreamId) (h : st ≠ j) : (s.setHeld st b).heldBuf j = s.heldBuf j := by
  simp [State.setHeld_heldBuf_ite, h]
@[simp] theorem State.setHeld_stagingBuf (st : StreamId) (b : Option BufId) (j : StagingId) : (s.setHeld st b).stagingBuf j = s.stagingBuf j := rfl
@[simp] theorem State.setHeld_running (st : StreamId) (b : Option BufId) : (s.setHeld st b).running = s.running := rfl
@[simp] theorem State.setHeld_freeCount (st : StreamId) (b : Option BufId) : (s.setHeld st b).freeCount = s.freeCount := rfl

/-! ### setPool -/
@[simp] theorem State.setPool_pending (l : List BufId) : (s.setPool l).pending = s.pending := rfl
@[simp] theorem State.setPool_powered (l : List BufId) : (s.setPool l).powered = s.powered := rfl
@[simp] theorem State.setPool_rstLow (l : List BufId) : (s.setPool l).rstLow = s.rstLow := rfl
@[simp] theorem State.setPool_time (l : List BufId) : (s.setPool l).time = s.time := rfl
@[simp] theorem State.setPool_array (l : List BufId) : (s.setPool l).array = s.array := rfl
@[simp] theorem State.setPool_engine (l : List BufId) : (s.setPool l).engine = s.engine := rfl
@[simp] theorem State.setPool_map (l : List BufId) : (s.setPool l).map = s.map := rfl
@[simp] theorem State.setPool_streams (l : List BufId) : (s.setPool l).streams = s.streams := rfl
@[simp] theorem State.setPool_lanes (l : List BufId) : (s.setPool l).lanes = s.lanes := rfl
@[simp] theorem State.setPool_triggers (l : List BufId) : (s.setPool l).triggers = s.triggers := rfl
@[simp] theorem State.setPool_reloc (l : List BufId) : (s.setPool l).reloc = s.reloc := rfl
@[simp] theorem State.setPool_reads (l : List BufId) : (s.setPool l).reads = s.reads := rfl
@[simp] theorem State.setPool_ctl (l : List BufId) : (s.setPool l).ctl = s.ctl := rfl
@[simp] theorem State.setPool_link (l : List BufId) : (s.setPool l).link = s.link := rfl
@[simp] theorem State.setPool_notices (l : List BufId) : (s.setPool l).notices = s.notices := rfl
@[simp] theorem State.setPool_freeUsed (l : List BufId) : (s.setPool l).freeUsed = s.freeUsed := rfl
@[simp] theorem State.setPool_bufs_bufs (l : List BufId) : (s.setPool l).bufs.bufs = s.bufs.bufs := rfl
@[simp] theorem State.setPool_bufs_fill (l : List BufId) : (s.setPool l).bufs.fill = s.bufs.fill := rfl
@[simp] theorem State.setPool_bufs_held (l : List BufId) : (s.setPool l).bufs.held = s.bufs.held := rfl
@[simp] theorem State.setPool_bufs_queue (l : List BufId) : (s.setPool l).bufs.queue = s.bufs.queue := rfl
@[simp] theorem State.setPool_bufs_waitList (l : List BufId) : (s.setPool l).bufs.waitList = s.bufs.waitList := rfl
@[simp] theorem State.setPool_bufs_starvedList (l : List BufId) : (s.setPool l).bufs.starvedList = s.bufs.starvedList := rfl
@[simp] theorem State.setPool_bufs_heldAtWorn (l : List BufId) : (s.setPool l).bufs.heldAtWorn = s.bufs.heldAtWorn := rfl
@[simp] theorem State.setPool_bufs_flushWaiters (l : List BufId) : (s.setPool l).bufs.flushWaiters = s.bufs.flushWaiters := rfl
@[simp] theorem State.setPool_bufs_pool (l : List BufId) : (s.setPool l).bufs.pool = l := rfl
@[simp] theorem State.setPool_unit (l : List BufId) (j : UnitId) : (s.setPool l).unit j = s.unit j := rfl
@[simp] theorem State.setPool_chain (l : List BufId) (j : StreamId) : (s.setPool l).chain j = s.chain j := rfl
@[simp] theorem State.setPool_stream (l : List BufId) (j : StreamId) : (s.setPool l).stream j = s.stream j := rfl
@[simp] theorem State.setPool_lane (l : List BufId) (j : LaneId) : (s.setPool l).lane j = s.lane j := rfl
@[simp] theorem State.setPool_timer (l : List BufId) (j : TimerId) : (s.setPool l).timer j = s.timer j := rfl
@[simp] theorem State.setPool_buf (l : List BufId) (j : BufId) : (s.setPool l).buf j = s.buf j := rfl
@[simp] theorem State.setPool_fillBuf (l : List BufId) (j : StreamId) : (s.setPool l).fillBuf j = s.fillBuf j := rfl
@[simp] theorem State.setPool_heldBuf (l : List BufId) (j : StreamId) : (s.setPool l).heldBuf j = s.heldBuf j := rfl
@[simp] theorem State.setPool_stagingBuf (l : List BufId) (j : StagingId) : (s.setPool l).stagingBuf j = s.stagingBuf j := rfl
@[simp] theorem State.setPool_running (l : List BufId) : (s.setPool l).running = s.running := rfl
@[simp] theorem State.setPool_freeCount (l : List BufId) : (s.setPool l).freeCount = s.freeCount := rfl

/-! ### setQueue -/
@[simp] theorem State.setQueue_pending (l : List QueueEntry) : (s.setQueue l).pending = s.pending := rfl
@[simp] theorem State.setQueue_powered (l : List QueueEntry) : (s.setQueue l).powered = s.powered := rfl
@[simp] theorem State.setQueue_rstLow (l : List QueueEntry) : (s.setQueue l).rstLow = s.rstLow := rfl
@[simp] theorem State.setQueue_time (l : List QueueEntry) : (s.setQueue l).time = s.time := rfl
@[simp] theorem State.setQueue_array (l : List QueueEntry) : (s.setQueue l).array = s.array := rfl
@[simp] theorem State.setQueue_engine (l : List QueueEntry) : (s.setQueue l).engine = s.engine := rfl
@[simp] theorem State.setQueue_map (l : List QueueEntry) : (s.setQueue l).map = s.map := rfl
@[simp] theorem State.setQueue_streams (l : List QueueEntry) : (s.setQueue l).streams = s.streams := rfl
@[simp] theorem State.setQueue_lanes (l : List QueueEntry) : (s.setQueue l).lanes = s.lanes := rfl
@[simp] theorem State.setQueue_triggers (l : List QueueEntry) : (s.setQueue l).triggers = s.triggers := rfl
@[simp] theorem State.setQueue_reloc (l : List QueueEntry) : (s.setQueue l).reloc = s.reloc := rfl
@[simp] theorem State.setQueue_reads (l : List QueueEntry) : (s.setQueue l).reads = s.reads := rfl
@[simp] theorem State.setQueue_ctl (l : List QueueEntry) : (s.setQueue l).ctl = s.ctl := rfl
@[simp] theorem State.setQueue_link (l : List QueueEntry) : (s.setQueue l).link = s.link := rfl
@[simp] theorem State.setQueue_notices (l : List QueueEntry) : (s.setQueue l).notices = s.notices := rfl
@[simp] theorem State.setQueue_freeUsed (l : List QueueEntry) : (s.setQueue l).freeUsed = s.freeUsed := rfl
@[simp] theorem State.setQueue_bufs_bufs (l : List QueueEntry) : (s.setQueue l).bufs.bufs = s.bufs.bufs := rfl
@[simp] theorem State.setQueue_bufs_pool (l : List QueueEntry) : (s.setQueue l).bufs.pool = s.bufs.pool := rfl
@[simp] theorem State.setQueue_bufs_fill (l : List QueueEntry) : (s.setQueue l).bufs.fill = s.bufs.fill := rfl
@[simp] theorem State.setQueue_bufs_held (l : List QueueEntry) : (s.setQueue l).bufs.held = s.bufs.held := rfl
@[simp] theorem State.setQueue_bufs_waitList (l : List QueueEntry) : (s.setQueue l).bufs.waitList = s.bufs.waitList := rfl
@[simp] theorem State.setQueue_bufs_starvedList (l : List QueueEntry) : (s.setQueue l).bufs.starvedList = s.bufs.starvedList := rfl
@[simp] theorem State.setQueue_bufs_heldAtWorn (l : List QueueEntry) : (s.setQueue l).bufs.heldAtWorn = s.bufs.heldAtWorn := rfl
@[simp] theorem State.setQueue_bufs_flushWaiters (l : List QueueEntry) : (s.setQueue l).bufs.flushWaiters = s.bufs.flushWaiters := rfl
@[simp] theorem State.setQueue_bufs_queue (l : List QueueEntry) : (s.setQueue l).bufs.queue = l := rfl
@[simp] theorem State.setQueue_unit (l : List QueueEntry) (j : UnitId) : (s.setQueue l).unit j = s.unit j := rfl
@[simp] theorem State.setQueue_chain (l : List QueueEntry) (j : StreamId) : (s.setQueue l).chain j = s.chain j := rfl
@[simp] theorem State.setQueue_stream (l : List QueueEntry) (j : StreamId) : (s.setQueue l).stream j = s.stream j := rfl
@[simp] theorem State.setQueue_lane (l : List QueueEntry) (j : LaneId) : (s.setQueue l).lane j = s.lane j := rfl
@[simp] theorem State.setQueue_timer (l : List QueueEntry) (j : TimerId) : (s.setQueue l).timer j = s.timer j := rfl
@[simp] theorem State.setQueue_buf (l : List QueueEntry) (j : BufId) : (s.setQueue l).buf j = s.buf j := rfl
@[simp] theorem State.setQueue_fillBuf (l : List QueueEntry) (j : StreamId) : (s.setQueue l).fillBuf j = s.fillBuf j := rfl
@[simp] theorem State.setQueue_heldBuf (l : List QueueEntry) (j : StreamId) : (s.setQueue l).heldBuf j = s.heldBuf j := rfl
@[simp] theorem State.setQueue_stagingBuf (l : List QueueEntry) (j : StagingId) : (s.setQueue l).stagingBuf j = s.stagingBuf j := rfl
@[simp] theorem State.setQueue_running (l : List QueueEntry) : (s.setQueue l).running = s.running := rfl
@[simp] theorem State.setQueue_freeCount (l : List QueueEntry) : (s.setQueue l).freeCount = s.freeCount := rfl

/-! ### setBufWaits -/
@[simp] theorem State.setBufWaits_pending (l : List StreamId) : (s.setBufWaits l).pending = s.pending := rfl
@[simp] theorem State.setBufWaits_powered (l : List StreamId) : (s.setBufWaits l).powered = s.powered := rfl
@[simp] theorem State.setBufWaits_rstLow (l : List StreamId) : (s.setBufWaits l).rstLow = s.rstLow := rfl
@[simp] theorem State.setBufWaits_time (l : List StreamId) : (s.setBufWaits l).time = s.time := rfl
@[simp] theorem State.setBufWaits_array (l : List StreamId) : (s.setBufWaits l).array = s.array := rfl
@[simp] theorem State.setBufWaits_engine (l : List StreamId) : (s.setBufWaits l).engine = s.engine := rfl
@[simp] theorem State.setBufWaits_map (l : List StreamId) : (s.setBufWaits l).map = s.map := rfl
@[simp] theorem State.setBufWaits_streams (l : List StreamId) : (s.setBufWaits l).streams = s.streams := rfl
@[simp] theorem State.setBufWaits_lanes (l : List StreamId) : (s.setBufWaits l).lanes = s.lanes := rfl
@[simp] theorem State.setBufWaits_triggers (l : List StreamId) : (s.setBufWaits l).triggers = s.triggers := rfl
@[simp] theorem State.setBufWaits_reloc (l : List StreamId) : (s.setBufWaits l).reloc = s.reloc := rfl
@[simp] theorem State.setBufWaits_reads (l : List StreamId) : (s.setBufWaits l).reads = s.reads := rfl
@[simp] theorem State.setBufWaits_ctl (l : List StreamId) : (s.setBufWaits l).ctl = s.ctl := rfl
@[simp] theorem State.setBufWaits_link (l : List StreamId) : (s.setBufWaits l).link = s.link := rfl
@[simp] theorem State.setBufWaits_notices (l : List StreamId) : (s.setBufWaits l).notices = s.notices := rfl
@[simp] theorem State.setBufWaits_freeUsed (l : List StreamId) : (s.setBufWaits l).freeUsed = s.freeUsed := rfl
@[simp] theorem State.setBufWaits_bufs_bufs (l : List StreamId) : (s.setBufWaits l).bufs.bufs = s.bufs.bufs := rfl
@[simp] theorem State.setBufWaits_bufs_pool (l : List StreamId) : (s.setBufWaits l).bufs.pool = s.bufs.pool := rfl
@[simp] theorem State.setBufWaits_bufs_fill (l : List StreamId) : (s.setBufWaits l).bufs.fill = s.bufs.fill := rfl
@[simp] theorem State.setBufWaits_bufs_held (l : List StreamId) : (s.setBufWaits l).bufs.held = s.bufs.held := rfl
@[simp] theorem State.setBufWaits_bufs_queue (l : List StreamId) : (s.setBufWaits l).bufs.queue = s.bufs.queue := rfl
@[simp] theorem State.setBufWaits_bufs_starvedList (l : List StreamId) : (s.setBufWaits l).bufs.starvedList = s.bufs.starvedList := rfl
@[simp] theorem State.setBufWaits_bufs_heldAtWorn (l : List StreamId) : (s.setBufWaits l).bufs.heldAtWorn = s.bufs.heldAtWorn := rfl
@[simp] theorem State.setBufWaits_bufs_flushWaiters (l : List StreamId) : (s.setBufWaits l).bufs.flushWaiters = s.bufs.flushWaiters := rfl
@[simp] theorem State.setBufWaits_bufs_waitList (l : List StreamId) : (s.setBufWaits l).bufs.waitList = l := rfl
@[simp] theorem State.setBufWaits_unit (l : List StreamId) (j : UnitId) : (s.setBufWaits l).unit j = s.unit j := rfl
@[simp] theorem State.setBufWaits_chain (l : List StreamId) (j : StreamId) : (s.setBufWaits l).chain j = s.chain j := rfl
@[simp] theorem State.setBufWaits_stream (l : List StreamId) (j : StreamId) : (s.setBufWaits l).stream j = s.stream j := rfl
@[simp] theorem State.setBufWaits_lane (l : List StreamId) (j : LaneId) : (s.setBufWaits l).lane j = s.lane j := rfl
@[simp] theorem State.setBufWaits_timer (l : List StreamId) (j : TimerId) : (s.setBufWaits l).timer j = s.timer j := rfl
@[simp] theorem State.setBufWaits_buf (l : List StreamId) (j : BufId) : (s.setBufWaits l).buf j = s.buf j := rfl
@[simp] theorem State.setBufWaits_fillBuf (l : List StreamId) (j : StreamId) : (s.setBufWaits l).fillBuf j = s.fillBuf j := rfl
@[simp] theorem State.setBufWaits_heldBuf (l : List StreamId) (j : StreamId) : (s.setBufWaits l).heldBuf j = s.heldBuf j := rfl
@[simp] theorem State.setBufWaits_stagingBuf (l : List StreamId) (j : StagingId) : (s.setBufWaits l).stagingBuf j = s.stagingBuf j := rfl
@[simp] theorem State.setBufWaits_running (l : List StreamId) : (s.setBufWaits l).running = s.running := rfl
@[simp] theorem State.setBufWaits_freeCount (l : List StreamId) : (s.setBufWaits l).freeCount = s.freeCount := rfl

/-! ### setStarvedList -/
@[simp] theorem State.setStarvedList_pending (l : List StreamId) : (s.setStarvedList l).pending = s.pending := rfl
@[simp] theorem State.setStarvedList_powered (l : List StreamId) : (s.setStarvedList l).powered = s.powered := rfl
@[simp] theorem State.setStarvedList_rstLow (l : List StreamId) : (s.setStarvedList l).rstLow = s.rstLow := rfl
@[simp] theorem State.setStarvedList_time (l : List StreamId) : (s.setStarvedList l).time = s.time := rfl
@[simp] theorem State.setStarvedList_array (l : List StreamId) : (s.setStarvedList l).array = s.array := rfl
@[simp] theorem State.setStarvedList_engine (l : List StreamId) : (s.setStarvedList l).engine = s.engine := rfl
@[simp] theorem State.setStarvedList_map (l : List StreamId) : (s.setStarvedList l).map = s.map := rfl
@[simp] theorem State.setStarvedList_streams (l : List StreamId) : (s.setStarvedList l).streams = s.streams := rfl
@[simp] theorem State.setStarvedList_lanes (l : List StreamId) : (s.setStarvedList l).lanes = s.lanes := rfl
@[simp] theorem State.setStarvedList_triggers (l : List StreamId) : (s.setStarvedList l).triggers = s.triggers := rfl
@[simp] theorem State.setStarvedList_reloc (l : List StreamId) : (s.setStarvedList l).reloc = s.reloc := rfl
@[simp] theorem State.setStarvedList_reads (l : List StreamId) : (s.setStarvedList l).reads = s.reads := rfl
@[simp] theorem State.setStarvedList_ctl (l : List StreamId) : (s.setStarvedList l).ctl = s.ctl := rfl
@[simp] theorem State.setStarvedList_link (l : List StreamId) : (s.setStarvedList l).link = s.link := rfl
@[simp] theorem State.setStarvedList_notices (l : List StreamId) : (s.setStarvedList l).notices = s.notices := rfl
@[simp] theorem State.setStarvedList_freeUsed (l : List StreamId) : (s.setStarvedList l).freeUsed = s.freeUsed := rfl
@[simp] theorem State.setStarvedList_bufs_bufs (l : List StreamId) : (s.setStarvedList l).bufs.bufs = s.bufs.bufs := rfl
@[simp] theorem State.setStarvedList_bufs_pool (l : List StreamId) : (s.setStarvedList l).bufs.pool = s.bufs.pool := rfl
@[simp] theorem State.setStarvedList_bufs_fill (l : List StreamId) : (s.setStarvedList l).bufs.fill = s.bufs.fill := rfl
@[simp] theorem State.setStarvedList_bufs_held (l : List StreamId) : (s.setStarvedList l).bufs.held = s.bufs.held := rfl
@[simp] theorem State.setStarvedList_bufs_queue (l : List StreamId) : (s.setStarvedList l).bufs.queue = s.bufs.queue := rfl
@[simp] theorem State.setStarvedList_bufs_waitList (l : List StreamId) : (s.setStarvedList l).bufs.waitList = s.bufs.waitList := rfl
@[simp] theorem State.setStarvedList_bufs_flushWaiters (l : List StreamId) : (s.setStarvedList l).bufs.flushWaiters = s.bufs.flushWaiters := rfl
@[simp] theorem State.setStarvedList_bufs_starvedList (l : List StreamId) : (s.setStarvedList l).bufs.starvedList = l := rfl
@[simp] theorem State.setStarvedList_bufs_heldAtWorn (l : List StreamId) : (s.setStarvedList l).bufs.heldAtWorn = s.bufs.heldAtWorn := rfl
@[simp] theorem State.setStarvedList_unit (l : List StreamId) (j : UnitId) : (s.setStarvedList l).unit j = s.unit j := rfl
@[simp] theorem State.setStarvedList_chain (l : List StreamId) (j : StreamId) : (s.setStarvedList l).chain j = s.chain j := rfl
@[simp] theorem State.setStarvedList_stream (l : List StreamId) (j : StreamId) : (s.setStarvedList l).stream j = s.stream j := rfl
@[simp] theorem State.setStarvedList_lane (l : List StreamId) (j : LaneId) : (s.setStarvedList l).lane j = s.lane j := rfl
@[simp] theorem State.setStarvedList_timer (l : List StreamId) (j : TimerId) : (s.setStarvedList l).timer j = s.timer j := rfl
@[simp] theorem State.setStarvedList_buf (l : List StreamId) (j : BufId) : (s.setStarvedList l).buf j = s.buf j := rfl
@[simp] theorem State.setStarvedList_fillBuf (l : List StreamId) (j : StreamId) : (s.setStarvedList l).fillBuf j = s.fillBuf j := rfl
@[simp] theorem State.setStarvedList_heldBuf (l : List StreamId) (j : StreamId) : (s.setStarvedList l).heldBuf j = s.heldBuf j := rfl
@[simp] theorem State.setStarvedList_stagingBuf (l : List StreamId) (j : StagingId) : (s.setStarvedList l).stagingBuf j = s.stagingBuf j := rfl
@[simp] theorem State.setStarvedList_running (l : List StreamId) : (s.setStarvedList l).running = s.running := rfl
@[simp] theorem State.setStarvedList_freeCount (l : List StreamId) : (s.setStarvedList l).freeCount = s.freeCount := rfl

/-! ### setFlushWaiters -/
@[simp] theorem State.setFlushWaiters_pending (l : List FlushWaiter) : (s.setFlushWaiters l).pending = s.pending := rfl
@[simp] theorem State.setFlushWaiters_powered (l : List FlushWaiter) : (s.setFlushWaiters l).powered = s.powered := rfl
@[simp] theorem State.setFlushWaiters_rstLow (l : List FlushWaiter) : (s.setFlushWaiters l).rstLow = s.rstLow := rfl
@[simp] theorem State.setFlushWaiters_time (l : List FlushWaiter) : (s.setFlushWaiters l).time = s.time := rfl
@[simp] theorem State.setFlushWaiters_array (l : List FlushWaiter) : (s.setFlushWaiters l).array = s.array := rfl
@[simp] theorem State.setFlushWaiters_engine (l : List FlushWaiter) : (s.setFlushWaiters l).engine = s.engine := rfl
@[simp] theorem State.setFlushWaiters_map (l : List FlushWaiter) : (s.setFlushWaiters l).map = s.map := rfl
@[simp] theorem State.setFlushWaiters_streams (l : List FlushWaiter) : (s.setFlushWaiters l).streams = s.streams := rfl
@[simp] theorem State.setFlushWaiters_lanes (l : List FlushWaiter) : (s.setFlushWaiters l).lanes = s.lanes := rfl
@[simp] theorem State.setFlushWaiters_triggers (l : List FlushWaiter) : (s.setFlushWaiters l).triggers = s.triggers := rfl
@[simp] theorem State.setFlushWaiters_reloc (l : List FlushWaiter) : (s.setFlushWaiters l).reloc = s.reloc := rfl
@[simp] theorem State.setFlushWaiters_reads (l : List FlushWaiter) : (s.setFlushWaiters l).reads = s.reads := rfl
@[simp] theorem State.setFlushWaiters_ctl (l : List FlushWaiter) : (s.setFlushWaiters l).ctl = s.ctl := rfl
@[simp] theorem State.setFlushWaiters_link (l : List FlushWaiter) : (s.setFlushWaiters l).link = s.link := rfl
@[simp] theorem State.setFlushWaiters_notices (l : List FlushWaiter) : (s.setFlushWaiters l).notices = s.notices := rfl
@[simp] theorem State.setFlushWaiters_freeUsed (l : List FlushWaiter) : (s.setFlushWaiters l).freeUsed = s.freeUsed := rfl
@[simp] theorem State.setFlushWaiters_bufs_bufs (l : List FlushWaiter) : (s.setFlushWaiters l).bufs.bufs = s.bufs.bufs := rfl
@[simp] theorem State.setFlushWaiters_bufs_pool (l : List FlushWaiter) : (s.setFlushWaiters l).bufs.pool = s.bufs.pool := rfl
@[simp] theorem State.setFlushWaiters_bufs_fill (l : List FlushWaiter) : (s.setFlushWaiters l).bufs.fill = s.bufs.fill := rfl
@[simp] theorem State.setFlushWaiters_bufs_held (l : List FlushWaiter) : (s.setFlushWaiters l).bufs.held = s.bufs.held := rfl
@[simp] theorem State.setFlushWaiters_bufs_queue (l : List FlushWaiter) : (s.setFlushWaiters l).bufs.queue = s.bufs.queue := rfl
@[simp] theorem State.setFlushWaiters_bufs_waitList (l : List FlushWaiter) : (s.setFlushWaiters l).bufs.waitList = s.bufs.waitList := rfl
@[simp] theorem State.setFlushWaiters_bufs_starvedList (l : List FlushWaiter) : (s.setFlushWaiters l).bufs.starvedList = s.bufs.starvedList := rfl
@[simp] theorem State.setFlushWaiters_bufs_heldAtWorn (l : List FlushWaiter) : (s.setFlushWaiters l).bufs.heldAtWorn = s.bufs.heldAtWorn := rfl
@[simp] theorem State.setFlushWaiters_bufs_flushWaiters (l : List FlushWaiter) : (s.setFlushWaiters l).bufs.flushWaiters = l := rfl
@[simp] theorem State.setFlushWaiters_unit (l : List FlushWaiter) (j : UnitId) : (s.setFlushWaiters l).unit j = s.unit j := rfl
@[simp] theorem State.setFlushWaiters_chain (l : List FlushWaiter) (j : StreamId) : (s.setFlushWaiters l).chain j = s.chain j := rfl
@[simp] theorem State.setFlushWaiters_stream (l : List FlushWaiter) (j : StreamId) : (s.setFlushWaiters l).stream j = s.stream j := rfl
@[simp] theorem State.setFlushWaiters_lane (l : List FlushWaiter) (j : LaneId) : (s.setFlushWaiters l).lane j = s.lane j := rfl
@[simp] theorem State.setFlushWaiters_timer (l : List FlushWaiter) (j : TimerId) : (s.setFlushWaiters l).timer j = s.timer j := rfl
@[simp] theorem State.setFlushWaiters_buf (l : List FlushWaiter) (j : BufId) : (s.setFlushWaiters l).buf j = s.buf j := rfl
@[simp] theorem State.setFlushWaiters_fillBuf (l : List FlushWaiter) (j : StreamId) : (s.setFlushWaiters l).fillBuf j = s.fillBuf j := rfl
@[simp] theorem State.setFlushWaiters_heldBuf (l : List FlushWaiter) (j : StreamId) : (s.setFlushWaiters l).heldBuf j = s.heldBuf j := rfl
@[simp] theorem State.setFlushWaiters_stagingBuf (l : List FlushWaiter) (j : StagingId) : (s.setFlushWaiters l).stagingBuf j = s.stagingBuf j := rfl
@[simp] theorem State.setFlushWaiters_running (l : List FlushWaiter) : (s.setFlushWaiters l).running = s.running := rfl
@[simp] theorem State.setFlushWaiters_freeCount (l : List FlushWaiter) : (s.setFlushWaiters l).freeCount = s.freeCount := rfl

/-! ### setHeldAtWorn -/
@[simp] theorem State.setHeldAtWorn_pending (l : List StreamId) : (s.setHeldAtWorn l).pending = s.pending := rfl
@[simp] theorem State.setHeldAtWorn_powered (l : List StreamId) : (s.setHeldAtWorn l).powered = s.powered := rfl
@[simp] theorem State.setHeldAtWorn_rstLow (l : List StreamId) : (s.setHeldAtWorn l).rstLow = s.rstLow := rfl
@[simp] theorem State.setHeldAtWorn_time (l : List StreamId) : (s.setHeldAtWorn l).time = s.time := rfl
@[simp] theorem State.setHeldAtWorn_array (l : List StreamId) : (s.setHeldAtWorn l).array = s.array := rfl
@[simp] theorem State.setHeldAtWorn_engine (l : List StreamId) : (s.setHeldAtWorn l).engine = s.engine := rfl
@[simp] theorem State.setHeldAtWorn_map (l : List StreamId) : (s.setHeldAtWorn l).map = s.map := rfl
@[simp] theorem State.setHeldAtWorn_streams (l : List StreamId) : (s.setHeldAtWorn l).streams = s.streams := rfl
@[simp] theorem State.setHeldAtWorn_lanes (l : List StreamId) : (s.setHeldAtWorn l).lanes = s.lanes := rfl
@[simp] theorem State.setHeldAtWorn_triggers (l : List StreamId) : (s.setHeldAtWorn l).triggers = s.triggers := rfl
@[simp] theorem State.setHeldAtWorn_reloc (l : List StreamId) : (s.setHeldAtWorn l).reloc = s.reloc := rfl
@[simp] theorem State.setHeldAtWorn_reads (l : List StreamId) : (s.setHeldAtWorn l).reads = s.reads := rfl
@[simp] theorem State.setHeldAtWorn_ctl (l : List StreamId) : (s.setHeldAtWorn l).ctl = s.ctl := rfl
@[simp] theorem State.setHeldAtWorn_link (l : List StreamId) : (s.setHeldAtWorn l).link = s.link := rfl
@[simp] theorem State.setHeldAtWorn_notices (l : List StreamId) : (s.setHeldAtWorn l).notices = s.notices := rfl
@[simp] theorem State.setHeldAtWorn_freeUsed (l : List StreamId) : (s.setHeldAtWorn l).freeUsed = s.freeUsed := rfl
@[simp] theorem State.setHeldAtWorn_bufs_bufs (l : List StreamId) : (s.setHeldAtWorn l).bufs.bufs = s.bufs.bufs := rfl
@[simp] theorem State.setHeldAtWorn_bufs_pool (l : List StreamId) : (s.setHeldAtWorn l).bufs.pool = s.bufs.pool := rfl
@[simp] theorem State.setHeldAtWorn_bufs_fill (l : List StreamId) : (s.setHeldAtWorn l).bufs.fill = s.bufs.fill := rfl
@[simp] theorem State.setHeldAtWorn_bufs_held (l : List StreamId) : (s.setHeldAtWorn l).bufs.held = s.bufs.held := rfl
@[simp] theorem State.setHeldAtWorn_bufs_queue (l : List StreamId) : (s.setHeldAtWorn l).bufs.queue = s.bufs.queue := rfl
@[simp] theorem State.setHeldAtWorn_bufs_waitList (l : List StreamId) : (s.setHeldAtWorn l).bufs.waitList = s.bufs.waitList := rfl
@[simp] theorem State.setHeldAtWorn_bufs_flushWaiters (l : List StreamId) : (s.setHeldAtWorn l).bufs.flushWaiters = s.bufs.flushWaiters := rfl
@[simp] theorem State.setHeldAtWorn_bufs_starvedList (l : List StreamId) : (s.setHeldAtWorn l).bufs.starvedList = s.bufs.starvedList := rfl
@[simp] theorem State.setHeldAtWorn_bufs_heldAtWorn (l : List StreamId) : (s.setHeldAtWorn l).bufs.heldAtWorn = l := rfl
@[simp] theorem State.setHeldAtWorn_unit (l : List StreamId) (j : UnitId) : (s.setHeldAtWorn l).unit j = s.unit j := rfl
@[simp] theorem State.setHeldAtWorn_chain (l : List StreamId) (j : StreamId) : (s.setHeldAtWorn l).chain j = s.chain j := rfl
@[simp] theorem State.setHeldAtWorn_stream (l : List StreamId) (j : StreamId) : (s.setHeldAtWorn l).stream j = s.stream j := rfl
@[simp] theorem State.setHeldAtWorn_lane (l : List StreamId) (j : LaneId) : (s.setHeldAtWorn l).lane j = s.lane j := rfl
@[simp] theorem State.setHeldAtWorn_timer (l : List StreamId) (j : TimerId) : (s.setHeldAtWorn l).timer j = s.timer j := rfl
@[simp] theorem State.setHeldAtWorn_buf (l : List StreamId) (j : BufId) : (s.setHeldAtWorn l).buf j = s.buf j := rfl
@[simp] theorem State.setHeldAtWorn_fillBuf (l : List StreamId) (j : StreamId) : (s.setHeldAtWorn l).fillBuf j = s.fillBuf j := rfl
@[simp] theorem State.setHeldAtWorn_heldBuf (l : List StreamId) (j : StreamId) : (s.setHeldAtWorn l).heldBuf j = s.heldBuf j := rfl
@[simp] theorem State.setHeldAtWorn_stagingBuf (l : List StreamId) (j : StagingId) : (s.setHeldAtWorn l).stagingBuf j = s.stagingBuf j := rfl
@[simp] theorem State.setHeldAtWorn_running (l : List StreamId) : (s.setHeldAtWorn l).running = s.running := rfl
@[simp] theorem State.setHeldAtWorn_freeCount (l : List StreamId) : (s.setHeldAtWorn l).freeCount = s.freeCount := rfl

/-! ### setReloc -/
@[simp] theorem State.setReloc_pending (r : Option Reloc) : (s.setReloc r).pending = s.pending := rfl
@[simp] theorem State.setReloc_powered (r : Option Reloc) : (s.setReloc r).powered = s.powered := rfl
@[simp] theorem State.setReloc_rstLow (r : Option Reloc) : (s.setReloc r).rstLow = s.rstLow := rfl
@[simp] theorem State.setReloc_time (r : Option Reloc) : (s.setReloc r).time = s.time := rfl
@[simp] theorem State.setReloc_array (r : Option Reloc) : (s.setReloc r).array = s.array := rfl
@[simp] theorem State.setReloc_engine (r : Option Reloc) : (s.setReloc r).engine = s.engine := rfl
@[simp] theorem State.setReloc_map (r : Option Reloc) : (s.setReloc r).map = s.map := rfl
@[simp] theorem State.setReloc_streams (r : Option Reloc) : (s.setReloc r).streams = s.streams := rfl
@[simp] theorem State.setReloc_lanes (r : Option Reloc) : (s.setReloc r).lanes = s.lanes := rfl
@[simp] theorem State.setReloc_triggers (r : Option Reloc) : (s.setReloc r).triggers = s.triggers := rfl
@[simp] theorem State.setReloc_bufs (r : Option Reloc) : (s.setReloc r).bufs = s.bufs := rfl
@[simp] theorem State.setReloc_reads (r : Option Reloc) : (s.setReloc r).reads = s.reads := rfl
@[simp] theorem State.setReloc_ctl (r : Option Reloc) : (s.setReloc r).ctl = s.ctl := rfl
@[simp] theorem State.setReloc_link (r : Option Reloc) : (s.setReloc r).link = s.link := rfl
@[simp] theorem State.setReloc_notices (r : Option Reloc) : (s.setReloc r).notices = s.notices := rfl
@[simp] theorem State.setReloc_freeUsed (r : Option Reloc) : (s.setReloc r).freeUsed = s.freeUsed := rfl
@[simp] theorem State.setReloc_reloc_waitList (r : Option Reloc) : (s.setReloc r).reloc.waitList = s.reloc.waitList := rfl
@[simp] theorem State.setReloc_reloc_copyBuffer (r : Option Reloc) : (s.setReloc r).reloc.copyBuffer = s.reloc.copyBuffer := rfl
@[simp] theorem State.setReloc_reloc_standAside (r : Option Reloc) : (s.setReloc r).reloc.standAside = s.reloc.standAside := rfl
@[simp] theorem State.setReloc_reloc_current (r : Option Reloc) : (s.setReloc r).reloc.current = r := rfl
@[simp] theorem State.setReloc_unit (r : Option Reloc) (j : UnitId) : (s.setReloc r).unit j = s.unit j := rfl
@[simp] theorem State.setReloc_chain (r : Option Reloc) (j : StreamId) : (s.setReloc r).chain j = s.chain j := rfl
@[simp] theorem State.setReloc_stream (r : Option Reloc) (j : StreamId) : (s.setReloc r).stream j = s.stream j := rfl
@[simp] theorem State.setReloc_lane (r : Option Reloc) (j : LaneId) : (s.setReloc r).lane j = s.lane j := rfl
@[simp] theorem State.setReloc_timer (r : Option Reloc) (j : TimerId) : (s.setReloc r).timer j = s.timer j := rfl
@[simp] theorem State.setReloc_buf (r : Option Reloc) (j : BufId) : (s.setReloc r).buf j = s.buf j := rfl
@[simp] theorem State.setReloc_fillBuf (r : Option Reloc) (j : StreamId) : (s.setReloc r).fillBuf j = s.fillBuf j := rfl
@[simp] theorem State.setReloc_heldBuf (r : Option Reloc) (j : StreamId) : (s.setReloc r).heldBuf j = s.heldBuf j := rfl
@[simp] theorem State.setReloc_stagingBuf (r : Option Reloc) (j : StagingId) : (s.setReloc r).stagingBuf j = s.stagingBuf j := rfl
@[simp] theorem State.setReloc_running (r : Option Reloc) : (s.setReloc r).running = s.running := rfl
@[simp] theorem State.setReloc_freeCount (r : Option Reloc) : (s.setReloc r).freeCount = s.freeCount := rfl

/-! ### setRelocWaits -/
@[simp] theorem State.setRelocWaits_pending (l : List RelocWait) : (s.setRelocWaits l).pending = s.pending := rfl
@[simp] theorem State.setRelocWaits_powered (l : List RelocWait) : (s.setRelocWaits l).powered = s.powered := rfl
@[simp] theorem State.setRelocWaits_rstLow (l : List RelocWait) : (s.setRelocWaits l).rstLow = s.rstLow := rfl
@[simp] theorem State.setRelocWaits_time (l : List RelocWait) : (s.setRelocWaits l).time = s.time := rfl
@[simp] theorem State.setRelocWaits_array (l : List RelocWait) : (s.setRelocWaits l).array = s.array := rfl
@[simp] theorem State.setRelocWaits_engine (l : List RelocWait) : (s.setRelocWaits l).engine = s.engine := rfl
@[simp] theorem State.setRelocWaits_map (l : List RelocWait) : (s.setRelocWaits l).map = s.map := rfl
@[simp] theorem State.setRelocWaits_streams (l : List RelocWait) : (s.setRelocWaits l).streams = s.streams := rfl
@[simp] theorem State.setRelocWaits_lanes (l : List RelocWait) : (s.setRelocWaits l).lanes = s.lanes := rfl
@[simp] theorem State.setRelocWaits_triggers (l : List RelocWait) : (s.setRelocWaits l).triggers = s.triggers := rfl
@[simp] theorem State.setRelocWaits_bufs (l : List RelocWait) : (s.setRelocWaits l).bufs = s.bufs := rfl
@[simp] theorem State.setRelocWaits_reads (l : List RelocWait) : (s.setRelocWaits l).reads = s.reads := rfl
@[simp] theorem State.setRelocWaits_ctl (l : List RelocWait) : (s.setRelocWaits l).ctl = s.ctl := rfl
@[simp] theorem State.setRelocWaits_link (l : List RelocWait) : (s.setRelocWaits l).link = s.link := rfl
@[simp] theorem State.setRelocWaits_notices (l : List RelocWait) : (s.setRelocWaits l).notices = s.notices := rfl
@[simp] theorem State.setRelocWaits_freeUsed (l : List RelocWait) : (s.setRelocWaits l).freeUsed = s.freeUsed := rfl
@[simp] theorem State.setRelocWaits_reloc_current (l : List RelocWait) : (s.setRelocWaits l).reloc.current = s.reloc.current := rfl
@[simp] theorem State.setRelocWaits_reloc_copyBuffer (l : List RelocWait) : (s.setRelocWaits l).reloc.copyBuffer = s.reloc.copyBuffer := rfl
@[simp] theorem State.setRelocWaits_reloc_standAside (l : List RelocWait) : (s.setRelocWaits l).reloc.standAside = s.reloc.standAside := rfl
@[simp] theorem State.setRelocWaits_reloc_waitList (l : List RelocWait) : (s.setRelocWaits l).reloc.waitList = l := rfl
@[simp] theorem State.setRelocWaits_unit (l : List RelocWait) (j : UnitId) : (s.setRelocWaits l).unit j = s.unit j := rfl
@[simp] theorem State.setRelocWaits_chain (l : List RelocWait) (j : StreamId) : (s.setRelocWaits l).chain j = s.chain j := rfl
@[simp] theorem State.setRelocWaits_stream (l : List RelocWait) (j : StreamId) : (s.setRelocWaits l).stream j = s.stream j := rfl
@[simp] theorem State.setRelocWaits_lane (l : List RelocWait) (j : LaneId) : (s.setRelocWaits l).lane j = s.lane j := rfl
@[simp] theorem State.setRelocWaits_timer (l : List RelocWait) (j : TimerId) : (s.setRelocWaits l).timer j = s.timer j := rfl
@[simp] theorem State.setRelocWaits_buf (l : List RelocWait) (j : BufId) : (s.setRelocWaits l).buf j = s.buf j := rfl
@[simp] theorem State.setRelocWaits_fillBuf (l : List RelocWait) (j : StreamId) : (s.setRelocWaits l).fillBuf j = s.fillBuf j := rfl
@[simp] theorem State.setRelocWaits_heldBuf (l : List RelocWait) (j : StreamId) : (s.setRelocWaits l).heldBuf j = s.heldBuf j := rfl
@[simp] theorem State.setRelocWaits_stagingBuf (l : List RelocWait) (j : StagingId) : (s.setRelocWaits l).stagingBuf j = s.stagingBuf j := rfl
@[simp] theorem State.setRelocWaits_running (l : List RelocWait) : (s.setRelocWaits l).running = s.running := rfl
@[simp] theorem State.setRelocWaits_freeCount (l : List RelocWait) : (s.setRelocWaits l).freeCount = s.freeCount := rfl

/-! ### setCopyBuffer -/
@[simp] theorem State.setCopyBuffer_pending (p : Option Page) : (s.setCopyBuffer p).pending = s.pending := rfl
@[simp] theorem State.setCopyBuffer_powered (p : Option Page) : (s.setCopyBuffer p).powered = s.powered := rfl
@[simp] theorem State.setCopyBuffer_rstLow (p : Option Page) : (s.setCopyBuffer p).rstLow = s.rstLow := rfl
@[simp] theorem State.setCopyBuffer_time (p : Option Page) : (s.setCopyBuffer p).time = s.time := rfl
@[simp] theorem State.setCopyBuffer_array (p : Option Page) : (s.setCopyBuffer p).array = s.array := rfl
@[simp] theorem State.setCopyBuffer_engine (p : Option Page) : (s.setCopyBuffer p).engine = s.engine := rfl
@[simp] theorem State.setCopyBuffer_map (p : Option Page) : (s.setCopyBuffer p).map = s.map := rfl
@[simp] theorem State.setCopyBuffer_streams (p : Option Page) : (s.setCopyBuffer p).streams = s.streams := rfl
@[simp] theorem State.setCopyBuffer_lanes (p : Option Page) : (s.setCopyBuffer p).lanes = s.lanes := rfl
@[simp] theorem State.setCopyBuffer_triggers (p : Option Page) : (s.setCopyBuffer p).triggers = s.triggers := rfl
@[simp] theorem State.setCopyBuffer_bufs (p : Option Page) : (s.setCopyBuffer p).bufs = s.bufs := rfl
@[simp] theorem State.setCopyBuffer_reads (p : Option Page) : (s.setCopyBuffer p).reads = s.reads := rfl
@[simp] theorem State.setCopyBuffer_ctl (p : Option Page) : (s.setCopyBuffer p).ctl = s.ctl := rfl
@[simp] theorem State.setCopyBuffer_link (p : Option Page) : (s.setCopyBuffer p).link = s.link := rfl
@[simp] theorem State.setCopyBuffer_notices (p : Option Page) : (s.setCopyBuffer p).notices = s.notices := rfl
@[simp] theorem State.setCopyBuffer_freeUsed (p : Option Page) : (s.setCopyBuffer p).freeUsed = s.freeUsed := rfl
@[simp] theorem State.setCopyBuffer_reloc_current (p : Option Page) : (s.setCopyBuffer p).reloc.current = s.reloc.current := rfl
@[simp] theorem State.setCopyBuffer_reloc_waitList (p : Option Page) : (s.setCopyBuffer p).reloc.waitList = s.reloc.waitList := rfl
@[simp] theorem State.setCopyBuffer_reloc_standAside (p : Option Page) : (s.setCopyBuffer p).reloc.standAside = s.reloc.standAside := rfl
@[simp] theorem State.setCopyBuffer_reloc_copyBuffer (p : Option Page) : (s.setCopyBuffer p).reloc.copyBuffer = p := rfl
@[simp] theorem State.setCopyBuffer_unit (p : Option Page) (j : UnitId) : (s.setCopyBuffer p).unit j = s.unit j := rfl
@[simp] theorem State.setCopyBuffer_chain (p : Option Page) (j : StreamId) : (s.setCopyBuffer p).chain j = s.chain j := rfl
@[simp] theorem State.setCopyBuffer_stream (p : Option Page) (j : StreamId) : (s.setCopyBuffer p).stream j = s.stream j := rfl
@[simp] theorem State.setCopyBuffer_lane (p : Option Page) (j : LaneId) : (s.setCopyBuffer p).lane j = s.lane j := rfl
@[simp] theorem State.setCopyBuffer_timer (p : Option Page) (j : TimerId) : (s.setCopyBuffer p).timer j = s.timer j := rfl
@[simp] theorem State.setCopyBuffer_buf (p : Option Page) (j : BufId) : (s.setCopyBuffer p).buf j = s.buf j := rfl
@[simp] theorem State.setCopyBuffer_fillBuf (p : Option Page) (j : StreamId) : (s.setCopyBuffer p).fillBuf j = s.fillBuf j := rfl
@[simp] theorem State.setCopyBuffer_heldBuf (p : Option Page) (j : StreamId) : (s.setCopyBuffer p).heldBuf j = s.heldBuf j := rfl
@[simp] theorem State.setCopyBuffer_stagingBuf (p : Option Page) (j : StagingId) : (s.setCopyBuffer p).stagingBuf j = s.stagingBuf j := rfl
@[simp] theorem State.setCopyBuffer_running (p : Option Page) : (s.setCopyBuffer p).running = s.running := rfl
@[simp] theorem State.setCopyBuffer_freeCount (p : Option Page) : (s.setCopyBuffer p).freeCount = s.freeCount := rfl

/-! ### setStandAside -/
@[simp] theorem State.setStandAside_pending (b : Bool) : (s.setStandAside b).pending = s.pending := rfl
@[simp] theorem State.setStandAside_powered (b : Bool) : (s.setStandAside b).powered = s.powered := rfl
@[simp] theorem State.setStandAside_rstLow (b : Bool) : (s.setStandAside b).rstLow = s.rstLow := rfl
@[simp] theorem State.setStandAside_time (b : Bool) : (s.setStandAside b).time = s.time := rfl
@[simp] theorem State.setStandAside_array (b : Bool) : (s.setStandAside b).array = s.array := rfl
@[simp] theorem State.setStandAside_engine (b : Bool) : (s.setStandAside b).engine = s.engine := rfl
@[simp] theorem State.setStandAside_map (b : Bool) : (s.setStandAside b).map = s.map := rfl
@[simp] theorem State.setStandAside_streams (b : Bool) : (s.setStandAside b).streams = s.streams := rfl
@[simp] theorem State.setStandAside_lanes (b : Bool) : (s.setStandAside b).lanes = s.lanes := rfl
@[simp] theorem State.setStandAside_triggers (b : Bool) : (s.setStandAside b).triggers = s.triggers := rfl
@[simp] theorem State.setStandAside_bufs (b : Bool) : (s.setStandAside b).bufs = s.bufs := rfl
@[simp] theorem State.setStandAside_reads (b : Bool) : (s.setStandAside b).reads = s.reads := rfl
@[simp] theorem State.setStandAside_ctl (b : Bool) : (s.setStandAside b).ctl = s.ctl := rfl
@[simp] theorem State.setStandAside_link (b : Bool) : (s.setStandAside b).link = s.link := rfl
@[simp] theorem State.setStandAside_notices (b : Bool) : (s.setStandAside b).notices = s.notices := rfl
@[simp] theorem State.setStandAside_freeUsed (b : Bool) : (s.setStandAside b).freeUsed = s.freeUsed := rfl
@[simp] theorem State.setStandAside_reloc_current (b : Bool) : (s.setStandAside b).reloc.current = s.reloc.current := rfl
@[simp] theorem State.setStandAside_reloc_waitList (b : Bool) : (s.setStandAside b).reloc.waitList = s.reloc.waitList := rfl
@[simp] theorem State.setStandAside_reloc_copyBuffer (b : Bool) : (s.setStandAside b).reloc.copyBuffer = s.reloc.copyBuffer := rfl
@[simp] theorem State.setStandAside_reloc_standAside (b : Bool) : (s.setStandAside b).reloc.standAside = b := rfl
@[simp] theorem State.setStandAside_unit (b : Bool) (j : UnitId) : (s.setStandAside b).unit j = s.unit j := rfl
@[simp] theorem State.setStandAside_chain (b : Bool) (j : StreamId) : (s.setStandAside b).chain j = s.chain j := rfl
@[simp] theorem State.setStandAside_stream (b : Bool) (j : StreamId) : (s.setStandAside b).stream j = s.stream j := rfl
@[simp] theorem State.setStandAside_lane (b : Bool) (j : LaneId) : (s.setStandAside b).lane j = s.lane j := rfl
@[simp] theorem State.setStandAside_timer (b : Bool) (j : TimerId) : (s.setStandAside b).timer j = s.timer j := rfl
@[simp] theorem State.setStandAside_buf (b : Bool) (j : BufId) : (s.setStandAside b).buf j = s.buf j := rfl
@[simp] theorem State.setStandAside_fillBuf (b : Bool) (j : StreamId) : (s.setStandAside b).fillBuf j = s.fillBuf j := rfl
@[simp] theorem State.setStandAside_heldBuf (b : Bool) (j : StreamId) : (s.setStandAside b).heldBuf j = s.heldBuf j := rfl
@[simp] theorem State.setStandAside_stagingBuf (b : Bool) (j : StagingId) : (s.setStandAside b).stagingBuf j = s.stagingBuf j := rfl
@[simp] theorem State.setStandAside_running (b : Bool) : (s.setStandAside b).running = s.running := rfl
@[simp] theorem State.setStandAside_freeCount (b : Bool) : (s.setStandAside b).freeCount = s.freeCount := rfl

/-! ### setReadWaits -/
@[simp] theorem State.setReadWaits_pending (l : List ReadReq) : (s.setReadWaits l).pending = s.pending := rfl
@[simp] theorem State.setReadWaits_powered (l : List ReadReq) : (s.setReadWaits l).powered = s.powered := rfl
@[simp] theorem State.setReadWaits_rstLow (l : List ReadReq) : (s.setReadWaits l).rstLow = s.rstLow := rfl
@[simp] theorem State.setReadWaits_time (l : List ReadReq) : (s.setReadWaits l).time = s.time := rfl
@[simp] theorem State.setReadWaits_array (l : List ReadReq) : (s.setReadWaits l).array = s.array := rfl
@[simp] theorem State.setReadWaits_engine (l : List ReadReq) : (s.setReadWaits l).engine = s.engine := rfl
@[simp] theorem State.setReadWaits_map (l : List ReadReq) : (s.setReadWaits l).map = s.map := rfl
@[simp] theorem State.setReadWaits_streams (l : List ReadReq) : (s.setReadWaits l).streams = s.streams := rfl
@[simp] theorem State.setReadWaits_lanes (l : List ReadReq) : (s.setReadWaits l).lanes = s.lanes := rfl
@[simp] theorem State.setReadWaits_triggers (l : List ReadReq) : (s.setReadWaits l).triggers = s.triggers := rfl
@[simp] theorem State.setReadWaits_bufs (l : List ReadReq) : (s.setReadWaits l).bufs = s.bufs := rfl
@[simp] theorem State.setReadWaits_reloc (l : List ReadReq) : (s.setReadWaits l).reloc = s.reloc := rfl
@[simp] theorem State.setReadWaits_ctl (l : List ReadReq) : (s.setReadWaits l).ctl = s.ctl := rfl
@[simp] theorem State.setReadWaits_link (l : List ReadReq) : (s.setReadWaits l).link = s.link := rfl
@[simp] theorem State.setReadWaits_notices (l : List ReadReq) : (s.setReadWaits l).notices = s.notices := rfl
@[simp] theorem State.setReadWaits_freeUsed (l : List ReadReq) : (s.setReadWaits l).freeUsed = s.freeUsed := rfl
@[simp] theorem State.setReadWaits_reads_staging (l : List ReadReq) : (s.setReadWaits l).reads.staging = s.reads.staging := rfl
@[simp] theorem State.setReadWaits_reads_waitList (l : List ReadReq) : (s.setReadWaits l).reads.waitList = l := rfl
@[simp] theorem State.setReadWaits_unit (l : List ReadReq) (j : UnitId) : (s.setReadWaits l).unit j = s.unit j := rfl
@[simp] theorem State.setReadWaits_chain (l : List ReadReq) (j : StreamId) : (s.setReadWaits l).chain j = s.chain j := rfl
@[simp] theorem State.setReadWaits_stream (l : List ReadReq) (j : StreamId) : (s.setReadWaits l).stream j = s.stream j := rfl
@[simp] theorem State.setReadWaits_lane (l : List ReadReq) (j : LaneId) : (s.setReadWaits l).lane j = s.lane j := rfl
@[simp] theorem State.setReadWaits_timer (l : List ReadReq) (j : TimerId) : (s.setReadWaits l).timer j = s.timer j := rfl
@[simp] theorem State.setReadWaits_buf (l : List ReadReq) (j : BufId) : (s.setReadWaits l).buf j = s.buf j := rfl
@[simp] theorem State.setReadWaits_fillBuf (l : List ReadReq) (j : StreamId) : (s.setReadWaits l).fillBuf j = s.fillBuf j := rfl
@[simp] theorem State.setReadWaits_heldBuf (l : List ReadReq) (j : StreamId) : (s.setReadWaits l).heldBuf j = s.heldBuf j := rfl
@[simp] theorem State.setReadWaits_stagingBuf (l : List ReadReq) (j : StagingId) : (s.setReadWaits l).stagingBuf j = s.stagingBuf j := rfl
@[simp] theorem State.setReadWaits_running (l : List ReadReq) : (s.setReadWaits l).running = s.running := rfl
@[simp] theorem State.setReadWaits_freeCount (l : List ReadReq) : (s.setReadWaits l).freeCount = s.freeCount := rfl

/-! ### setStaging -/
@[simp] theorem State.setStaging_pending (i : StagingId) (r : Staging) : (s.setStaging i r).pending = s.pending := rfl
@[simp] theorem State.setStaging_powered (i : StagingId) (r : Staging) : (s.setStaging i r).powered = s.powered := rfl
@[simp] theorem State.setStaging_rstLow (i : StagingId) (r : Staging) : (s.setStaging i r).rstLow = s.rstLow := rfl
@[simp] theorem State.setStaging_time (i : StagingId) (r : Staging) : (s.setStaging i r).time = s.time := rfl
@[simp] theorem State.setStaging_array (i : StagingId) (r : Staging) : (s.setStaging i r).array = s.array := rfl
@[simp] theorem State.setStaging_engine (i : StagingId) (r : Staging) : (s.setStaging i r).engine = s.engine := rfl
@[simp] theorem State.setStaging_map (i : StagingId) (r : Staging) : (s.setStaging i r).map = s.map := rfl
@[simp] theorem State.setStaging_streams (i : StagingId) (r : Staging) : (s.setStaging i r).streams = s.streams := rfl
@[simp] theorem State.setStaging_lanes (i : StagingId) (r : Staging) : (s.setStaging i r).lanes = s.lanes := rfl
@[simp] theorem State.setStaging_triggers (i : StagingId) (r : Staging) : (s.setStaging i r).triggers = s.triggers := rfl
@[simp] theorem State.setStaging_bufs (i : StagingId) (r : Staging) : (s.setStaging i r).bufs = s.bufs := rfl
@[simp] theorem State.setStaging_reloc (i : StagingId) (r : Staging) : (s.setStaging i r).reloc = s.reloc := rfl
@[simp] theorem State.setStaging_ctl (i : StagingId) (r : Staging) : (s.setStaging i r).ctl = s.ctl := rfl
@[simp] theorem State.setStaging_link (i : StagingId) (r : Staging) : (s.setStaging i r).link = s.link := rfl
@[simp] theorem State.setStaging_notices (i : StagingId) (r : Staging) : (s.setStaging i r).notices = s.notices := rfl
@[simp] theorem State.setStaging_freeUsed (i : StagingId) (r : Staging) : (s.setStaging i r).freeUsed = s.freeUsed := rfl
@[simp] theorem State.setStaging_reads_waitList (i : StagingId) (r : Staging) : (s.setStaging i r).reads.waitList = s.reads.waitList := rfl
@[simp] theorem State.setStaging_unit (i : StagingId) (r : Staging) (j : UnitId) : (s.setStaging i r).unit j = s.unit j := rfl
@[simp] theorem State.setStaging_chain (i : StagingId) (r : Staging) (j : StreamId) : (s.setStaging i r).chain j = s.chain j := rfl
@[simp] theorem State.setStaging_stream (i : StagingId) (r : Staging) (j : StreamId) : (s.setStaging i r).stream j = s.stream j := rfl
@[simp] theorem State.setStaging_lane (i : StagingId) (r : Staging) (j : LaneId) : (s.setStaging i r).lane j = s.lane j := rfl
@[simp] theorem State.setStaging_timer (i : StagingId) (r : Staging) (j : TimerId) : (s.setStaging i r).timer j = s.timer j := rfl
@[simp] theorem State.setStaging_buf (i : StagingId) (r : Staging) (j : BufId) : (s.setStaging i r).buf j = s.buf j := rfl
@[simp] theorem State.setStaging_fillBuf (i : StagingId) (r : Staging) (j : StreamId) : (s.setStaging i r).fillBuf j = s.fillBuf j := rfl
@[simp] theorem State.setStaging_heldBuf (i : StagingId) (r : Staging) (j : StreamId) : (s.setStaging i r).heldBuf j = s.heldBuf j := rfl
@[simp] theorem State.setStaging_stagingBuf (i : StagingId) (r : Staging) : (s.setStaging i r).stagingBuf i = r := by simp [State.setStaging, State.stagingBuf]
theorem State.setStaging_stagingBuf_ite (i : StagingId) (r : Staging) (j : StagingId) : (s.setStaging i r).stagingBuf j = if i = j then r else s.stagingBuf j := by
  simp [State.setStaging, State.stagingBuf, vget_vset]
@[simp] theorem State.setStaging_stagingBuf_ne (i : StagingId) (r : Staging) (j : StagingId) (h : i ≠ j) : (s.setStaging i r).stagingBuf j = s.stagingBuf j := by
  simp [State.setStaging_stagingBuf_ite, h]
@[simp] theorem State.setStaging_running (i : StagingId) (r : Staging) : (s.setStaging i r).running = s.running := rfl
@[simp] theorem State.setStaging_freeCount (i : StagingId) (r : Staging) : (s.setStaging i r).freeCount = s.freeCount := rfl

/-! ### setCtl -/
@[simp] theorem State.setCtl_pending (c : Ctl) : (s.setCtl c).pending = s.pending := rfl
@[simp] theorem State.setCtl_powered (c : Ctl) : (s.setCtl c).powered = s.powered := rfl
@[simp] theorem State.setCtl_rstLow (c : Ctl) : (s.setCtl c).rstLow = s.rstLow := rfl
@[simp] theorem State.setCtl_time (c : Ctl) : (s.setCtl c).time = s.time := rfl
@[simp] theorem State.setCtl_array (c : Ctl) : (s.setCtl c).array = s.array := rfl
@[simp] theorem State.setCtl_engine (c : Ctl) : (s.setCtl c).engine = s.engine := rfl
@[simp] theorem State.setCtl_map (c : Ctl) : (s.setCtl c).map = s.map := rfl
@[simp] theorem State.setCtl_streams (c : Ctl) : (s.setCtl c).streams = s.streams := rfl
@[simp] theorem State.setCtl_lanes (c : Ctl) : (s.setCtl c).lanes = s.lanes := rfl
@[simp] theorem State.setCtl_triggers (c : Ctl) : (s.setCtl c).triggers = s.triggers := rfl
@[simp] theorem State.setCtl_bufs (c : Ctl) : (s.setCtl c).bufs = s.bufs := rfl
@[simp] theorem State.setCtl_reloc (c : Ctl) : (s.setCtl c).reloc = s.reloc := rfl
@[simp] theorem State.setCtl_reads (c : Ctl) : (s.setCtl c).reads = s.reads := rfl
@[simp] theorem State.setCtl_link (c : Ctl) : (s.setCtl c).link = s.link := rfl
@[simp] theorem State.setCtl_notices (c : Ctl) : (s.setCtl c).notices = s.notices := rfl
@[simp] theorem State.setCtl_freeUsed (c : Ctl) : (s.setCtl c).freeUsed = s.freeUsed := rfl
@[simp] theorem State.setCtl_ctl (c : Ctl) : (s.setCtl c).ctl = c := rfl
@[simp] theorem State.setCtl_unit (c : Ctl) (j : UnitId) : (s.setCtl c).unit j = s.unit j := rfl
@[simp] theorem State.setCtl_chain (c : Ctl) (j : StreamId) : (s.setCtl c).chain j = s.chain j := rfl
@[simp] theorem State.setCtl_stream (c : Ctl) (j : StreamId) : (s.setCtl c).stream j = s.stream j := rfl
@[simp] theorem State.setCtl_lane (c : Ctl) (j : LaneId) : (s.setCtl c).lane j = s.lane j := rfl
@[simp] theorem State.setCtl_timer (c : Ctl) (j : TimerId) : (s.setCtl c).timer j = s.timer j := rfl
@[simp] theorem State.setCtl_buf (c : Ctl) (j : BufId) : (s.setCtl c).buf j = s.buf j := rfl
@[simp] theorem State.setCtl_fillBuf (c : Ctl) (j : StreamId) : (s.setCtl c).fillBuf j = s.fillBuf j := rfl
@[simp] theorem State.setCtl_heldBuf (c : Ctl) (j : StreamId) : (s.setCtl c).heldBuf j = s.heldBuf j := rfl
@[simp] theorem State.setCtl_stagingBuf (c : Ctl) (j : StagingId) : (s.setCtl c).stagingBuf j = s.stagingBuf j := rfl
@[simp] theorem State.setCtl_running (c : Ctl) : (s.setCtl c).running = s.running := rfl
@[simp] theorem State.setCtl_freeCount (c : Ctl) : (s.setCtl c).freeCount = s.freeCount := rfl

/-! ### setLink -/
@[simp] theorem State.setLink_pending (l : Link) : (s.setLink l).pending = s.pending := rfl
@[simp] theorem State.setLink_powered (l : Link) : (s.setLink l).powered = s.powered := rfl
@[simp] theorem State.setLink_rstLow (l : Link) : (s.setLink l).rstLow = s.rstLow := rfl
@[simp] theorem State.setLink_time (l : Link) : (s.setLink l).time = s.time := rfl
@[simp] theorem State.setLink_array (l : Link) : (s.setLink l).array = s.array := rfl
@[simp] theorem State.setLink_engine (l : Link) : (s.setLink l).engine = s.engine := rfl
@[simp] theorem State.setLink_map (l : Link) : (s.setLink l).map = s.map := rfl
@[simp] theorem State.setLink_streams (l : Link) : (s.setLink l).streams = s.streams := rfl
@[simp] theorem State.setLink_lanes (l : Link) : (s.setLink l).lanes = s.lanes := rfl
@[simp] theorem State.setLink_triggers (l : Link) : (s.setLink l).triggers = s.triggers := rfl
@[simp] theorem State.setLink_bufs (l : Link) : (s.setLink l).bufs = s.bufs := rfl
@[simp] theorem State.setLink_reloc (l : Link) : (s.setLink l).reloc = s.reloc := rfl
@[simp] theorem State.setLink_reads (l : Link) : (s.setLink l).reads = s.reads := rfl
@[simp] theorem State.setLink_ctl (l : Link) : (s.setLink l).ctl = s.ctl := rfl
@[simp] theorem State.setLink_notices (l : Link) : (s.setLink l).notices = s.notices := rfl
@[simp] theorem State.setLink_freeUsed (l : Link) : (s.setLink l).freeUsed = s.freeUsed := rfl
@[simp] theorem State.setLink_link (l : Link) : (s.setLink l).link = l := rfl
@[simp] theorem State.setLink_unit (l : Link) (j : UnitId) : (s.setLink l).unit j = s.unit j := rfl
@[simp] theorem State.setLink_chain (l : Link) (j : StreamId) : (s.setLink l).chain j = s.chain j := rfl
@[simp] theorem State.setLink_stream (l : Link) (j : StreamId) : (s.setLink l).stream j = s.stream j := rfl
@[simp] theorem State.setLink_lane (l : Link) (j : LaneId) : (s.setLink l).lane j = s.lane j := rfl
@[simp] theorem State.setLink_timer (l : Link) (j : TimerId) : (s.setLink l).timer j = s.timer j := rfl
@[simp] theorem State.setLink_buf (l : Link) (j : BufId) : (s.setLink l).buf j = s.buf j := rfl
@[simp] theorem State.setLink_fillBuf (l : Link) (j : StreamId) : (s.setLink l).fillBuf j = s.fillBuf j := rfl
@[simp] theorem State.setLink_heldBuf (l : Link) (j : StreamId) : (s.setLink l).heldBuf j = s.heldBuf j := rfl
@[simp] theorem State.setLink_stagingBuf (l : Link) (j : StagingId) : (s.setLink l).stagingBuf j = s.stagingBuf j := rfl
@[simp] theorem State.setLink_running (l : Link) : (s.setLink l).running = s.running := rfl
@[simp] theorem State.setLink_freeCount (l : Link) : (s.setLink l).freeCount = s.freeCount := rfl

/-! ### setOp -/
@[simp] theorem State.setOp_pending (o : Option Operation) : (s.setOp o).pending = s.pending := rfl
@[simp] theorem State.setOp_powered (o : Option Operation) : (s.setOp o).powered = s.powered := rfl
@[simp] theorem State.setOp_rstLow (o : Option Operation) : (s.setOp o).rstLow = s.rstLow := rfl
@[simp] theorem State.setOp_time (o : Option Operation) : (s.setOp o).time = s.time := rfl
@[simp] theorem State.setOp_array (o : Option Operation) : (s.setOp o).array = s.array := rfl
@[simp] theorem State.setOp_map (o : Option Operation) : (s.setOp o).map = s.map := rfl
@[simp] theorem State.setOp_streams (o : Option Operation) : (s.setOp o).streams = s.streams := rfl
@[simp] theorem State.setOp_lanes (o : Option Operation) : (s.setOp o).lanes = s.lanes := rfl
@[simp] theorem State.setOp_triggers (o : Option Operation) : (s.setOp o).triggers = s.triggers := rfl
@[simp] theorem State.setOp_bufs (o : Option Operation) : (s.setOp o).bufs = s.bufs := rfl
@[simp] theorem State.setOp_reloc (o : Option Operation) : (s.setOp o).reloc = s.reloc := rfl
@[simp] theorem State.setOp_reads (o : Option Operation) : (s.setOp o).reads = s.reads := rfl
@[simp] theorem State.setOp_ctl (o : Option Operation) : (s.setOp o).ctl = s.ctl := rfl
@[simp] theorem State.setOp_link (o : Option Operation) : (s.setOp o).link = s.link := rfl
@[simp] theorem State.setOp_notices (o : Option Operation) : (s.setOp o).notices = s.notices := rfl
@[simp] theorem State.setOp_freeUsed (o : Option Operation) : (s.setOp o).freeUsed = s.freeUsed := rfl
@[simp] theorem State.setOp_engine_readBalance (o : Option Operation) : (s.setOp o).engine.readBalance = s.engine.readBalance := rfl
@[simp] theorem State.setOp_engine_op (o : Option Operation) : (s.setOp o).engine.op = o := rfl
@[simp] theorem State.setOp_unit (o : Option Operation) (j : UnitId) : (s.setOp o).unit j = s.unit j := rfl
@[simp] theorem State.setOp_chain (o : Option Operation) (j : StreamId) : (s.setOp o).chain j = s.chain j := rfl
@[simp] theorem State.setOp_stream (o : Option Operation) (j : StreamId) : (s.setOp o).stream j = s.stream j := rfl
@[simp] theorem State.setOp_lane (o : Option Operation) (j : LaneId) : (s.setOp o).lane j = s.lane j := rfl
@[simp] theorem State.setOp_timer (o : Option Operation) (j : TimerId) : (s.setOp o).timer j = s.timer j := rfl
@[simp] theorem State.setOp_buf (o : Option Operation) (j : BufId) : (s.setOp o).buf j = s.buf j := rfl
@[simp] theorem State.setOp_fillBuf (o : Option Operation) (j : StreamId) : (s.setOp o).fillBuf j = s.fillBuf j := rfl
@[simp] theorem State.setOp_heldBuf (o : Option Operation) (j : StreamId) : (s.setOp o).heldBuf j = s.heldBuf j := rfl
@[simp] theorem State.setOp_stagingBuf (o : Option Operation) (j : StagingId) : (s.setOp o).stagingBuf j = s.stagingBuf j := rfl
@[simp] theorem State.setOp_running (o : Option Operation) : (s.setOp o).running = s.running := rfl
@[simp] theorem State.setOp_freeCount (o : Option Operation) : (s.setOp o).freeCount = s.freeCount := rfl

end Sys2Proof.Machine
end

