-- ==== Sys2Proof/Laws/Array.lean ====
section
/-!
SUPPORT. What the array's operations do to what each slot reads, and that each keeps the canonical form (R1, R2, R9).
-/
-- The theorems of this file are elaborated one after another: in parallel their waiting threads exceed the memory limit of the check.
set_option Elab.async false

namespace Sys2Proof.Machine

namespace Memory

/-- The canonical form as two facts about the entries. -/
theorem wf_iff (m : Memory) : m.wf = true ↔ m.Pairwise (fun a b => a.1 < b.1) ∧ ∀ e ∈ m, e.2 ≠ erasedPage := by
  simp [wf]

theorem read_of_absent {m : Memory} {x : Nat} (h : ∀ e ∈ m, e.1 ≠ x) : m.read x = erasedPage := by
  induction m with
  | nil => rfl
  | cons e m ih =>
    obtain ⟨a, p⟩ := e
    have ha : a ≠ x := h (a, p) (by simp)
    simp only [read, if_neg ha]
    exact ih (fun e he => h e (by simp [he]))

theorem read_filter {m : Memory} {f : Nat × Page → Bool} {x : Nat} (h : ∀ e ∈ m, e.1 = x → f e = true) :
    read (m.filter f) x = m.read x := by
  induction m with
  | nil => rfl
  | cons e m ih =>
    obtain ⟨a, p⟩ := e
    have ih := ih (fun e he => h e (by simp [he]))
    by_cases ha : a = x
    · have hf : f (a, p) = true := h (a, p) (by simp) ha
      rw [List.filter_cons_of_pos hf]
      simp [read, ha]
    · cases hf : f (a, p) <;> simp [List.filter, hf, read, ha, ih]

theorem read_drop_self (m : Memory) (x : Nat) : (m.drop x).read x = erasedPage :=
  read_of_absent (by simp [drop])

theorem read_drop_ne (m : Memory) {x y : Nat} (h : x ≠ y) : (m.drop x).read y = m.read y :=
  read_filter (by intro e _ he; simp [he, Ne.symm h])

theorem read_insert_self {m : Memory} {x : Nat} (p : Page) (h : ∀ e ∈ m, e.1 ≠ x) : (m.insert x p).read x = p := by
  induction m with
  | nil => simp [insert, read]
  | cons e m ih =>
    obtain ⟨a, q⟩ := e
    have ha : a ≠ x := h (a, q) (by simp)
    by_cases hx : x < a
    · simp [insert, hx, read]
    · simp [insert, hx, read, ha, ih (fun e he => h e (by simp [he]))]

theorem read_insert_ne (m : Memory) {x y : Nat} (p : Page) (h : x ≠ y) : (m.insert x p).read y = m.read y := by
  induction m with
  | nil => simp [insert, read, h]
  | cons e m ih =>
    obtain ⟨a, q⟩ := e
    by_cases hx : x < a
    · simp [insert, hx, read, h]
    · simp [insert, hx, read, ih]

/-- A read after a write to the same slot gives the page written. -/
theorem read_write_self (m : Memory) (x : Nat) (p : Page) : (m.write x p).read x = p := by
  unfold write
  split
  · next h => rw [read_drop_self, h]
  · exact read_insert_self p (by simp [drop])

/-- A write leaves every other slot alone. -/
theorem read_write_ne (m : Memory) {x y : Nat} (p : Page) (h : x ≠ y) : (m.write x p).read y = m.read y := by
  unfold write
  split
  · exact read_drop_ne m h
  · rw [read_insert_ne _ p h, read_drop_ne m h]

theorem wf_filter {m : Memory} (f : Nat × Page → Bool) (h : m.wf = true) : wf (m.filter f) = true := by
  rw [wf_iff] at h ⊢
  exact ⟨h.1.filter f, fun e he => h.2 e (List.mem_of_mem_filter he)⟩

theorem mem_insert {m : Memory} {x : Nat} {p : Page} {e : Nat × Page} (h : e ∈ m.insert x p) : e = (x, p) ∨ e ∈ m := by
  induction m with
  | nil => simpa [insert] using h
  | cons d m ih =>
    obtain ⟨a, q⟩ := d
    unfold insert at h
    split at h
    · simpa using h
    · rcases List.mem_cons.1 h with h | h
      · simp [h]
      · rcases ih h with h | h <;> simp [h]

theorem wf_insert {m : Memory} {x : Nat} {p : Page} (h : m.wf = true) (hp : p ≠ erasedPage) (hx : ∀ e ∈ m, e.1 ≠ x) :
    (m.insert x p).wf = true := by
  rw [wf_iff] at h ⊢
  refine ⟨?_, fun e he => ?_⟩
  · obtain ⟨h, -⟩ := h
    induction m with
    | nil => simp [insert]
    | cons d m ih =>
      obtain ⟨a, q⟩ := d
      have ha : a ≠ x := hx (a, q) (by simp)
      rw [List.pairwise_cons] at h
      unfold insert
      split
      · next hlt =>
        refine List.pairwise_cons.2 ⟨fun e he => ?_, List.pairwise_cons.2 h⟩
        rcases List.mem_cons.1 he with rfl | he
        · exact hlt
        · exact Nat.lt_trans hlt (h.1 e he)
      · next hge =>
        refine List.pairwise_cons.2 ⟨fun e he => ?_, ih (fun e he => hx e (by simp [he])) h.2⟩
        rcases mem_insert he with rfl | he
        · simp only; omega
        · exact h.1 e he
  · rcases mem_insert he with rfl | he
    · exact hp
    · exact h.2 e he

/-- A write keeps the canonical form. -/
theorem wf_write {m : Memory} (x : Nat) (p : Page) (h : m.wf = true) : (m.write x p).wf = true := by
  unfold write
  split
  · exact wf_filter _ h
  · next hp => exact wf_insert (wf_filter _ h) hp (by simp [drop])

/-- An erase keeps the canonical form. -/
theorem wf_eraseUnit {m : Memory} (u : UnitId) (h : m.wf = true) : (m.eraseUnit u).wf = true := wf_filter _ h

/-- A slot of an erased unit reads as erased (R9). -/
theorem read_eraseUnit_self (m : Memory) (u : UnitId) {x : Nat} (h : x / slotsPerUnit = u.val) :
    (m.eraseUnit u).read x = erasedPage := by
  refine read_of_absent fun e he hx => ?_
  have h2 := (List.mem_filter.1 he).2
  rw [hx, h] at h2
  simp at h2

/-- An erase leaves the slots of every other unit alone (R2). -/
theorem read_eraseUnit_ne (m : Memory) (u : UnitId) {x : Nat} (h : x / slotsPerUnit ≠ u.val) :
    (m.eraseUnit u).read x = m.read x :=
  read_filter (by intro e _ he; simp [he, h])

end Memory

theorem wf_undefineSlots (u : UnitId) (free : Nat) : ∀ (n k : Nat) (m : Memory), m.wf = true →
    (undefineSlots u free k n m).wf = true
  | 0, _, _, h => h
  | n + 1, k, _, h => wf_undefineSlots u free n (k + 1) _ (Memory.wf_write _ _ h)

/-- Slots outside the range made undefined read as before. -/
theorem read_undefineSlots_ne (u : UnitId) (free : Nat) {x : Nat} : ∀ (n k : Nat) (m : Memory),
    (∀ j, k ≤ j → j < k + n → slotAddr u j ≠ x) → (undefineSlots u free k n m).read x = m.read x
  | 0, _, _, _ => rfl
  | n + 1, k, m, h => by
    rw [undefineSlots, read_undefineSlots_ne u free n (k + 1) _ (fun j h1 h2 => h j (by omega) (by omega))]
    exact Memory.read_write_ne _ _ (h k (by omega) (by omega))

/-- The slots of a unit whose ERASE failed or was cut are undefined; those of every other unit read as before (R9, R19). -/
theorem read_undefineUnit_ne (u : UnitId) (s : State) {x : Nat} (h : x / slotsPerUnit ≠ u.val) :
    (undefineUnit u s).array.read x = s.array.read x := by
  refine read_undefineSlots_ne u _ slotsPerUnit 0 _ fun j _ hj hx => h ?_
  subst hx
  unfold slotAddr slotsPerUnit at *
  omega

theorem wf_undefineUnit (u : UnitId) (s : State) (h : s.array.wf = true) : (undefineUnit u s).array.wf = true :=
  wf_undefineSlots u _ _ _ _ h

theorem wf_writeSlot (u : UnitId) (k : Nat) (p : Page) (s : State) (h : s.array.wf = true) :
    (s.writeSlot u k p).array.wf = true := Memory.wf_write _ _ h

theorem wf_spoilSlot (u : UnitId) (k : Nat) (s : State) (h : s.array.wf = true) : (spoilSlot u k s).array.wf = true :=
  Memory.wf_write _ _ h

/-- A tag held to class INVALID is INVALID. -/
theorem classify_invalidTag (t : Tag) : classify (invalidTag t) = .invalid := by
  unfold invalidTag
  split
  · next h => exact h
  · decide

/-- The slot of a failed or cut PROGRAM reads with an INVALID tag (R7, R19). -/
theorem classify_spoilSlot (u : UnitId) (k : Nat) (s : State) :
    classify ((spoilSlot u k s).array.read (slotAddr u k)).tag = .invalid := by
  have : (spoilSlot u k s).array.read (slotAddr u k) = spoiledPage s.freeUsed := Memory.read_write_self _ _ _
  rw [this]
  exact classify_invalidTag _

/-- After a reset the array, with nothing listed, has the canonical form. -/
theorem reset_array_wf : State.reset.array.wf = true := rfl

end Sys2Proof.Machine
end

