-- ==== Sys2Proof/Laws/Moves.lean ====
section
/-!
SUPPORT. What the blocks' operations can do, said once: `Moves s t` when `t` comes from `s` by quiet changes of the blocks' own state,
raises, completions, retirements, WORN entry and changes of a stream's binding. Each operation's lemma `Moves.<operation>` says that it
does no more; the invariants of the whole device are derived from `Moves` by induction.
-/
-- The theorems of this file are elaborated one after another: in parallel their waiting threads exceed the memory limit of the check.
set_option Elab.async false

namespace Sys2Proof.Machine

/-- A change that touches neither the queue, the supply, RST#, device time, the array, the triggers, the request table, the replies, the
notice backlog, the retired count, the device state, the scan and the presence of a shutdown record, nor what any lane listens to and
any stream is bound to. -/
structure Quiet (s t : State) : Prop where
  pending : t.pending = s.pending
  powered : t.powered = s.powered
  rstLow : t.rstLow = s.rstLow
  time : t.time = s.time
  array : t.array = s.array
  triggers : t.triggers = s.triggers
  requests : t.link.requests = s.link.requests
  replies : t.link.replies = s.link.replies
  backlog : t.notices.backlog = s.notices.backlog
  overflow : t.notices.overflow = s.notices.overflow
  retiredCount : t.map.retiredCount = s.map.retiredCount
  device : t.ctl.device = s.ctl.device
  scan : t.ctl.scan = s.ctl.scan
  shutdown : t.ctl.shutdown.isSome = s.ctl.shutdown.isSome
  listening : ∀ l, (t.lane l).listening = (s.lane l).listening
  config : ∀ st, (t.stream st).config = (s.stream st).config

/-- What the operations of the blocks can do, one after another. -/
inductive Moves : State → State → Prop where
  | refl (s : State) : Moves s s
  | trans {s t r : State} : Moves s t → Moves t r → Moves s r
  | quiet {s t : State} : Quiet s t → Moves s t
  | raised (k : NoticeKind) (arg : Nat) (s : State) : Moves s (raise k arg s)
  | finished (k : ReqKind) (tag : Byte) (st : Status) (contents : List Byte) (staging : Option StagingId) (s : State) :
      Moves s (finishRequest k tag st contents staging s)
  | retired (u : UnitId) (s : State) : Moves s (retireRecord u s)
  | worn (s : State) : s.ctl.device = .ready → Moves s (s.setCtl { s.ctl with device := .worn })
  | rebound (st : StreamId) (r : StreamRec) (s : State) : Moves s (relisten (s.setStream st r))

namespace Moves

variable {s t : State}

/-! ## The accessors -/

theorem next {r : State} (h : Moves s t) (q : Quiet t r) : Moves s r := h.trans (.quiet q)

theorem setUnit (h : Moves s t) (u : UnitId) (r : UnitRec) : Moves s (t.setUnit u r) :=
  h.next ⟨rfl, rfl, rfl, rfl, rfl, rfl, rfl, rfl, rfl, rfl, rfl, rfl, rfl, rfl, fun _ => rfl, fun _ => rfl⟩
theorem setChain (h : Moves s t) (st : StreamId) (c : List UnitId) : Moves s (t.setChain st c) :=
  h.next ⟨rfl, rfl, rfl, rfl, rfl, rfl, rfl, rfl, rfl, rfl, rfl, rfl, rfl, rfl, fun _ => rfl, fun _ => rfl⟩
theorem setFreeList (h : Moves s t) (l : List UnitId) : Moves s (t.setFreeList l) :=
  h.next ⟨rfl, rfl, rfl, rfl, rfl, rfl, rfl, rfl, rfl, rfl, rfl, rfl, rfl, rfl, fun _ => rfl, fun _ => rfl⟩
theorem setDirtyList (h : Moves s t) (l : List UnitId) : Moves s (t.setDirtyList l) :=
  h.next ⟨rfl, rfl, rfl, rfl, rfl, rfl, rfl, rfl, rfl, rfl, rfl, rfl, rfl, rfl, fun _ => rfl, fun _ => rfl⟩
theorem setErases (h : Moves s t) (n : Nat) : Moves s { t with map := { t.map with erasesSince := n } } :=
  h.next ⟨rfl, rfl, rfl, rfl, rfl, rfl, rfl, rfl, rfl, rfl, rfl, rfl, rfl, rfl, fun _ => rfl, fun _ => rfl⟩
theorem setBuf (h : Moves s t) (b : BufId) (r : PageBuf) : Moves s (t.setBuf b r) :=
  h.next ⟨rfl, rfl, rfl, rfl, rfl, rfl, rfl, rfl, rfl, rfl, rfl, rfl, rfl, rfl, fun _ => rfl, fun _ => rfl⟩
theorem setFill (h : Moves s t) (st : StreamId) (b : Option BufId) : Moves s (t.setFill st b) :=
  h.next ⟨rfl, rfl, rfl, rfl, rfl, rfl, rfl, rfl, rfl, rfl, rfl, rfl, rfl, rfl, fun _ => rfl, fun _ => rfl⟩
theorem setHeld (h : Moves s t) (st : StreamId) (b : Option BufId) : Moves s (t.setHeld st b) :=
  h.next ⟨rfl, rfl, rfl, rfl, rfl, rfl, rfl, rfl, rfl, rfl, rfl, rfl, rfl, rfl, fun _ => rfl, fun _ => rfl⟩
theorem setPool (h : Moves s t) (l : List BufId) : Moves s (t.setPool l) :=
  h.next ⟨rfl, rfl, rfl, rfl, rfl, rfl, rfl, rfl, rfl, rfl, rfl, rfl, rfl, rfl, fun _ => rfl, fun _ => rfl⟩
theorem setQueue (h : Moves s t) (l : List QueueEntry) : Moves s (t.setQueue l) :=
  h.next ⟨rfl, rfl, rfl, rfl, rfl, rfl, rfl, rfl, rfl, rfl, rfl, rfl, rfl, rfl, fun _ => rfl, fun _ => rfl⟩
theorem setBufWaits (h : Moves s t) (l : List StreamId) : Moves s (t.setBufWaits l) :=
  h.next ⟨rfl, rfl, rfl, rfl, rfl, rfl, rfl, rfl, rfl, rfl, rfl, rfl, rfl, rfl, fun _ => rfl, fun _ => rfl⟩
theorem setStarvedList (h : Moves s t) (l : List StreamId) : Moves s (t.setStarvedList l) :=
  h.next ⟨rfl, rfl, rfl, rfl, rfl, rfl, rfl, rfl, rfl, rfl, rfl, rfl, rfl, rfl, fun _ => rfl, fun _ => rfl⟩
theorem setFlushWaiters (h : Moves s t) (l : List FlushWaiter) : Moves s (t.setFlushWaiters l) :=
  h.next ⟨rfl, rfl, rfl, rfl, rfl, rfl, rfl, rfl, rfl, rfl, rfl, rfl, rfl, rfl, fun _ => rfl, fun _ => rfl⟩
theorem setHeldAtWorn (h : Moves s t) (l : List StreamId) : Moves s (t.setHeldAtWorn l) :=
  h.next ⟨rfl, rfl, rfl, rfl, rfl, rfl, rfl, rfl, rfl, rfl, rfl, rfl, rfl, rfl, fun _ => rfl, fun _ => rfl⟩
theorem setReloc (h : Moves s t) (r : Option Reloc) : Moves s (t.setReloc r) :=
  h.next ⟨rfl, rfl, rfl, rfl, rfl, rfl, rfl, rfl, rfl, rfl, rfl, rfl, rfl, rfl, fun _ => rfl, fun _ => rfl⟩
theorem setRelocWaits (h : Moves s t) (l : List RelocWait) : Moves s (t.setRelocWaits l) :=
  h.next ⟨rfl, rfl, rfl, rfl, rfl, rfl, rfl, rfl, rfl, rfl, rfl, rfl, rfl, rfl, fun _ => rfl, fun _ => rfl⟩
theorem setCopyBuffer (h : Moves s t) (p : Option Page) : Moves s (t.setCopyBuffer p) :=
  h.next ⟨rfl, rfl, rfl, rfl, rfl, rfl, rfl, rfl, rfl, rfl, rfl, rfl, rfl, rfl, fun _ => rfl, fun _ => rfl⟩
theorem setStandAside (h : Moves s t) (b : Bool) : Moves s (t.setStandAside b) :=
  h.next ⟨rfl, rfl, rfl, rfl, rfl, rfl, rfl, rfl, rfl, rfl, rfl, rfl, rfl, rfl, fun _ => rfl, fun _ => rfl⟩
theorem setReadWaits (h : Moves s t) (l : List ReadReq) : Moves s (t.setReadWaits l) :=
  h.next ⟨rfl, rfl, rfl, rfl, rfl, rfl, rfl, rfl, rfl, rfl, rfl, rfl, rfl, rfl, fun _ => rfl, fun _ => rfl⟩
theorem setStaging (h : Moves s t) (i : StagingId) (r : Staging) : Moves s (t.setStaging i r) :=
  h.next ⟨rfl, rfl, rfl, rfl, rfl, rfl, rfl, rfl, rfl, rfl, rfl, rfl, rfl, rfl, fun _ => rfl, fun _ => rfl⟩
theorem setEngine (h : Moves s t) (e : Engine) : Moves s { t with engine := e } :=
  h.next ⟨rfl, rfl, rfl, rfl, rfl, rfl, rfl, rfl, rfl, rfl, rfl, rfl, rfl, rfl, fun _ => rfl, fun _ => rfl⟩
theorem setOp (h : Moves s t) (o : Option Operation) : Moves s (t.setOp o) := h.setEngine _
theorem drawFree (h : Moves s t) (n : Nat) : Moves s { t with freeUsed := n } :=
  h.next ⟨rfl, rfl, rfl, rfl, rfl, rfl, rfl, rfl, rfl, rfl, rfl, rfl, rfl, rfl, fun _ => rfl, fun _ => rfl⟩
theorem setLink (h : Moves s t) (l : Link) (h1 : l.requests = t.link.requests := by rfl)
    (h2 : l.replies = t.link.replies := by rfl) : Moves s (t.setLink l) :=
  h.next ⟨rfl, rfl, rfl, rfl, rfl, rfl, h1, h2, rfl, rfl, rfl, rfl, rfl, rfl, fun _ => rfl, fun _ => rfl⟩
theorem setCtl (h : Moves s t) (c : Ctl) (h1 : c.device = t.ctl.device := by rfl) (h2 : c.scan = t.ctl.scan := by rfl)
    (h3 : c.shutdown.isSome = t.ctl.shutdown.isSome := by rfl) : Moves s (t.setCtl c) :=
  h.next ⟨rfl, rfl, rfl, rfl, rfl, rfl, rfl, rfl, rfl, rfl, rfl, h1, h2, h3, fun _ => rfl, fun _ => rfl⟩
theorem setStream (h : Moves s t) (st : StreamId) (r : StreamRec) (hr : r.config = (t.stream st).config := by rfl) :
    Moves s (t.setStream st r) :=
  h.next ⟨rfl, rfl, rfl, rfl, rfl, rfl, rfl, rfl, rfl, rfl, rfl, rfl, rfl, rfl, fun _ => rfl, fun j => by
    rw [State.setStream_stream_ite]
    split
    · next hj => rw [hr, hj]
    · rfl⟩
theorem setLane (h : Moves s t) (l : LaneId) (r : Lane) (hr : r.listening = (t.lane l).listening := by rfl) :
    Moves s (t.setLane l r) :=
  h.next ⟨rfl, rfl, rfl, rfl, rfl, rfl, rfl, rfl, rfl, rfl, rfl, rfl, rfl, rfl, fun j => by
    rw [State.setLane_lane_ite]
    split
    · next hj => rw [hr, hj]
    · rfl, fun _ => rfl⟩

theorem raise (h : Moves s t) (k : NoticeKind) (arg : Nat) : Moves s (raise k arg t) := h.trans (.raised k arg t)
theorem finishRequest (h : Moves s t) (k : ReqKind) (tag : Byte) (st : Status) (contents : List Byte)
    (staging : Option StagingId) : Moves s (finishRequest k tag st contents staging t) := h.trans (.finished ..)
theorem refuse (h : Moves s t) (k : ReqKind) (tag : Byte) (st : Status) : Moves s (refuse k tag st t) := h.finishRequest ..

theorem ite {c : Prop} [Decidable c] {a b : State} (ha : c → Moves s a) (hb : ¬c → Moves s b) :
    Moves s (if c then a else b) := by
  split
  · next h => exact ha h
  · next h => exact hb h

theorem foldl {α : Type} {f : State → α → State} (hf : ∀ (r : State) (x : α), Moves r (f r x)) (h : Moves s t) (l : List α) :
    Moves s (l.foldl f t) := by
  induction l generalizing t with
  | nil => exact h
  | cons x l ih => exact ih (h.trans (hf t x))

/-! ## The unit map -/

theorem insertFree (h : Moves s t) (u : UnitId) : Moves s (insertFree u t) := (h.setUnit ..).setFreeList _
theorem appendDirty (h : Moves s t) (u : UnitId) : Moves s (appendDirty u t) := (h.setUnit ..).setDirtyList _
theorem assignSlot (h : Moves s t) (u : UnitId) : Moves s (assignSlot u t) := h.setUnit ..

theorem takeFree (h : Moves s t) (u : UnitId) (rest : List UnitId) (us : UnitState) (owner : StreamId) (first : Nat) :
    Moves s (takeFree u rest us owner first t) := by
  unfold Machine.takeFree
  exact .ite (fun _ => ((h.setFreeList rest).setUnit u _).raise ..) (fun _ => (h.setFreeList rest).setUnit u _)

theorem allocateForCapture {st : StreamId} {first : Nat} {u : UnitId} {r : State} (h : Moves s t)
    (ha : allocateForCapture st first t = some (u, r)) : Moves s r := by
  unfold Machine.allocateForCapture at ha
  split at ha
  · cases ha
  · split at ha
    · cases ha
      exact (h.takeFree ..).setChain ..
    · cases ha

theorem retireRecord (h : Moves s t) (u : UnitId) : Moves s (retireRecord u t) := h.trans (.retired u t)

theorem retire (h : Moves s t) (u : UnitId) : Moves s (retire u t) := by
  unfold Machine.retire
  exact .ite (fun hw => ((h.retireRecord u).trans (.worn _ hw.2)).raise ..) (fun _ => h.retireRecord u)

theorem removeUnit (h : Moves s t) (u : UnitId) : Moves s (removeUnit u t) :=
  .ite (fun _ => h.retire u) (fun _ => h.appendDirty u)

/-! ## The buffer manager -/

theorem takeFill (h : Moves s t) (st : StreamId) (b : BufId) : Moves s (takeFill st b t) := (h.setBuf ..).setFill ..

theorem grantBuffer (h : Moves s t) (b : BufId) (st : StreamId) (rest : List StreamId) : Moves s (grantBuffer b st rest t) :=
  ((h.setBufWaits rest).takeFill st b).setStream ..

theorem freeBuffer (h : Moves s t) (b : BufId) : Moves s (freeBuffer b t) := by
  unfold Machine.freeBuffer
  split
  · exact h.grantBuffer ..
  · exact (h.setBuf ..).setPool _

theorem askBuffer (h : Moves s t) (st : StreamId) : Moves s (askBuffer st t) := by
  unfold Machine.askBuffer
  split
  · exact (h.setPool _).takeFill ..
  · exact ((h.setBufWaits _).setStream ..).raise ..

theorem finishFlush (h : Moves s t) (w : FlushWaiter) (status : Status) : Moves s (finishFlush w status t) := h.finishRequest ..

theorem completeFlushes (h : Moves s t) (st : StreamId) (status : Status) : Moves s (completeFlushes st status t) :=
  foldl (fun r w => (Moves.refl r).finishFlush w status) (h.setFlushWaiters _) _

theorem checkFlushes (h : Moves s t) (st : StreamId) : Moves s (checkFlushes st t) :=
  .ite (fun _ => h.completeFlushes ..) (fun _ => h)

theorem enqueuePage (h : Moves s t) (st : StreamId) (b : BufId) (u : UnitId) (k x : Nat) : Moves s (enqueuePage st b u k x t) :=
  (h.setBuf ..).setQueue _

theorem starve (h : Moves s t) (st : StreamId) (b : BufId) : Moves s (starve st b t) :=
  (((((h.setBuf ..).setHeld ..).setStream ..).setStarvedList _).raise ..).completeFlushes ..

theorem placeSealed (h : Moves s t) (st : StreamId) (b : BufId) (x : Nat) : Moves s (placeSealed st b x t) := by
  unfold Machine.placeSealed
  split
  · exact (h.assignSlot _).enqueuePage ..
  · split
    · next ha => exact ((h.allocateForCapture ha).assignSlot _).enqueuePage ..
    · exact h.starve ..

theorem sealPage (h : Moves s t) (st : StreamId) (b : BufId) : Moves s (sealPage st b t) :=
  (((h.setStream ..).setFill ..).setBuf ..).placeSealed ..

theorem relieveOne (h : Moves s t) (st : StreamId) : Moves s (relieveOne st t) := by
  unfold Machine.relieveOne
  extract_lets s1
  have h1 : Moves s s1 := h.setStarvedList _
  clear_value s1
  split
  · exact h1
  · next b _ =>
    extract_lets x
    split
    · exact h1
    · next u s2 ha =>
      have h2 : Moves s s2 := h1.allocateForCapture ha
      extract_lets s3 src s4
      have h3 : Moves s s3 := ((h2.assignSlot u).setHeld st none).enqueuePage ..
      have h4 : Moves s s4 := h3.setStream st _
      clear_value s4
      exact .ite (fun _ => h4.askBuffer st) (fun _ => h4)

theorem relieveList (l : List StreamId) : ∀ {t : State}, Moves s t → Moves s (relieveList l t) := by
  induction l with
  | nil => exact fun h => h
  | cons st l ih => exact fun h => .ite (fun _ => ih (h.relieveOne st)) (fun _ => h)

theorem relieve (h : Moves s t) : Moves s (relieve t) := relieveList _ h

theorem discardHeld (h : Moves s t) (st : StreamId) : Moves s (discardHeld st t) := by
  unfold Machine.discardHeld
  extract_lets s1 src s2
  have h1 : Moves s s1 := h.setStarvedList _
  have h2 : Moves s s2 := h1.setStream st _
  clear_value s2
  split
  · exact h2
  · next b _ =>
    extract_lets x s3
    have h3 : Moves s s3 := (h2.setStream st _).setHeld st none
    clear_value s3
    exact ((h3.raise ..).freeBuffer b).checkFlushes st

theorem discardAllHeld (h : Moves s t) : Moves s (discardAllHeld t) := foldl (fun r st => (refl r).discardHeld st) h _

/-! ## Streams and runs -/

theorem rebind (h : Moves s t) (st : StreamId) (r : StreamRec) : Moves s (relisten (t.setStream st r)) := h.trans (.rebound st r t)

theorem becomeUndefined (h : Moves s t) (st : StreamId) : Moves s (becomeUndefined st t) := h.rebind ..

theorem beginRun (h : Moves s t) (st : StreamId) : Moves s (beginRun st t) := by
  unfold Machine.beginRun
  have h1 := (h.setStream st (t.stream st).startRun).raise .runStart st.val
  exact .ite (fun _ => h1) (fun _ => h1.askBuffer st)

theorem startRunDepth (barred : List StreamId) (n : Nat) : ∀ {t : State} (st : StreamId), Moves s t →
    Moves s (startRunDepth barred n st t) := by
  induction n generalizing s with
  | zero => exact fun _ h => h
  | succ n ih =>
    intro t st h
    exact foldl (fun r f => .ite (fun _ => ih f (.refl r)) (fun _ => .refl r)) (h.beginRun st) _

theorem startRun (h : Moves s t) (barred : List StreamId) (st : StreamId) : Moves s (startRun barred st t) :=
  startRunDepth barred 8 st h

theorem sealFill (h : Moves s t) (st : StreamId) (b : BufId) : Moves s (sealFill st b t) :=
  .ite (fun _ => (h.setFill ..).freeBuffer _) (fun _ => h.sealPage ..)

theorem closeFill (h : Moves s t) (st : StreamId) : Moves s (closeFill st t) := by
  unfold Machine.closeFill
  split
  · exact h
  · exact .ite (fun _ => (h.setFill ..).freeBuffer _) (fun _ => h.sealFill ..)

theorem leaveRun (h : Moves s t) (st : StreamId) (c : EndCause) : Moves s (leaveRun st c t) :=
  ((h.setBufWaits _).setStream ..).raise ..

theorem recordCause (h : Moves s t) (st : StreamId) (c : EndCause) : Moves s (recordCause st c t) := h.setStream ..

theorem endRun (h : Moves s t) (barred : List StreamId) (st : StreamId) (c : EndCause) : Moves s (endRun barred st c t) := by
  unfold Machine.endRun
  have h1 := ((h.recordCause st c).closeFill st).leaveRun st c
  exact .ite (fun _ => h1.startRun ..) (fun _ => h1)

theorem endRunFault (h : Moves s t) (st : StreamId) : Moves s (endRunFault st t) := (h.recordCause ..).leaveRun ..

theorem sealContinuing (h : Moves s t) (barred : List StreamId) (st : StreamId) (b : BufId) :
    Moves s (sealContinuing barred st b t) := by
  unfold Machine.sealContinuing
  have h1 := h.sealFill st b
  exact .ite (fun _ => h1.endRun ..) (fun _ => .ite (fun _ => h1) (fun _ => h1.askBuffer st))

theorem placeWord (h : Moves s t) (st : StreamId) (w : Word) : Moves s (placeWord st w t) := by
  unfold Machine.placeWord
  split
  · exact h.setBuf ..
  · exact h.setStream ..

theorem keepWord (h : Moves s t) (barred : List StreamId) (st : StreamId) (w : Word) : Moves s (keepWord barred st w t) := by
  unfold Machine.keepWord
  have h1 := (h.setStream st { t.stream st with keptWords := satInc max32 (t.stream st).keptWords }).placeWord st w
  refine .ite (fun _ => h1.endRun ..) (fun _ => ?_)
  split
  · exact h1.sealContinuing ..
  · exact h1

theorem deliverWord (h : Moves s t) (barred : List StreamId) (st : StreamId) (w : Word) : Moves s (deliverWord barred st w t) := by
  unfold Machine.deliverWord
  have h1 := h.setStream st (t.stream st).advanceSkip
  exact .ite (fun _ => h1.keepWord ..) (fun _ => h1)

theorem offerWord (h : Moves s t) (barred : List StreamId) (w : Word) (st : StreamId) : Moves s (offerWord barred w t st) :=
  .ite (fun _ => h.deliverWord ..) (fun _ => .ite (fun _ => (h.startRun ..).deliverWord ..) (fun _ => h))

theorem goodWord (h : Moves s t) (l : LaneId) (w : Word) : Moves s (goodWord l w t) := by
  unfold Machine.goodWord
  extract_lets src s1
  have h1 : Moves s s1 := h.setLane l _
  clear_value s1
  exact foldl (fun r st => (refl r).offerWord _ w st) h1 _

theorem dropAt (h : Moves s t) (l : LaneId) (st : StreamId) : Moves s (dropAt l t st) :=
  .ite (fun _ => h.setStream ..) (fun _ => h)

theorem badWord (h : Moves s t) (l : LaneId) : Moves s (badWord l t) := by
  unfold Machine.badWord
  extract_lets src s1 s2 src2
  have h1 : Moves s s1 := h.setLane l _
  have h2 : Moves s s2 := foldl (fun r st => (refl r).dropAt l st) h1 _
  clear_value s2
  have h3 : Moves s (s2.setLane l { src2 with faultReported := true }) := h2.setLane l _
  exact .ite (fun _ => h2) (fun _ => h3.raise ..)

theorem applyRole (h : Moves s t) (barred : List StreamId) (role : TriggerRole) (st : StreamId) :
    Moves s (applyRole barred role st t) := by
  unfold Machine.applyRole
  split
  · exact h
  · exact .ite (fun _ => h.startRun ..) (fun _ => h)
  · exact .ite (fun _ => h.endRun ..) (fun _ => h)

theorem trigger (h : Moves s t) (role : StreamRec → StreamId → TriggerRole) : Moves s (trigger role t) :=
  foldl (fun r st => (refl r).applyRole _ _ st) h _

theorem disarm (h : Moves s t) (st : StreamId) : Moves s (disarm t st) := .ite (fun _ => h.setStream ..) (fun _ => h)

theorem endAllRuns (h : Moves s t) (c : EndCause) : Moves s (endAllRuns c t) :=
  foldl (fun r st => (refl r).disarm st) (foldl (fun r _ => .ite (fun _ => (refl r).endRun ..) (fun _ => refl r)) h _) _

theorem enterWorn (h : Moves s t) : Moves s (enterWorn t) := ((h.endAllRuns _).setHeldAtWorn _).discardAllHeld

/-! ## Relocation -/

theorem advanceProgrammed (h : Moves s t) (u : UnitId) : Moves s (advanceProgrammed u t) := h.setUnit ..
theorem dropEntry (h : Moves s t) (b : BufId) : Moves s (dropEntry b t) := h.setQueue _

theorem queuePass (h : Moves s t) (e : QueueEntry) : Moves s (queuePass e t) := by
  unfold Machine.queuePass
  extract_lets s1 src s2
  have h1 : Moves s s1 := (h.advanceProgrammed _).dropEntry _
  have h2 : Moves s s2 := h1.setStream e.stream _
  clear_value s2
  exact (h2.freeBuffer _).checkFlushes _

theorem losePage (h : Moves s t) (st : StreamId) (b : BufId) : Moves s (losePage st b t) := (h.setStream ..).freeBuffer _

theorem discardStreamPages (h : Moves s t) (st : StreamId) (failed : BufId) : Moves s (discardStreamPages st failed t) := by
  unfold Machine.discardStreamPages
  extract_lets entries s1 s2 s3
  have h1 : Moves s s1 := (h.setQueue _).losePage st failed
  have h2 : Moves s s2 := foldl (fun r (e : QueueEntry) => (refl r).losePage st e.buf) h1 entries
  have h3 : Moves s s3 := by
    clear_value s2
    unfold s3
    split
    · exact (h2.setHeld st none).losePage st _
    · exact h2
  clear_value s3
  split
  · exact (h3.setFill st none).freeBuffer _
  · exact h3

theorem truncateChain (h : Moves s t) (st : StreamId) (u : UnitId) (p : Nat) : Moves s (truncateChain st u p t) := by
  unfold Machine.truncateChain
  extract_lets later s1 s2 src s3
  have h1 : Moves s s1 := h.setChain ..
  have h2 : Moves s s2 := foldl (fun r v => (refl r).insertFree v) h1 later
  have h3 : Moves s s3 := .ite (fun _ => (h2.setChain ..).retire u) (fun _ => h2.setUnit ..)
  clear_value s3
  exact h3.relieve

theorem faultStream (h : Moves s t) (st : StreamId) : Moves s (faultStream st t) :=
  .ite (fun _ => h.endRunFault st) (fun _ => h.setStream ..)

theorem abandonBody (h : Moves s t) (st : StreamId) (u : UnitId) (p : Nat) (b : BufId) : Moves s (abandonBody st u p b t) := by
  unfold Machine.abandonBody
  extract_lets first s1 src1 s2 s3 src3 s4 s5 s6 src6 s7
  have h1 : Moves s s1 := h.setStarvedList _
  have h2 : Moves s s2 := h1.setStream st _
  clear_value s2
  have h3 : Moves s s3 := (h2.faultStream st).discardStreamPages st b
  have h4 : Moves s s4 := h3.setStream st _
  clear_value s4
  have h5 : Moves s s5 := (h4.raise ..).raise ..
  have h6 : Moves s s6 := h5.completeFlushes st .fault
  clear_value s6
  have h7 : Moves s s7 := h6.setStream st _
  clear_value s7
  exact h7.truncateChain st u p

theorem takeTarget (h : Moves s t) (r : Reloc) (v : UnitId) (rest : List UnitId) : Moves s (takeTarget r v rest t) :=
  (h.takeFree ..).setReloc _

theorem startWaiting (l : List RelocWait) : ∀ {t : State}, Moves s t → Moves s (startWaiting l t) := by
  induction l with
  | nil => exact fun h => h.setRelocWaits _
  | cons w ws ih =>
    intro t h
    unfold Machine.startWaiting
    dsimp only
    split
    · exact (h.setRelocWaits ws).takeTarget ..
    · exact ih ((h.setRelocWaits ws).abandonBody ..)

theorem startNext (h : Moves s t) : Moves s (startNext t) := startWaiting _ (h.setReloc none)

theorem abandon (h : Moves s t) (r : Reloc) : Moves s (abandon r t) :=
  (((h.setReloc none).setCopyBuffer none).abandonBody ..).startNext

theorem beginRelocation (h : Moves s t) (w : RelocWait) : Moves s (beginRelocation w t) := by
  unfold Machine.beginRelocation
  split
  · exact startWaiting _ h
  · exact h.setRelocWaits _

theorem queueFail (h : Moves s t) (e : QueueEntry) : Moves s (queueFail e t) := by
  unfold Machine.queueFail
  extract_lets s1 src1 s2 src2 s3 src3 s4
  have h1 : Moves s s1 := h.dropEntry _
  have h2 : Moves s s2 := h1.setBuf ..
  have h3 : Moves s s3 := h2.setUnit ..
  clear_value s3
  have h4 : Moves s s4 := h3.setStream e.stream _
  clear_value s4
  exact h4.beginRelocation _

theorem targetFail (h : Moves s t) (r : Reloc) (v : UnitId) : Moves s (targetFail r v t) := by
  unfold Machine.targetFail
  have h1 := (h.retire v).setCopyBuffer none
  refine .ite (fun _ => ?_) (fun _ => h1.abandon r)
  dsimp only
  split
  · exact h1.takeTarget ..
  · exact h1.abandon _

theorem copyReadEnd (h : Moves s t) (r : Reloc) (res : ReadResult) : Moves s (copyReadEnd r res t) := by
  unfold Machine.copyReadEnd
  have h1 := h.setCopyBuffer (some ⟨res.page.data, (copyTag r ((t.unit r.source).firstPage.getD 0) res).1⟩)
  exact setReloc (.ite (fun _ => h1.raise ..) (fun _ => h1)) _

theorem copyPass (h : Moves s t) (r : Reloc) (v : UnitId) : Moves s (copyPass r v t) :=
  (((h.setUnit ..).setCopyBuffer none).setStandAside true).setReloc _

theorem replaceUnit (h : Moves s t) (r : Reloc) (v : UnitId) : Moves s (replaceUnit r v t) :=
  ((h.setUnit ..).setChain ..).retire _

theorem renameEntries (h : Moves s t) (r : Reloc) (v : UnitId) : Moves s (renameEntries r v t) :=
  foldl (fun q _ => .ite (fun _ => (refl q).setBuf ..) (fun _ => refl q)) (h.setQueue _) _

theorem completeRelocation (h : Moves s t) (r : Reloc) (v : UnitId) : Moves s (completeRelocation r v t) := by
  unfold Machine.completeRelocation
  extract_lets s1 src1 s2 s3 src3 s4
  have h0 : Moves s (Machine.advanceTarget v t) := h.setUnit ..
  have h1 : Moves s s1 := (h0.replaceUnit r v).renameEntries r v
  clear_value s1
  have h2 : Moves s s2 := h1.setStream r.stream _
  clear_value s2
  have h3 : Moves s s3 := h2.freeBuffer _
  have h4 : Moves s s4 := h3.setStream r.stream _
  clear_value s4
  exact ((h4.checkFlushes r.stream).raise ..).startNext

theorem relocProgramEnd (h : Moves s t) (pass : Bool) : Moves s (relocProgramEnd pass t) := by
  unfold Machine.relocProgramEnd
  split
  · exact h
  · split
    · exact h
    · exact .ite (fun _ => .ite (fun _ => h.completeRelocation ..) (fun _ => h.copyPass ..)) (fun _ => h.targetFail ..)

theorem relocReadEnd (h : Moves s t) (res : ReadResult) : Moves s (relocReadEnd res t) := by
  unfold Machine.relocReadEnd
  split
  · exact h
  · exact h.copyReadEnd ..

/-! ## Reading back -/

theorem finishNoData (h : Moves s t) (q : ReadReq) : Moves s (finishNoData q t) := h.finishRequest ..

theorem lookupRead (h : Moves s t) (q : ReadReq) : Moves s (lookupRead q t) := by
  unfold Machine.lookupRead
  refine .ite (fun _ => h.finishNoData q) (fun _ => .ite (fun _ => h.finishNoData q) (fun _ => .ite (fun _ => h.finishNoData q)
    (fun _ => ?_)))
  split
  · split
    · exact h.finishRequest ..
    · exact h
  · exact h.setReadWaits _

theorem readEndDone (h : Moves s t) (i : StagingId) (q : ReadReq) (slot : Nat) (res : ReadResult) :
    Moves s (readEndDone i q slot res t) :=
  .ite (fun _ => (h.setStaging ..).finishRequest ..) (fun _ => (h.setStaging ..).finishRequest ..)

theorem readEndTimeout (h : Moves s t) (i : StagingId) (q : ReadReq) : Moves s (readEndTimeout i q t) :=
  (h.setStaging ..).finishRequest ..

theorem withdrawReads (h : Moves s t) (st : StreamId) : Moves s (withdrawReads st t) :=
  foldl (fun r q => (refl r).finishNoData q) (h.setReadWaits _) _

/-! ## Checkpoints -/

theorem finishCovered (h : Moves s t) (status : Status) (tu : Fin 2) (b : Byte) : Moves s (finishCovered status tu b t) :=
  foldl (fun r _ => (refl r).finishRequest ..) (h.setCtl _) _

theorem recordFinal (h : Moves s t) (final ok : Bool) : Moves s (recordFinal final ok t) :=
  .ite (fun _ => h.setCtl _ rfl rfl (by simp)) (fun _ => h)

theorem drainPending (h : Moves s t) : Moves s (drainPending t) := .ite (fun _ => h.setCtl _) (fun _ => h)

theorem startCheckpointOp (h : Moves s t) (c : Ckpt) : Moves s (startCheckpointOp c t) := by
  unfold Machine.startCheckpointOp
  dsimp only
  split
  · exact (h.setCtl _).setOp _
  · exact h
  · exact h.setOp _

theorem markCheckpointStart (h : Moves s t) (final : Bool) : Moves s (markCheckpointStart final t) :=
  (h.setErases 0).setCtl _ rfl rfl (by cases final <;> simp)

/-! ## Grants -/

theorem startOp (h : Moves s t) (kind : OpKind) (u : UnitId) (slot : Option Nat) (req : Requester) (buf : Option BufferRef)
    (mode : Option CrcMode) : Moves s (startOp kind u slot req buf mode t) := (h.setStandAside _).setOp _

theorem grantProgram (h : Moves s t) : Moves s (grantProgram t) := by
  unfold Machine.grantProgram
  split
  · exact h
  · exact (h.setEngine _).startOp ..

theorem grantRead (h : Moves s t) : Moves s (grantRead t) := by
  unfold Machine.grantRead
  split
  · split
    · exact h
    · exact (((h.setReadWaits _).setStaging ..).setEngine _).startOp ..
  · exact h

theorem grantErase (h : Moves s t) : Moves s (grantErase t) := by
  unfold Machine.grantErase
  split
  · exact h
  · exact ((h.setDirtyList _).setUnit ..).startOp ..

theorem grantRelocation (h : Moves s t) : Moves s (grantRelocation t) := by
  unfold Machine.grantRelocation
  split
  · exact h
  · split
    · exact h
    · split <;> exact h.startOp ..

theorem grantMountRead (h : Moves s t) : Moves s (grantMountRead t) := by
  unfold Machine.grantMountRead
  split
  · exact h
  · exact h.startOp ..

theorem grantCheckpointOp (h : Moves s t) : Moves s (grantCheckpointOp t) := by
  unfold Machine.grantCheckpointOp
  split
  · exact h
  · exact (h.setStandAside false).startCheckpointOp _

/-! ## Ends of operations of the program queue, the read-back path, the relocation and the erase process -/

theorem queueProgramEnd (h : Moves s t) (pass : Bool) (op : Operation) : Moves s (queueProgramEnd pass op t) := by
  unfold Machine.queueProgramEnd
  split
  · split
    · exact .ite (fun _ => h.queuePass _) (fun _ => h.queueFail _)
    · exact h
  · exact h

theorem readPathEnd (h : Moves s t) (done : Bool) (res : ReadResult) (op : Operation) : Moves s (readPathEnd done res op t) := by
  unfold Machine.readPathEnd
  split
  · split
    · exact .ite (fun _ => h.readEndDone ..) (fun _ => h.readEndTimeout ..)
    · exact h
  · exact h

theorem eraseUnitPass (h : Moves s t) (u : UnitId) : Moves s (eraseUnitPass u t) := by
  unfold Machine.eraseUnitPass
  have h1 := ((h.setUnit u { t.unit u with eraseCount := satInc maxEraseCount (t.unit u).eraseCount }).insertFree u).setErases
    (satInc max16 (Machine.insertFree u (t.setUnit u { t.unit u with eraseCount := satInc maxEraseCount (t.unit u).eraseCount })).map.erasesSince)
  exact relieve (.ite (fun _ => h1.setCtl _) (fun _ => h1))

/-! ## What every happening ends with, but for the transmitter -/

theorem settleWorn {a : State} (h : Moves s t) : Moves s (settleWorn a t) := .ite (fun _ => h.enterWorn) (fun _ => h)

theorem settleStandAside (h : Moves s t) : Moves s (settleStandAside t) := .ite (fun _ => h.setStandAside false) (fun _ => h)

/-! ## Requests -/

theorem countDiscard (h : Moves s t) : Moves s (countDiscard t) :=
  .ite (fun _ => h.setLink _) (fun _ => (h.setLink _).raise ..)

theorem discardFrame (h : Moves s t) : Moves s (discardFrame t) := (h.setLink _).countDiscard

theorem frameTaken (h : Moves s t) : Moves s (frameTaken t) := h.setLink _

theorem onStream (h : Moves s t) {k : ReqKind} {tag : Byte} {p : List Byte} {f : StreamId → State → State}
    (hf : ∀ st, Moves s (f st t)) : Moves s (onStream k tag p f t) := by
  unfold Machine.onStream
  split
  · exact h.refuse ..
  · exact hf _

theorem helloRequest (h : Moves s t) (tag : Byte) : Moves s (helloRequest tag t) := h.finishRequest ..
theorem statusRequest (h : Moves s t) (tag : Byte) : Moves s (statusRequest tag t) := h.finishRequest ..
theorem resetRequest (h : Moves s t) (tag : Byte) : Moves s (resetRequest tag t) := (h.finishRequest ..).setLink _
theorem checkpointRequest (h : Moves s t) (tag : Byte) : Moves s (checkpointRequest tag t) := h.setCtl _

theorem maskRequest (h : Moves s t) (tag : Byte) (p : List Byte) : Moves s (maskRequest tag p t) :=
  (h.next (r := { t with notices := { t.notices with mask := field16 p 2 } })
    ⟨rfl, rfl, rfl, rfl, rfl, rfl, rfl, rfl, rfl, rfl, rfl, rfl, rfl, rfl, fun _ => rfl, fun _ => rfl⟩).finishRequest ..

theorem acknowledge (h : Moves s t) (set : Word) : Moves s (acknowledge set t) := by
  unfold Machine.acknowledge
  refine have h1 := ?_; .ite (fun _ => setLink h1 _) (fun _ => h1)
  refine .ite (fun _ => next (t := { t with notices := { t.notices with pendingSet := t.notices.pendingSet &&& ~~~set } }) ?_
    ⟨rfl, rfl, rfl, rfl, rfl, rfl, rfl, rfl, rfl, rfl, rfl, rfl, rfl, rfl, fun l => by simp [State.lane, vget], fun _ => rfl⟩)
    (fun _ => ?_) <;>
  exact h.next ⟨rfl, rfl, rfl, rfl, rfl, rfl, rfl, rfl, rfl, rfl, rfl, rfl, rfl, rfl, fun _ => rfl, fun _ => rfl⟩

theorem ackRequest (h : Moves s t) (tag : Byte) (p : List Byte) : Moves s (ackRequest tag p t) := (h.acknowledge _).finishRequest ..

theorem defineRequest (h : Moves s t) (tag : Byte) (p : List Byte) : Moves s (defineRequest tag p t) := by
  unfold Machine.defineRequest
  split
  · exact h.refuse ..
  · split
    · exact h.refuse ..
    · exact .ite (fun _ => h.refuse ..) (fun _ => (h.rebind ..).finishRequest ..)

theorem armRequest (h : Moves s t) (tag : Byte) (p : List Byte) : Moves s (armRequest tag p t) := by
  refine h.onStream fun st => .ite (fun _ => h.refuse ..) (fun _ => .ite (fun _ => h.refuse ..) (fun _ => ?_))
  have h1 := h.setStream st { t.stream st with state := .armed }
  exact finishRequest (t := Machine.armStream st t) (.ite (fun _ => h1.startRun ..) (fun _ => h1)) ..

theorem stopStream (h : Moves s t) (st : StreamId) : Moves s (stopStream st t) := by
  unfold Machine.stopStream
  split
  · exact h.endRun ..
  · exact h.setStream ..
  all_goals exact h

theorem stopRequest (h : Moves s t) (tag : Byte) (p : List Byte) : Moves s (stopRequest tag p t) :=
  h.onStream fun st => (h.stopStream st).finishRequest ..

theorem unbindStream (h : Moves s t) (st : StreamId) : Moves s (unbindStream st t) :=
  .ite (fun _ => h.rebind ..) (fun _ => (h.becomeUndefined st).withdrawReads st)

theorem unbindRequest (h : Moves s t) (tag : Byte) (p : List Byte) : Moves s (unbindRequest tag p t) :=
  h.onStream fun st => .ite (fun _ => h.refuse ..)
    (fun _ => finishRequest (.ite (fun _ => h.unbindStream st) (fun _ => h)) ..)

theorem infoRequest (h : Moves s t) (tag : Byte) (p : List Byte) : Moves s (infoRequest tag p t) :=
  h.onStream fun _ => h.finishRequest ..

theorem flushAfterSeal (h : Moves s t) (w : FlushWaiter) : Moves s (flushAfterSeal w t) :=
  .ite (fun _ => h.finishFlush ..) (fun _ => .ite (fun _ => h.finishFlush ..) (fun _ => h.setFlushWaiters _))

theorem flushAfterDiscard (h : Moves s t) (tag : Byte) (st : StreamId) : Moves s (flushAfterDiscard tag st t) := by
  unfold Machine.flushAfterDiscard
  exact .ite (fun _ => (h.drawFree _).finishFlush ..) (fun _ => (h.drawFree _).flushAfterSeal _)

theorem flushRequest (h : Moves s t) (tag : Byte) (p : List Byte) : Moves s (flushRequest tag p t) := by
  refine h.onStream fun st => .ite (fun _ => h.finishFlush ..) (fun _ => ?_)
  split
  · exact (h.sealContinuing ..).flushAfterSeal _
  · exact .ite (fun _ => h.flushAfterDiscard ..) (fun _ => h.flushAfterSeal _)

theorem fireRequest (h : Moves s t) (tag : Byte) (p : List Byte) : Moves s (fireRequest tag p t) := (h.trigger _).finishRequest ..

theorem readRequest (h : Moves s t) (tag : Byte) (p : List Byte) : Moves s (readRequest tag p t) := by
  unfold Machine.readRequest
  split
  · exact h.refuse ..
  · exact .ite (fun _ => h.refuse ..) (fun _ => h.lookupRead _)

theorem removeFront (h : Moves s t) (st : StreamId) (gone : List UnitId) : Moves s (removeFront st gone t) :=
  foldl (fun r u => (refl r).removeUnit u) (h.setChain ..) _

theorem settleReleased (h : Moves s t) (st : StreamId) : Moves s (settleReleased st t) :=
  .ite (fun _ => .ite (fun _ => h.becomeUndefined st) (fun _ => .ite (fun _ => h.setStream ..) (fun _ => h))) (fun _ => h)

theorem moveBase (h : Moves s t) (st : StreamId) (removed : Bool) : Moves s (moveBase st removed t) := h.setStream st _

theorem releaseOn (h : Moves s t) (tag : Byte) (st : StreamId) (limit : Nat) : Moves s (releaseOn tag st limit t) :=
  ((((h.removeFront st _).moveBase st _).settleReleased st).withdrawReads st).finishRequest ..

theorem releaseRequest (h : Moves s t) (tag : Byte) (p : List Byte) : Moves s (releaseRequest tag p t) := by
  unfold Machine.releaseRequest
  split
  · exact h.refuse ..
  · exact .ite (fun _ => h.finishRequest ..) (fun _ => h.releaseOn ..)

theorem deleteRequest (h : Moves s t) (tag : Byte) (p : List Byte) : Moves s (deleteRequest tag p t) :=
  h.onStream fun st => .ite (fun _ => h.refuse ..) (fun _ => .ite (fun _ => h.finishRequest ..)
    (fun _ => (((h.removeFront st _).becomeUndefined st).withdrawReads st).finishRequest ..))

theorem unitInfoRequest (h : Moves s t) (tag : Byte) (p : List Byte) : Moves s (unitInfoRequest tag p t) := by
  unfold Machine.unitInfoRequest
  split
  · exact h.refuse ..
  · exact h.finishRequest ..

theorem summaryRequest (h : Moves s t) (tag : Byte) : Moves s (summaryRequest tag t) :=
  finishRequest (t := drawWear t) (.ite (fun _ => h.drawFree _) (fun _ => h)) ..

/-! ## The hand-overs -/

theorem grantFromPool (h : Moves s t) : Moves s (grantFromPool t) := by
  unfold Machine.grantFromPool
  split
  · exact (h.setPool _).grantBuffer ..
  · exact h

theorem startRelocation (h : Moves s t) : Moves s (startRelocation t) := .ite (fun _ => h.startNext) (fun _ => h)

theorem completeDue (h : Moves s t) (st : StreamId) : Moves s (completeDue t st) := by
  unfold Machine.completeDue
  split
  · exact h.completeFlushes ..
  · exact h

end Moves

end Sys2Proof.Machine
end

