-- ==== Sys2Proof/Laws/Happening.lean ====
section
/-!
SUPPORT. What every happening does around the effect of its command: how a request reaches its owning block, and what the end of a
happening (`settle`) leaves alone.
-/
-- The theorems of this file are elaborated one after another: in parallel their waiting threads exceed the memory limit of the check.
set_option Elab.async false

namespace Sys2Proof.Machine

/-! ## Outcomes -/

theorem happening_running {f : State → State} {s : State} (h : s.running = true) : happening f s = settle s (f s) := by
  simp [happening, h]

theorem happening_stopped {f : State → State} {s : State} (h : s.running = false) : happening f s = s := by
  simp [happening, h]

/-! ## Requests -/

theorem frameTaken_enterRequest (k : ReqKind) (tag : Byte) (p : List Byte) (s : State) :
    enterRequest k tag p (frameTaken s) = waiting k tag p s := rfl

/-- A request that passes the early checks fails none of them (R193). -/
theorem earlyCheck_none {k : ReqKind} {tag : Byte} {p : List Byte} {s : State} (h : passesEarly k tag p s = true) :
    earlyCheck k tag p s.link = none := by
  simp only [passesEarly, Bool.and_eq_true, bne_iff_ne, List.all_eq_true, decide_eq_true_eq] at h
  obtain ⟨⟨⟨h1, h2⟩, h3⟩, h4⟩ := h
  unfold earlyCheck windowSize
  rw [if_neg h1, if_neg, if_neg (by omega), if_neg (by simpa using h4)]
  simpa using h2

/-- The device-state check follows the table of R196. -/
theorem deviceCheck_none {d : DeviceState} {k : ReqKind} (h : takenIn d k = true) : deviceCheck d k = none := by
  cases d <;> cases k <;> simp_all [takenIn, deviceCheck, takenAlways, refusedWorn]

/-- A request that passes both checks is handed to its owning block (R193, R195, R196). -/
theorem takeRequest_taken {k : ReqKind} {tag : Byte} {p : List Byte} {own : State → State} {s : State}
    (h1 : passesEarly k tag p s = true) (h2 : takenIn s.ctl.device k = true) :
    takeRequest k tag p own (frameTaken s) = own (waiting k tag p s) := by
  have e : earlyCheck k tag p (frameTaken s).link = none := earlyCheck_none (s := s) h1
  unfold takeRequest
  rw [e]
  dsimp only
  rw [frameTaken_enterRequest]
  have d : deviceCheck (waiting k tag p s).ctl.device k = none := deviceCheck_none h2
  rw [d]

/-- An accepted request is one happening of its owning block (R193, R196). -/
theorem requestHappening_accepted {k : ReqKind} {tag : Byte} {p : List Byte} {own : State → State} {s : State}
    (h : accepted k tag p s = true) :
    requestHappening k tag p own s = settle s (own (waiting k tag p s)) := by
  simp only [accepted, Bool.and_eq_true] at h
  unfold requestHappening
  rw [happening_running h.1.1, takeRequest_taken h.1.2 h.2]

/-- No outstanding request carries the tag of a request that passes the early checks. -/
theorem passesEarly_fresh {k : ReqKind} {tag : Byte} {p : List Byte} {s : State} (h : passesEarly k tag p s = true) :
    ∀ r ∈ s.link.requests, r.tag ≠ tag := by
  simp only [passesEarly, Bool.and_eq_true, bne_iff_ne, List.all_eq_true] at h
  exact h.1.1.2

theorem accepted_passes {k : ReqKind} {tag : Byte} {p : List Byte} {s : State} (h : accepted k tag p s = true) :
    passesEarly k tag p s = true := by
  simp only [accepted, Bool.and_eq_true] at h
  exact h.1.2

theorem accepted_running {k : ReqKind} {tag : Byte} {p : List Byte} {s : State} (h : accepted k tag p s = true) :
    s.running = true := by
  simp only [accepted, Bool.and_eq_true] at h
  exact h.1.1

theorem accepted_taken {k : ReqKind} {tag : Byte} {p : List Byte} {s : State} (h : accepted k tag p s = true) :
    takenIn s.ctl.device k = true := by
  simp only [accepted, Bool.and_eq_true] at h
  exact h.2

/-- Completing the request just taken, in a state that differs from the taking state outside the request table and the reply queue
only, is `answered` (R195, R198). -/
theorem finishRequest_waiting {k : ReqKind} {tag : Byte} {p : List Byte} {s : State} (st : Status) (contents : List Byte)
    (h : ∀ r ∈ s.link.requests, r.tag ≠ tag) :
    finishRequest k tag st contents none (waiting k tag p s) = answered k tag p st contents s := by
  have hm : s.link.requests.map (fun r => if r.tag = tag then { r with stage := .completed } else r) = s.link.requests := by
    conv_rhs => rw [← List.map_id s.link.requests]
    exact List.map_congr_left fun r hr => by simp [h r hr]
  simp [finishRequest, waiting, answered, replyOf, hm]

/-- Refusing the request just taken is `answered` with the status alone (R197). -/
theorem refuse_waiting {k : ReqKind} {tag : Byte} {p : List Byte} {s : State} (st : Status) (h : ∀ r ∈ s.link.requests, r.tag ≠ tag) :
    refuse k tag st (waiting k tag p s) = answered k tag p st [] s := finishRequest_waiting st [] h

/-- The command row of a request kind is the happening of that request (R190, R193). -/
theorem exec_request (k : ReqKind) (tag : Byte) (p : List Byte) (s : State) :
    exec (commandOf k tag p) s = .next (requestHappening k tag p (ownRequest k tag p) s) := by
  cases k <;> try rfl
  · unfold commandOf
    dsimp only
    split <;> rfl

/-- An accepted request ends in the settled effect of its owning block (R196). -/
theorem exec_accepted {k : ReqKind} {tag : Byte} {p : List Byte} {s : State} (h : accepted k tag p s = true) :
    exec (commandOf k tag p) s = .next (settle s (ownRequest k tag p (waiting k tag p s))) := by
  rw [exec_request, requestHappening_accepted h]

/-- No outstanding request carries the tag of an accepted request. -/
theorem accepted_fresh {k : ReqKind} {tag : Byte} {p : List Byte} {s : State} (h : accepted k tag p s = true) :
    ∀ r ∈ s.link.requests, r.tag ≠ tag := passesEarly_fresh (accepted_passes h)

/-! ## The end of a happening -/

/-- `t` is what a happening that brought about `s` may still leave: the same core, the same replies, and the same requests but for their
stages. -/
structure Settled (s t : State) : Prop where
  core : t.core = s.core
  replies : t.link.replies = s.link.replies
  requests : t.link.requests.map (fun r => (r.tag, r.kind, r.payload)) = s.link.requests.map (fun r => (r.tag, r.kind, r.payload))
  rx : t.link.rx = s.link.rx

theorem Settled.refl (s : State) : Settled s s := ⟨rfl, rfl, rfl, rfl⟩

theorem Settled.trans {s t r : State} (h1 : Settled s t) (h2 : Settled t r) : Settled s r :=
  ⟨h2.core.trans h1.core, h2.replies.trans h1.replies, h2.requests.trans h1.requests, h2.rx.trans h1.rx⟩

theorem settled_startNotice (s : State) : Settled s (startNotice s) := ⟨rfl, rfl, rfl, rfl⟩

theorem markSending_map (src : ReplySource) (l : List Request) :
    (markSending src l).map (fun r => (r.tag, r.kind, r.payload)) = l.map (fun r => (r.tag, r.kind, r.payload)) := by
  unfold markSending
  split
  · rw [List.map_map]
    refine List.map_congr_left fun r _ => ?_
    simp only [Function.comp]
    split <;> rfl
  · rfl

theorem settled_startReply (r : Reply) (s : State) : Settled s (startReply r s) := ⟨rfl, rfl, markSending_map _ _, rfl⟩

theorem settled_chooseFrame (s : State) : Settled s (chooseFrame s) := by
  unfold chooseFrame
  split
  · exact settled_startNotice s
  · split
    · exact settled_startReply _ s
    · split
      · exact settled_startNotice s
      · exact .refl s

theorem settled_transmitArrivals (s : State) : Settled s (transmitArrivals s) := by
  have hd : Settled s { s with freeUsed := s.freeUsed + 1 } := ⟨rfl, rfl, rfl, rfl⟩
  unfold transmitArrivals
  split
  · split
    · dsimp only
      split
      · exact hd.trans (settled_startNotice _)
      · exact hd.trans (settled_chooseFrame _)
    · exact settled_chooseFrame s
  · exact .refl s

theorem settled_drainPending (s : State) : Settled s (drainPending s) := by
  unfold drainPending
  split
  · exact ⟨rfl, rfl, rfl, rfl⟩
  · exact .refl s

theorem settled_settleStandAside (s : State) : Settled s (settleStandAside s) := by
  unfold settleStandAside
  split
  · exact ⟨rfl, rfl, rfl, rfl⟩
  · exact .refl s

/-- The end of a happening that does not enter WORN leaves the effect of its command alone, but for what `State.core` leaves out. -/
theorem settle_settled {a s : State} (h : ¬(a.ctl.device = .ready ∧ s.ctl.device = .worn)) : Settled s (settle a s) := by
  unfold settle settleWorn
  rw [if_neg h]
  exact ((settled_drainPending s).trans (settled_settleStandAside _)).trans (settled_transmitArrivals _)

end Sys2Proof.Machine
end

