-- ==== Sys2Proof/Laws/Runs.lean ====
section
/-!
SUPPORT. What starts and ends of runs, seals, starvation and discards can do, said once: they leave `State.outside` alone, and a run
operation on one stream touches other streams' OVERRUN only, but for PEER followers that it starts.
-/
-- The theorems of this file are elaborated one after another: in parallel their waiting threads exceed the memory limit of the check.
set_option Elab.async false

namespace Sys2Proof.Machine

theorem sameRun.refl (r : StreamRec) : sameRun r r := rfl
theorem sameRun.trans {a b c : StreamRec} (h1 : sameRun a b) (h2 : sameRun b c) : sameRun a c := Eq.trans h2 h1
theorem sameRun.state {a b : StreamRec} (h : sameRun a b) : b.state = a.state :=
  have e : _ = _ := h
  (congrArg StreamRec.state e :)
theorem sameRun.config {a b : StreamRec} (h : sameRun a b) : b.config = a.config :=
  have e : _ = _ := h
  (congrArg StreamRec.config e :)
theorem sameRun.runNumber {a b : StreamRec} (h : sameRun a b) : b.runNumber = a.runNumber :=
  have e : _ = _ := h
  (congrArg StreamRec.runNumber e :)
theorem sameRun.startSource {a b : StreamRec} (h : sameRun a b) : b.startSource = a.startSource := by
  unfold StreamRec.startSource
  rw [h.config]

theorem stream_setStream (s : State) (st j : StreamId) (r : StreamRec) :
    (s.setStream st r).stream j = if st = j then r else s.stream j := State.setStream_stream_ite s st r j

/-- A stream operation that moves only what runs move, and of the streams for which `P` does not hold only OVERRUN. -/
structure RunStep (P : StreamId → Prop) (s t : State) : Prop where
  outside : t.outside = s.outside
  others : ∀ f, ¬P f → sameRun (s.stream f) (t.stream f)

namespace RunStep

variable {P Q : StreamId → Prop} {s t r : State}

theorem refl (P : StreamId → Prop) (s : State) : RunStep P s s := ⟨rfl, fun _ _ => .refl _⟩
theorem trans (h1 : RunStep P s t) (h2 : RunStep P t r) : RunStep P s r :=
  ⟨h2.outside.trans h1.outside, fun f hf => (h1.others f hf).trans (h2.others f hf)⟩
theorem mono (h : RunStep P s t) (hPQ : ∀ f, P f → Q f) : RunStep Q s t := ⟨h.outside, fun f hf => h.others f (fun h' => hf (hPQ f h'))⟩
theorem config (h : RunStep P s t) (f : StreamId) (hf : ¬P f) : (t.stream f).config = (s.stream f).config := (h.others f hf).config

/-- A change of a field that `outside` leaves out and that is no stream record. -/
theorem next (h : RunStep P s t) (ho : r.outside = t.outside) (hs : r.streams = t.streams) : RunStep P s r :=
  h.trans ⟨ho, fun f _ => by unfold State.stream; rw [hs]; exact .refl _⟩

theorem setUnit (h : RunStep P s t) (u : UnitId) (x : UnitRec) : RunStep P s (t.setUnit u x) := h.next rfl rfl
theorem setChain (h : RunStep P s t) (st : StreamId) (x : List UnitId) : RunStep P s (t.setChain st x) := h.next rfl rfl
theorem setFreeList (h : RunStep P s t) (x : List UnitId) : RunStep P s (t.setFreeList x) := h.next rfl rfl
theorem setBuf (h : RunStep P s t) (b : BufId) (x : PageBuf) : RunStep P s (t.setBuf b x) := h.next rfl rfl
theorem setFill (h : RunStep P s t) (st : StreamId) (x : Option BufId) : RunStep P s (t.setFill st x) := h.next rfl rfl
theorem setHeld (h : RunStep P s t) (st : StreamId) (x : Option BufId) : RunStep P s (t.setHeld st x) := h.next rfl rfl
theorem setPool (h : RunStep P s t) (x : List BufId) : RunStep P s (t.setPool x) := h.next rfl rfl
theorem setQueue (h : RunStep P s t) (x : List QueueEntry) : RunStep P s (t.setQueue x) := h.next rfl rfl
theorem setBufWaits (h : RunStep P s t) (x : List StreamId) : RunStep P s (t.setBufWaits x) := h.next rfl rfl
theorem setStarvedList (h : RunStep P s t) (x : List StreamId) : RunStep P s (t.setStarvedList x) := h.next rfl rfl
theorem setFlushWaiters (h : RunStep P s t) (x : List FlushWaiter) : RunStep P s (t.setFlushWaiters x) := h.next rfl rfl
theorem setHeldAtWorn (h : RunStep P s t) (x : List StreamId) : RunStep P s (t.setHeldAtWorn x) := h.next rfl rfl

theorem raise (h : RunStep P s t) (k : NoticeKind) (arg : Nat) : RunStep P s (raise k arg t) := by
  refine h.next ?_ rfl
  simp only [Machine.raise, NoticeUnit.raise, State.outside, State.core]
  split
  · split <;> rfl
  · rfl

theorem finishRequest (h : RunStep P s t) (k : ReqKind) (tag : Byte) (st : Status) (c : List Byte) (o : Option StagingId) :
    RunStep P s (finishRequest k tag st c o t) := h.next rfl rfl

theorem setStream (h : RunStep P s t) (st : StreamId) (x : StreamRec) (hst : P st) : RunStep P s (t.setStream st x) :=
  h.trans ⟨rfl, fun f hf => by
    rw [stream_setStream, if_neg (fun e : st = f => hf (e ▸ hst))]
    exact .refl _⟩

theorem setOverrun (h : RunStep P s t) (st : StreamId) (b : Bool) : RunStep P s (t.setStream st { t.stream st with overrun := b }) :=
  h.trans ⟨rfl, fun f _ => by
    rw [stream_setStream]
    split
    · next e => rw [e]; rfl
    · exact .refl _⟩

theorem ite {c : Prop} [Decidable c] {a b : State} (ha : c → RunStep P s a) (hb : ¬c → RunStep P s b) :
    RunStep P s (if c then a else b) := by
  split
  · next h => exact ha h
  · next h => exact hb h

theorem foldl {α : Type} {f : State → α → State} {l : List α} (hf : ∀ (r : State) (x : α), x ∈ l → RunStep P r (f r x))
    (h : RunStep P s t) : RunStep P s (l.foldl f t) := by
  induction l generalizing t with
  | nil => exact h
  | cons x l ih => exact ih (fun r y hy => hf r y (List.mem_cons_of_mem _ hy)) (h.trans (hf t x List.mem_cons_self))

/-! ## The buffer manager and the map -/

theorem takeFill (h : RunStep P s t) (st : StreamId) (b : BufId) : RunStep P s (takeFill st b t) := (h.setBuf ..).setFill ..

theorem grantBuffer (h : RunStep P s t) (b : BufId) (st : StreamId) (rest : List StreamId) :
    RunStep P s (grantBuffer b st rest t) := ((h.setBufWaits rest).takeFill st b).setOverrun st false

theorem freeBuffer (h : RunStep P s t) (b : BufId) : RunStep P s (freeBuffer b t) := by
  unfold Machine.freeBuffer
  split
  · exact h.grantBuffer ..
  · exact (h.setBuf ..).setPool _

theorem askBuffer (h : RunStep P s t) (st : StreamId) : RunStep P s (askBuffer st t) := by
  unfold Machine.askBuffer
  split
  · exact (h.setPool _).takeFill ..
  · exact ((h.setBufWaits _).setOverrun st true).raise ..

theorem finishFlush (h : RunStep P s t) (w : FlushWaiter) (status : Status) : RunStep P s (finishFlush w status t) := h.finishRequest ..

theorem completeFlushes (h : RunStep P s t) (st : StreamId) (status : Status) : RunStep P s (completeFlushes st status t) :=
  foldl (fun r w _ => (RunStep.refl P r).finishFlush w status) (h.setFlushWaiters _)

theorem checkFlushes (h : RunStep P s t) (st : StreamId) : RunStep P s (checkFlushes st t) :=
  .ite (fun _ => h.completeFlushes ..) (fun _ => h)

theorem assignSlot (h : RunStep P s t) (u : UnitId) : RunStep P s (assignSlot u t) := h.setUnit ..

theorem takeFree (h : RunStep P s t) (u : UnitId) (rest : List UnitId) (us : UnitState) (owner : StreamId) (first : Nat) :
    RunStep P s (takeFree u rest us owner first t) := by
  unfold Machine.takeFree
  exact .ite (fun _ => ((h.setFreeList rest).setUnit u _).raise ..) (fun _ => (h.setFreeList rest).setUnit u _)

theorem allocateForCapture {st : StreamId} {first : Nat} {u : UnitId} (h : RunStep P s t)
    (ha : allocateForCapture st first t = some (u, r)) : RunStep P s r := by
  unfold Machine.allocateForCapture at ha
  split at ha
  · cases ha
  · split at ha
    · cases ha
      exact (h.takeFree ..).setChain ..
    · cases ha

theorem enqueuePage (h : RunStep P s t) (st : StreamId) (b : BufId) (u : UnitId) (k x : Nat) :
    RunStep P s (enqueuePage st b u k x t) := (h.setBuf ..).setQueue _

theorem starve (h : RunStep P s t) (st : StreamId) (b : BufId) (hst : P st) : RunStep P s (starve st b t) :=
  (((((h.setBuf ..).setHeld ..).setStream st _ hst).setStarvedList _).raise ..).completeFlushes ..

theorem placeSealed (h : RunStep P s t) (st : StreamId) (b : BufId) (x : Nat) (hst : P st) : RunStep P s (placeSealed st b x t) := by
  unfold Machine.placeSealed
  split
  · exact (h.assignSlot _).enqueuePage ..
  · split
    · next ha => exact ((h.allocateForCapture ha).assignSlot _).enqueuePage ..
    · exact h.starve _ _ hst

theorem sealPage (h : RunStep P s t) (st : StreamId) (b : BufId) (hst : P st) : RunStep P s (sealPage st b t) :=
  (((h.setStream st _ hst).setFill ..).setBuf ..).placeSealed _ _ _ hst

theorem discardHeld (h : RunStep P s t) (st : StreamId) (hst : P st) : RunStep P s (discardHeld st t) := by
  unfold Machine.discardHeld
  extract_lets s1 src s2
  have h1 : RunStep P s s1 := h.setStarvedList _
  have h2 : RunStep P s s2 := h1.setStream st _ hst
  clear_value s2
  split
  · exact h2
  · next b _ =>
    extract_lets x s3
    have h3 : RunStep P s s3 := (h2.setStream st _ hst).setHeld st none
    clear_value s3
    exact ((h3.raise ..).freeBuffer b).checkFlushes st

/-! ## Starts -/

theorem beginRun (h : RunStep P s t) (st : StreamId) (hst : P st) : RunStep P s (beginRun st t) := by
  unfold Machine.beginRun
  extract_lets s1
  have h1 : RunStep P s s1 := (h.setStream st _ hst).raise ..
  exact .ite (fun _ => h1) (fun _ => h1.askBuffer st)

end RunStep

/-! ## A start and its followers -/

/-- What a start with its followers does beyond the first stream (R54, R83): the map, the queue, the held pages, the starved list, the FLUSH
waiters and the host link stay, and a stream is left as it is, or it is a PEER follower that starts its run. -/
structure Starts (barred : List StreamId) (s t : State) : Prop where
  outside : t.outside = s.outside
  map : t.map = s.map
  link : t.link = s.link
  queue : t.bufs.queue = s.bufs.queue
  held : t.bufs.held = s.bufs.held
  starvedList : t.bufs.starvedList = s.bufs.starvedList
  flushWaiters : t.bufs.flushWaiters = s.bufs.flushWaiters
  waits : s.bufs.waitList <+: t.bufs.waitList
  pendingSet : ∀ i, s.notices.pendingSet.getLsbD i = true → t.notices.pendingSet.getLsbD i = true
  fill : ∀ f, t.fillBuf f = s.fillBuf f ∨ isPeerArmed (s.stream f) = true
  streams : ∀ f, t.stream f = s.stream f ∨
    (isPeerArmed (s.stream f) = true ∧ f ∉ barred ∧ sameRun (startedRun (s.stream f)) (t.stream f))

namespace Starts

variable {barred : List StreamId} {s t r : State}

theorem refl (barred : List StreamId) (s : State) : Starts barred s s :=
  ⟨rfl, rfl, rfl, rfl, rfl, rfl, rfl, List.prefix_refl _, fun _ h => h, fun _ => .inl rfl, fun _ => .inl rfl⟩

theorem peerArmed_started (a b : StreamRec) (h : sameRun (startedRun a) b) : isPeerArmed b = false := by
  unfold isPeerArmed
  rw [h.state]
  rfl

theorem trans (h1 : Starts barred s t) (h2 : Starts barred t r) : Starts barred s r where
  outside := h2.outside.trans h1.outside
  map := h2.map.trans h1.map
  link := h2.link.trans h1.link
  queue := h2.queue.trans h1.queue
  held := h2.held.trans h1.held
  starvedList := h2.starvedList.trans h1.starvedList
  flushWaiters := h2.flushWaiters.trans h1.flushWaiters
  waits := h1.waits.trans h2.waits
  pendingSet := fun i h => h2.pendingSet i (h1.pendingSet i h)
  fill := fun f => by
    rcases h2.fill f with e2 | p2
    · rcases h1.fill f with e1 | p1
      · exact .inl (e2.trans e1)
      · exact .inr p1
    · rcases h1.streams f with e1 | ⟨p1, _, _⟩
      · exact .inr (e1 ▸ p2)
      · exact .inr p1
  streams := fun f => by
    rcases h1.streams f with e1 | ⟨p1, b1, e1⟩
    · rcases h2.streams f with e2 | ⟨p2, b2, e2⟩
      · exact .inl (e2.trans e1)
      · exact .inr ⟨e1 ▸ p2, b2, e1 ▸ e2⟩
    · rcases h2.streams f with e2 | ⟨p2, _, _⟩
      · exact .inr ⟨p1, b1, e2 ▸ e1⟩
      · rw [peerArmed_started _ _ e1] at p2
        cases p2

theorem foldl {f : State → StreamId → State} (hf : ∀ (r : State) (x : StreamId), Starts barred r (f r x)) (h : Starts barred s t)
    (l : List StreamId) : Starts barred s (l.foldl f t) := by
  induction l generalizing t with
  | nil => exact h
  | cons x l ih => exact ih (h.trans (hf t x))

end Starts

/-! ## The first stream of a start -/

theorem raise_pendingSet (k : NoticeKind) (arg : Nat) (s : State) :
    (raise k arg s).notices.pendingSet = s.notices.pendingSet ||| noticeMask k := by
  simp only [raise, NoticeUnit.raise]
  split
  · split <;> rfl
  · rfl

/-- Steps 1 to 6 of a run start, said once (R54). -/
theorem beginRun_facts (st : StreamId) (s : State) :
    (beginRun st s).map = s.map ∧ (beginRun st s).link = s.link ∧ (beginRun st s).bufs.queue = s.bufs.queue ∧
    (beginRun st s).bufs.held = s.bufs.held ∧ (beginRun st s).bufs.starvedList = s.bufs.starvedList ∧
    (beginRun st s).bufs.flushWaiters = s.bufs.flushWaiters ∧ s.bufs.waitList <+: (beginRun st s).bufs.waitList ∧
    (∀ i, s.notices.pendingSet.getLsbD i = true → (beginRun st s).notices.pendingSet.getLsbD i = true) ∧
    (beginRun st s).notices.pendingSet.getLsbD 1 = true ∧
    (∀ f, f ≠ st → (beginRun st s).fillBuf f = s.fillBuf f) ∧ (∀ f, f ≠ st → (beginRun st s).stream f = s.stream f) ∧
    sameRun (startedRun (s.stream st)) ((beginRun st s).stream st) ∧
    ((beginRun st s).stream st).overrun =
      (if (s.stream st).starved = false ∧ s.bufs.pool = [] then true else (s.stream st).overrun) ∧
    ((s.stream st).starved = true → (beginRun st s).bufs = s.bufs) ∧
    ((s.stream st).starved = false → ∀ b rest, s.bufs.pool = b :: rest →
      (beginRun st s).fillBuf st = some b ∧ (beginRun st s).buf b = ⟨.fill st, [], none, 0, none, none, none⟩ ∧
      (beginRun st s).bufs.waitList = s.bufs.waitList) ∧
    ((s.stream st).starved = false → s.bufs.pool = [] →
      (beginRun st s).bufs.waitList = s.bufs.waitList ++ [st] ∧ (beginRun st s).bufs.fill = s.bufs.fill) := by
  unfold beginRun
  extract_lets s1
  have hstr : s1.stream st = startedRun (s.stream st) := by simp [s1, raise, startedRun, StreamRec.startRun, State.stream, State.setStream]
  have hne : ∀ f, f ≠ st → s1.stream f = s.stream f := fun f hf => by
    simp [s1, raise, State.stream, State.setStream, Ne.symm hf]
  have hb : s1.bufs = s.bufs := rfl
  have hm : s1.map = s.map := rfl
  have hl : s1.link = s.link := rfl
  have hp : s1.notices.pendingSet = s.notices.pendingSet ||| noticeMask .runStart := raise_pendingSet ..
  have hp1 : s1.notices.pendingSet.getLsbD 1 = true := by rw [hp]; simp [noticeMask, noticeBit]
  have hpi : ∀ i, s.notices.pendingSet.getLsbD i = true → s1.notices.pendingSet.getLsbD i = true := fun i hi => by rw [hp]; simp [hi]
  clear_value s1
  cases hst : (s.stream st).starved with
  | true =>
    have : (s1.stream st).starved = true := by rw [hstr]; exact hst
    rw [if_pos this]
    exact ⟨hm, hl, by rw [hb], by rw [hb], by rw [hb], by rw [hb], by rw [hb], hpi, hp1, fun f _ => by simp only [State.fillBuf, hb], hne,
      by rw [hstr]; exact .refl _, by rw [hstr]; simp [startedRun], fun _ => hb, fun h => by simp at h, fun h => by simp at h⟩
  | false =>
    have : ¬(s1.stream st).starved = true := by rw [hstr]; simp [startedRun, hst]
    rw [if_neg this]
    unfold askBuffer
    rw [hb]
    cases hpool : s.bufs.pool with
    | cons b rest =>
      dsimp only
      refine ⟨hm, hl, by simp [takeFill, hb], by simp [takeFill, hb], by simp [takeFill, hb], by simp [takeFill, hb],
        by simp [takeFill, hb], hpi, hp1, fun f hf => ?_, hne, ?_, ?_, by simp, ?_, by simp⟩
      · simp [takeFill, State.fillBuf, State.setFill, State.setBuf, State.setPool, hb, Ne.symm hf]
      · simp only [takeFill, State.setFill_stream, State.setBuf_stream, State.setPool_stream, hstr]
        exact .refl _
      · simp only [takeFill, State.setFill_stream, State.setBuf_stream, State.setPool_stream, hstr]
        simp [startedRun]
      · intro _ b' rest' e
        cases e
        simp [takeFill, State.fillBuf, State.buf, State.setFill, State.setBuf, State.setPool, hb, PageBuf.empty]
    | nil =>
      dsimp only
      refine ⟨hm, hl, by simp [raise, hb], by simp [raise, hb], by simp [raise, hb], by simp [raise, hb], by simp [raise],
        fun i hi => ?_, ?_, fun f hf => ?_, fun f hf => ?_, ?_, ?_, by simp, by simp, ?_⟩
      · rw [raise_pendingSet]; simp [hpi i hi]
      · rw [raise_pendingSet]; simp [hp1]
      · simp [raise, State.fillBuf, State.setStream, State.setBufWaits, hb]
      · simp [raise, State.stream, State.setStream, State.setBufWaits, Ne.symm hf]
        exact hne f hf
      · have e : (s1.setBufWaits (s.bufs.waitList ++ [st])).stream st = startedRun (s.stream st) := hstr
        rw [e]
        simp only [raise, State.stream, State.setStream, vget_vset_self]
        rfl
      · simp only [raise, State.stream, State.setStream, vget_vset_self]
        simp
      · simp [raise, State.setStream, State.setBufWaits, hb]

theorem peerArmed_iff {r : StreamRec} : isPeerArmed r = true ↔ r.state = .armed ∧ r.startSource = some .peer := by
  simp [isPeerArmed, StreamRec.startSource]

theorem starts_beginRun {barred : List StreamId} {st : StreamId} {s : State} (hp : isPeerArmed (s.stream st) = true) (hb : st ∉ barred) :
    Starts barred s (beginRun st s) := by
  obtain ⟨h1, h2, h3, h4, h5, h6, h7, h8, -, h10, h11, h12, -⟩ := beginRun_facts st s
  refine ⟨((RunStep.refl (fun f => f = st) s).beginRun st rfl).outside, h1, h2, h3, h4, h5, h6, h7, h8, fun f => ?_, fun f => ?_⟩
  · by_cases e : f = st
    · exact .inr (e ▸ hp)
    · exact .inl (h10 f e)
  · by_cases e : f = st
    · subst e
      exact .inr ⟨hp, hb, h12⟩
    · exact .inl (h11 f e)

theorem isFollower_facts {barred : List StreamId} {peer f : StreamId} {s : State} (h : isFollower barred peer s f = true) :
    isPeerArmed (s.stream f) = true ∧ f ∉ barred := by
  simp only [isFollower, Bool.and_eq_true, Bool.not_eq_true', beq_iff_eq] at h
  exact ⟨peerArmed_iff.2 ⟨h.1.1.1, h.1.1.2⟩, by simpa using h.2⟩

theorem starts_startRunDepth (barred : List StreamId) (n : Nat) : ∀ (st : StreamId) (s : State),
    isPeerArmed (s.stream st) = true → st ∉ barred → Starts barred s (startRunDepth barred n st s) := by
  induction n with
  | zero => exact fun st s _ _ => .refl barred s
  | succ n ih =>
    intro st s hp hb
    refine Starts.foldl (fun r f => ?_) (starts_beginRun hp hb) _
    split
    · next h => exact ih f r (isFollower_facts h).1 (isFollower_facts h).2
    · exact .refl barred r

/-- Beyond its first stream, a run start only starts followers (R54, step 7; R83). -/
theorem starts_startRun (barred : List StreamId) (st : StreamId) (s : State) : Starts barred (beginRun st s) (startRun barred st s) := by
  refine Starts.foldl (fun r f => ?_) (.refl barred _) _
  split
  · next h => exact starts_startRunDepth barred 7 f r (isFollower_facts h).1 (isFollower_facts h).2
  · exact .refl barred r

theorem startRun_outside (barred : List StreamId) (st : StreamId) (s : State) : (startRun barred st s).outside = s.outside :=
  (starts_startRun barred st s).outside.trans ((RunStep.refl (fun f => f = st) s).beginRun st rfl).outside

/-- The first stream of a run start is as its own start left it (R54). -/
theorem startRun_self_eq (barred : List StreamId) (st : StreamId) (s : State) :
    (startRun barred st s).stream st = (beginRun st s).stream st := by
  obtain ⟨-, -, -, -, -, -, -, -, -, -, -, h12, -⟩ := beginRun_facts st s
  rcases (starts_startRun barred st s).streams st with e | ⟨p, _, _⟩
  · exact e
  · rw [Starts.peerArmed_started _ _ h12] at p
    cases p

/-- The first stream of a run start begins its run (R54, steps 1 to 4). -/
theorem startRun_self (barred : List StreamId) (st : StreamId) (s : State) :
    sameRun (startedRun (s.stream st)) ((startRun barred st s).stream st) := by
  obtain ⟨-, -, -, -, -, -, -, -, -, -, -, h12, -⟩ := beginRun_facts st s
  rw [startRun_self_eq]
  exact h12

/-- Every other stream is left as it is, or is a PEER follower that starts its run (R83). -/
theorem startRun_other (barred : List StreamId) (st : StreamId) (s : State) {f : StreamId} (hf : f ≠ st) :
    (startRun barred st s).stream f = s.stream f ∨
      (isPeerArmed (s.stream f) = true ∧ f ∉ barred ∧ sameRun (startedRun (s.stream f)) ((startRun barred st s).stream f)) := by
  obtain ⟨-, -, -, -, -, -, -, -, -, -, h11, -⟩ := beginRun_facts st s
  have := (starts_startRun barred st s).streams f
  rwa [h11 f hf] at this

theorem isFollower_congr {barred : List StreamId} {peer f : StreamId} {s t : State} (h : t.stream f = s.stream f) :
    isFollower barred peer t f = isFollower barred peer s f := by
  unfold isFollower
  rw [h]

theorem mem_allStreams (f : StreamId) : f ∈ allStreams := by
  revert f
  decide

/-- One turn of the hand-over of a start to the followers of `peer`. -/
theorem starts_turn (barred : List StreamId) (peer : StreamId) (n : Nat) (r : State) (f : StreamId) :
    Starts barred r (if isFollower barred peer r f then startRunDepth barred n f r else r) := by
  split
  · next h => exact starts_startRunDepth barred n f r (isFollower_facts h).1 (isFollower_facts h).2
  · exact .refl barred r

/-- A stream that starts stays CAPTURING through the starts of followers. -/
theorem Starts.capturing {barred : List StreamId} {s t : State} (h : Starts barred s t) {f : StreamId}
    (hf : (s.stream f).state = .capturing) : (t.stream f).state = .capturing := by
  rcases h.streams f with e | ⟨_, _, e⟩
  · rw [e, hf]
  · exact e.state

theorem startRunDepth_capturing (barred : List StreamId) (n : Nat) (st : StreamId) (s : State) :
    ((startRunDepth barred (n + 1) st s).stream st).state = .capturing := by
  obtain ⟨-, -, -, -, -, -, -, -, -, -, -, h12, -⟩ := beginRun_facts st s
  exact (Starts.foldl (starts_turn barred st n) (.refl barred _) allStreams).capturing h12.state

theorem fold_followers (barred : List StreamId) (peer : StreamId) (n : Nat) {f : StreamId} (l : List StreamId) :
    ∀ t : State, f ∈ l → isFollower barred peer t f = true →
      ((l.foldl (fun s f => if isFollower barred peer s f then startRunDepth barred (n + 1) f s else s) t).stream f).state = .capturing := by
  induction l with
  | nil => exact fun _ h => nomatch h
  | cons x l ih =>
    intro t hm ht
    rw [List.foldl_cons]
    by_cases hx : x = f
    · subst hx
      rw [if_pos ht]
      exact (Starts.foldl (starts_turn barred peer (n + 1)) (.refl barred _) l).capturing (startRunDepth_capturing ..)
    · have hs := (starts_turn barred peer (n + 1) t x).streams f
      rcases hs with e | ⟨_, _, e⟩
      · exact ih _ (by simpa [Ne.symm hx] using hm) (by rw [isFollower_congr e]; exact ht)
      · exact (Starts.foldl (starts_turn barred peer (n + 1)) (.refl barred _) l).capturing e.state

theorem startRun_eq (barred : List StreamId) (st : StreamId) (s : State) :
    startRun barred st s =
      allStreams.foldl (fun s f => if isFollower barred st s f then startRunDepth barred 7 f s else s) (beginRun st s) := by
  rw [startRun, startRunDepth]

/-- An ARMED PEER follower of the stream that starts, whose run this happening has not ended, starts with it (R54, step 7; R83). -/
theorem startRun_follower {barred : List StreamId} {st f : StreamId} {s : State} (hf : f ≠ st) (hp : isPeerArmed (s.stream f) = true)
    (hpeer : (s.stream f).config.bind (·.peer) = some st) (hb : f ∉ barred) :
    sameRun (startedRun (s.stream f)) ((startRun barred st s).stream f) := by
  have h1 : isFollower barred st (beginRun st s) f = true := by
    obtain ⟨-, -, -, -, -, -, -, -, -, -, h11, -⟩ := beginRun_facts st s
    rw [isFollower_congr (h11 f hf)]
    have := peerArmed_iff.1 hp
    simp [isFollower, this.1, this.2, hpeer, hb]
  have h2 : ((startRun barred st s).stream f).state = .capturing := by
    rw [startRun_eq]
    exact fold_followers barred st 6 allStreams _ (mem_allStreams f) h1
  rcases startRun_other barred st s hf with e | ⟨_, _, e⟩
  · rw [e, (peerArmed_iff.1 hp).1] at h2
    cases h2
  · exact e

/-! ## Ends, words and triggers -/

theorem sameRun.started {a b : StreamRec} (h : sameRun a b) : sameRun (startedRun a) (startedRun b) :=
  have e : _ = _ := h
  (congrArg startedRun e :)

theorem isPeerArmed_congr {a b : StreamRec} (h : sameRun a b) : isPeerArmed b = isPeerArmed a := by
  unfold isPeerArmed
  rw [h.state, h.config]

/-- A stream operation that moves only what runs move, and leaves each stream for which `P` does not hold as it is, but for OVERRUN, or
starts it as a PEER follower (R83). -/
structure RunMove (barred : List StreamId) (P : StreamId → Prop) (s t : State) : Prop where
  outside : t.outside = s.outside
  others : ∀ f, ¬P f → sameRun (s.stream f) (t.stream f) ∨
    (isPeerArmed (s.stream f) = true ∧ f ∉ barred ∧ sameRun (startedRun (s.stream f)) (t.stream f))

namespace RunMove

variable {barred : List StreamId} {P Q : StreamId → Prop} {s t r : State}

theorem ofStep (h : RunStep P s t) : RunMove barred P s t := ⟨h.outside, fun f hf => .inl (h.others f hf)⟩
theorem refl (P : StreamId → Prop) (s : State) : RunMove barred P s s := ofStep (.refl P s)
theorem mono (h : RunMove barred P s t) (hPQ : ∀ f, P f → Q f) : RunMove barred Q s t :=
  ⟨h.outside, fun f hf => h.others f (fun h' => hf (hPQ f h'))⟩

theorem trans (h1 : RunMove barred P s t) (h2 : RunMove barred P t r) : RunMove barred P s r where
  outside := h2.outside.trans h1.outside
  others := fun f hf => by
    rcases h1.others f hf with e1 | ⟨p1, b1, e1⟩
    · rcases h2.others f hf with e2 | ⟨p2, b2, e2⟩
      · exact .inl (e1.trans e2)
      · exact .inr ⟨isPeerArmed_congr e1 ▸ p2, b2, e1.started.trans e2⟩
    · rcases h2.others f hf with e2 | ⟨p2, _, _⟩
      · exact .inr ⟨p1, b1, e1.trans e2⟩
      · rw [Starts.peerArmed_started _ _ e1] at p2
        cases p2

theorem step (h : RunMove barred P s t) (h2 : RunStep P t r) : RunMove barred P s r := h.trans (ofStep h2)

theorem ite {c : Prop} [Decidable c] {a b : State} (ha : c → RunMove barred P s a) (hb : ¬c → RunMove barred P s b) :
    RunMove barred P s (if c then a else b) := by
  split
  · next h => exact ha h
  · next h => exact hb h

theorem foldl {α : Type} {f : State → α → State} {l : List α} (hf : ∀ (r : State) (x : α), x ∈ l → RunMove barred P r (f r x))
    (h : RunMove barred P s t) : RunMove barred P s (l.foldl f t) := by
  induction l generalizing t with
  | nil => exact h
  | cons x l ih => exact ih (fun r y hy => hf r y (List.mem_cons_of_mem _ hy)) (h.trans (hf t x List.mem_cons_self))

theorem startRun (h : RunMove barred P s t) (st : StreamId) (hst : P st) : RunMove barred P s (startRun barred st t) :=
  h.trans
    { outside := startRun_outside barred st t
      others := fun f hf => (startRun_other barred st t (f := f) (fun e => hf (e ▸ hst))).imp
        (fun e => (congrArg (sameRun (t.stream f)) e).mpr (sameRun.refl _)) id }

end RunMove

namespace RunStep

variable {P : StreamId → Prop} {s t : State}

theorem sealFill (h : RunStep P s t) (st : StreamId) (b : BufId) (hst : P st) : RunStep P s (sealFill st b t) :=
  .ite (fun _ => (h.setFill ..).freeBuffer _) (fun _ => h.sealPage st b hst)

theorem closeFill (h : RunStep P s t) (st : StreamId) (hst : P st) : RunStep P s (closeFill st t) := by
  unfold Machine.closeFill
  split
  · exact h
  · exact .ite (fun _ => (h.setFill ..).freeBuffer _) (fun _ => h.sealFill st _ hst)

theorem recordCause (h : RunStep P s t) (st : StreamId) (c : EndCause) (hst : P st) : RunStep P s (recordCause st c t) :=
  h.setStream st _ hst

theorem leaveRun (h : RunStep P s t) (st : StreamId) (c : EndCause) (hst : P st) : RunStep P s (leaveRun st c t) :=
  ((h.setBufWaits _).setStream st _ hst).raise ..

theorem endRunFault (h : RunStep P s t) (st : StreamId) (hst : P st) : RunStep P s (endRunFault st t) :=
  (h.recordCause st _ hst).leaveRun st _ hst

theorem placeWord (h : RunStep P s t) (st : StreamId) (w : Word) (hst : P st) : RunStep P s (placeWord st w t) := by
  unfold Machine.placeWord
  split
  · exact h.setBuf ..
  · exact h.setStream st _ hst

theorem disarm (h : RunStep P s t) (st : StreamId) (hst : P st) : RunStep P s (disarm t st) :=
  .ite (fun _ => h.setStream st _ hst) (fun _ => h)

theorem discardAllHeld (h : RunStep (fun _ => True) s t) : RunStep (fun _ => True) s (discardAllHeld t) :=
  foldl (fun r st _ => (RunStep.refl _ r).discardHeld st trivial) h

end RunStep

namespace RunMove

variable {barred : List StreamId} {P : StreamId → Prop} {s t : State}

theorem endRun (h : RunMove barred P s t) (st : StreamId) (c : EndCause) (hst : P st) : RunMove barred P s (endRun barred st c t) := by
  have h1 : RunMove barred P s (leaveRun st c (closeFill st (recordCause st c t))) :=
    h.step ((((RunStep.refl P t).recordCause st c hst).closeFill st hst).leaveRun st c hst)
  unfold Machine.endRun
  generalize leaveRun st c (closeFill st (recordCause st c t)) = u at h1 ⊢
  exact .ite (fun _ => h1.startRun st hst) (fun _ => h1)

theorem sealContinuing (h : RunMove barred P s t) (st : StreamId) (b : BufId) (hst : P st) :
    RunMove barred P s (sealContinuing barred st b t) := by
  have h1 : RunMove barred P s (sealFill st b t) := h.step ((RunStep.refl P t).sealFill st b hst)
  unfold Machine.sealContinuing
  generalize sealFill st b t = u at h1 ⊢
  exact .ite (fun _ => h1.endRun st _ hst) (fun _ => .ite (fun _ => h1) (fun _ => h1.step ((RunStep.refl P _).askBuffer st)))

theorem keepWord (h : RunMove barred P s t) (st : StreamId) (w : Word) (hst : P st) : RunMove barred P s (keepWord barred st w t) := by
  unfold Machine.keepWord
  dsimp only
  have h2 := h.step (((RunStep.refl P t).setStream st
    { t.stream st with keptWords := satInc max32 (t.stream st).keptWords } hst).placeWord st w hst)
  generalize placeWord st w (t.setStream st { t.stream st with keptWords := satInc max32 (t.stream st).keptWords }) = s2 at h2 ⊢
  refine .ite (fun _ => h2.endRun st _ hst) (fun _ => ?_)
  split
  · exact h2.sealContinuing st _ hst
  · exact h2

theorem deliverWord (h : RunMove barred P s t) (st : StreamId) (w : Word) (hst : P st) :
    RunMove barred P s (deliverWord barred st w t) := by
  have h1 : RunMove barred P s (t.setStream st (t.stream st).advanceSkip) := h.step ((RunStep.refl P t).setStream st _ hst)
  unfold Machine.deliverWord
  exact .ite (fun _ => h1.keepWord st w hst) (fun _ => h1)

theorem offerWord (h : RunMove barred P s t) (st : StreamId) (w : Word) (hst : P st) : RunMove barred P s (offerWord barred w t st) :=
  .ite (fun _ => h.deliverWord st w hst) (fun _ => .ite (fun _ => (h.startRun st hst).deliverWord st w hst) (fun _ => h))

theorem applyRole (h : RunMove barred P s t) (role : TriggerRole) (st : StreamId) (hst : P st) :
    RunMove barred P s (applyRole barred role st t) := by
  cases role with
  | none => exact h
  | start => exact .ite (fun _ => h.startRun st hst) (fun _ => h)
  | stop c => exact .ite (fun _ => h.endRun st c hst) (fun _ => h)

theorem endAllRuns (s : State) (c : EndCause) : (endAllRuns c s).outside = s.outside := by
  have h1 : RunMove (capturingNow s) (fun _ => True) s (allStreams.foldl
      (fun t st => if (t.stream st).state = .capturing then Machine.endRun (capturingNow s) st c t else t) s) :=
    foldl (fun r st _ => .ite (fun _ => (refl _ r).endRun st c trivial) (fun _ => refl _ r)) (refl _ s)
  have h2 : RunStep (fun _ => True) _ (Machine.endAllRuns c s) :=
    RunStep.foldl (fun r st _ => (RunStep.refl _ r).disarm st trivial) (.refl _ _)
  exact h2.outside.trans h1.outside

end RunMove

end Sys2Proof.Machine
end

