-- ==== Sys2Proof/Tests/Slice0.lean ====
section
/-!
SUPPORT. Tests. Expected results come from the specification's rules and from its two published CRC check values; the witnesses at the end
show, for each obligation with hypotheses, concrete states and operands that meet them.
-/
-- The theorems of this file are elaborated one after another: in parallel their waiting threads exceed the memory limit of the check.
set_option Elab.async false

namespace Sys2Proof.Tests

open Sys2Proof Sys2Proof.Machine

/-! ## Well-formedness, decoding and checks -/

theorem test_payload_too_long_refused : (Instr.hello 1 (List.replicate 243 0)).wellFormed = false := by decide +kernel
theorem test_payload_at_limit : (Instr.hello 1 (List.replicate 242 0)).wellFormed = true := by decide +kernel
theorem test_request_kind_is_no_bad_kind : (Instr.badKindFrame 0x29 1 []).wellFormed = false := by decide
theorem test_unknown_kind_is_bad_kind : (Instr.badKindFrame 0x17 1 []).wellFormed = true := by decide
theorem test_timer_start_with_stop_action_refused : (Instr.timerStart 1 [0, 1, 5, 0, 0]).wellFormed = false := by decide
theorem test_timer_stop_with_start_action_refused : (Instr.timerStop 1 [0, 0, 5, 0, 0]).wellFormed = false := by decide

theorem test_no_word_spells_a_command : decodeTableWord 32 0xC3020101 = none := rfl

/-- The published check value of CRC-16/CCITT-FALSE for the nine digits. -/
theorem test_crc16_check : crc16 [0x31, 0x32, 0x33, 0x34, 0x35, 0x36, 0x37, 0x38, 0x39] = 0x29B1 := by decide +kernel
/-- The published check value of CRC-32 for the nine digits. -/
theorem test_crc32_check : crc32 [0x31, 0x32, 0x33, 0x34, 0x35, 0x36, 0x37, 0x38, 0x39] = 0xCBF43926 := by decide +kernel

/-- R189: START, LEN, BODY, then the CRC-16 high byte first. -/
theorem test_frame_layout : (wireFrame [0x01, 0x05]).take 4 = [0xC3, 2, 0x01, 0x05] := by decide +kernel

/-! ## States for the tests -/

/-- A device in READY, its transmitter still held, so that replies and notices stay where they are formed. -/
def ready : State := { State.reset with ctl := { Ctl.reset with device := .ready, scan := none, nextSlot := some 0 } }

/-- The state after a command. -/
def after (c : Instr) (s : State) : State :=
  match exec c s with
  | .next t => t
  | .fault _ => s
  | .refused _ => s

/-- The BODY of the newest reply. -/
def lastBody (s : State) : List Byte := (s.link.replies.getLast?.map (·.body)).getD []

/-- A configuration on lane 0, started and stopped by FIRE. -/
def hostConfig : StreamConfig := ⟨0, .continuous, none, 1, .host, some .host, none, none, false⟩

/-- READY with stream 0 in a state of a run, on lane 0, which listens. -/
def withStream (r : StreamRec) : State :=
  (ready.setStream 0 r).setLane 0 ⟨true, .inWord [], 0, 0, false⟩

/-- A BOUND stream. -/
def bound : StreamRec := { StreamRec.undefined with state := .bound, config := some hostConfig }

/-- READY with stream 0 CAPTURING into buffer 0, which holds the words given. -/
def capturing (ws : List Word) : State :=
  let s := withStream { bound with state := .capturing, runNumber := 1 }
  (((s.setPool [1, 2]).setFill 0 (some 0)).setBuf 0 ⟨.fill 0, ws, some 0, 7, none, none, none⟩)

/-- A sealed page of stream 0 with one word, in buffer 3 at slot 0 of unit 5. -/
def sealedPage : PageBuf := ⟨.queued, [0x1234], some 0, 9, some ⟨0, 1, true, false, 0, 1⟩, some 5, some 0⟩

/-- The queue entry of that page. -/
def entry : QueueEntry := ⟨3, 0, 5, 0, 0⟩

/-- READY with the sealed page in the queue and its unit in stream 0's chain. -/
def queued : State :=
  let s := withStream { bound with endPage := 1, inFlight := 1, runNumber := 1 }
  let s := (s.setBuf 3 sealedPage).setQueue [entry]
  (s.setUnit 5 ⟨.opened, 2, some 0, some 0, 1, 0, false⟩).setChain 0 [5]

/-- The sealed page being programmed. -/
def programming : State :=
  queued.setOp (some ⟨.program, 5, some 0, .programQueue, some (.pageBuffer 3), some .compute, 0⟩)

/-- A unit that is FREE, at the head of the free list. -/
def withFree (u : UnitId) (s : State) : State :=
  (s.setUnit u { UnitRec.bare .free with eraseCount := 4 }).setFreeList (u :: s.map.freeList)

/-! ## The link and the controller -/

/-- R193: a request with a wrong length is answered BAD_LENGTH through the refusal slot. -/
theorem test_bad_length : lastBody (after (.hello 5 [0]) ready) = [0x81, 5, 0x05] := by decide +kernel
/-- R193: tag 0 is refused first. -/
theorem test_bad_tag : lastBody (after (.arm 0 [1, 2]) ready) = [0x91, 0, 0x03] := by decide +kernel
/-- R194: an unknown kind is answered with KIND 0xFF. -/
theorem test_bad_kind : lastBody (after (.badKindFrame 0x17 9 []) ready) = [0xFF, 9, 0x04] := by decide +kernel
/-- R196: in MOUNTING an ARM is refused with MOUNTING. -/
theorem test_mounting_refuses : lastBody (after (.arm 1 [0]) State.reset) = [0x91, 1, 0x0D] := by decide +kernel
/-- R201: the constants of HELLO. -/
theorem test_hello : lastBody (after (.hello 7 []) ready) =
    [0x81, 7, 0x00, 0x4D, 0x40, 0x08, 1, 0x00, 0x04, 64, 8, 6, 32, 4] := by decide +kernel
/-- R214: the reply to STATUS has 73 bytes. -/
theorem test_status_length : (lastBody (after (.status 7 []) ready)).length = 73 := by decide +kernel
/-- R202: RESET sets reset pending. -/
theorem test_reset_pending : (after (.reset 1 []) ready).link.resetPending = true := by decide +kernel
/-- R173: CHECKPOINT sets checkpoint pending and waits. -/
theorem test_checkpoint_waits : (after (.checkpoint 3 []) ready).ctl.waiters = [⟨3, false⟩] := by decide +kernel
/-- R182: SHUTDOWN ends a run with cause SHUTDOWN. -/
theorem test_shutdown_ends_runs :
    (((after (.shutdown 1 []) (capturing [5])).stream 0).state, ((after (.shutdown 1 []) (capturing [5])).stream 0).endCause) =
      (.bound, some .shutdown) := by decide +kernel
/-- R207: the old mask, then the new one. -/
theorem test_notice_mask : lastBody (after (.setNoticeMask 2 [0x34, 0x12]) ready) =
    [0x86, 2, 0x00, 0xFF, 0xFF, 0x34, 0x12] := by decide +kernel
/-- R209: acknowledged bits are cleared. -/
theorem test_ack_notice : (after (.ackNotice 2 [0xFE, 0xFF]) (raise .mountDone 1 (raise .worn 48 ready))).notices.pendingSet = 1 := by
  decide +kernel
/-- R190: START begins a frame. -/
theorem test_start_byte : (after (.rxdByte 0xC3 false) ready).link.rx = .length := by decide +kernel
/-- R192: a discarded frame is counted and LINK_ERROR (bit 15) raised. -/
theorem test_discard : ((after .frameDiscard ready).link.discards, (after .frameDiscard ready).notices.pendingSet) = (1, 0x8000) := by
  decide +kernel

/-! ## Streams, lanes and triggers -/

/-- R65: a stream defined on lane 2 is BOUND and its lane listens. -/
theorem test_define :
    let t := after (.defineStream 1 [0, 2, 0, 0, 0, 0, 0, 1, 0, 1, 0xFF, 0, 0, 0, 0]) ready
    ((t.stream 0).state, (t.lane 2).listening) = (.bound, true) := by decide +kernel
/-- R64: a skip factor of 0 is refused. -/
theorem test_define_skip_0 :
    lastBody (after (.defineStream 1 [0, 2, 0, 0, 0, 0, 0, 0, 0, 1, 0xFF, 0, 0, 0, 0]) ready) = [0x90, 1, 0x06] := by decide +kernel
/-- R66: ARM leaves a stream with start source HOST ARMED. -/
theorem test_arm : ((after (.arm 1 [0]) (withStream bound)).stream 0).state = .armed := by decide +kernel
/-- R84, R85: FIRE starts the armed stream of its mask. -/
theorem test_fire : lastBody (after (.fire 1 [1]) (withStream { bound with state := .armed })) = [0x92, 1, 0x00, 1, 0] := by
  decide +kernel
/-- R67: STOP ends a run, and the reply says so. -/
theorem test_stop : lastBody (after (.stop 1 [0]) (capturing [])) = [0x93, 1, 0x00, 2, 1, 1, 0] := by decide +kernel
/-- R113: FLUSH seals one word; with no free unit the page is held and the reply is NO_SPACE. -/
theorem test_flush_starves :
    lastBody (after (.flush 1 [0]) (capturing [5])) = [0x94, 1, 0x09, 0, 4, 1, 1, 0, 0, 0] := by decide +kernel
/-- R68: a BOUND stream that holds nothing becomes UNDEFINED, and its lane IDLE. -/
theorem test_unbind :
    let t := after (.unbind 1 [0]) (withStream bound)
    ((t.stream 0).state, (t.lane 0).listening) = (.undefined, false) := by decide +kernel
/-- R214: the reply to STREAM INFO has 83 bytes; its state is at offset 4. -/
theorem test_stream_info :
    let b := lastBody (after (.streamInfo 1 [0]) (withStream bound))
    (b.length, b[4]?) = (83, some 2) := by decide +kernel
/-- R61: a kept word joins the fill buffer. -/
theorem test_good_word : ((after (.laneGoodWord 0 0xBEEF) (capturing [5])).buf 0).words = [5, 0xBEEF] := by decide +kernel
/-- R63, R75: a bad word is a dropped word. -/
theorem test_bad_word : ((after (.laneBadWord 0 false) (capturing [5])).stream 0).droppedTotal = 1 := by decide +kernel
/-- R72: sixteen zeros and a parity one make the good word 0. -/
theorem test_seventeenth_bit :
    ((after (.lnclkRisingEdge 0 true) ((capturing []).setPhase 0 (.inWord (List.replicate 16 false)))).lane 0).goodWords = 1 := by
  decide +kernel
/-- R72: a boundary in the midst of a word makes a fragment. -/
theorem test_fragment :
    ((after (.laneWordBoundary 0) ((capturing []).setPhase 0 (.inWord [true]))).lane 0).parityErrors = 1 := by decide +kernel
/-- R80: a rising edge starts the stream armed on it. -/
theorem test_edge :
    ((after (.extEdge 1 true) (withStream { bound with state := .armed, config := some { hostConfig with start := .ext 1 true } })).stream
      0).state = .capturing := by decide +kernel
/-- R89: START reloads the remaining ticks. -/
theorem test_timer_start : ((after (.timerStart 1 [2, 0, 5, 0, 1]) ready).timer 2).remaining = 5 := by decide +kernel
/-- R89: STOP keeps the period. -/
theorem test_timer_stop :
    (after (.timerStop 1 [2, 1, 0, 0, 0]) (ready.setTimer 2 ⟨true, 5, true, 3, 0⟩)).timer 2 = ⟨false, 5, true, 0, 0⟩ := by decide +kernel
/-- R87: a tick after 100 µs. -/
theorem test_timer_tick :
    ((after (.timerTick 2) { ready.setTimer 2 ⟨true, 5, true, 3, 0⟩ with time := 100 }).timer 2).remaining = 2 := by decide +kernel
/-- R87: a one-shot timer stops at its expiry. -/
theorem test_timer_expiry :
    ((after (.timerExpiry 2) { ready.setTimer 2 ⟨true, 5, false, 1, 0⟩ with time := 100 }).timer 2).running = false := by decide +kernel

/-! ## Data, array and hand-overs -/

/-- R141: a READ is served from the page buffer, with BUFFERED and RUN_START set. -/
theorem test_read_buffered :
    lastBody (after (.read 1 [0, 0, 0, 0, 0, 0, 4]) queued) =
      [0xA0, 1, 0x00, 0, 0, 0, 0, 0, 1, 0, 1, 0, 0x11, 9, 0, 0, 0, 0, 0, 1, 0x34, 0x12] := by decide +kernel
/-- R140: no page at or above the end page. -/
theorem test_read_above_end : lastBody (after (.read 1 [0, 1, 0, 0, 0, 0, 4]) queued) = [0xA0, 1, 0x08, 0, 1, 0, 0, 0] := by
  decide +kernel
/-- R153: a unit with a page still to program is not released. -/
theorem test_release_waits : (after (.release 1 [0, 9, 0, 0, 0]) queued).chain 0 = [5] := by decide +kernel
/-- R158: a stream with a page in flight is not deleted. -/
theorem test_delete_in_flight : lastBody (after (.delete 1 [0]) queued) = [0xA2, 1, 0x07] := by decide +kernel
/-- R44: UNIT INFO of an OPEN unit with erase count 2, owner S0. -/
theorem test_unit_info :
    lastBody (after (.unitInfo 1 [5, 0]) queued) =
      [0xA8, 1, 0x00, 5, 0, 1, 2, 0, 0, 0, 0, 0, 0, 1, 0, 0, 0, 0xFF, 0xFF] := by decide +kernel
/-- R17: the oldest entry is granted the port. -/
theorem test_program_grant : ((after .programGrant queued).engine.op.map (·.unit)) = some 5 := by decide +kernel
/-- R110: a PASS frees the page's buffer. -/
theorem test_program_pass : ((after (.programDone true) programming).bufs.queue, ((after (.programDone true) programming).stream 0).inFlight) =
    ([], 0) := by decide +kernel
/-- R117: a FAIL freezes the unit. -/
theorem test_program_fail : ((after (.programDone false) (withFree 9 programming)).unit 5).state = .frozen := by decide +kernel
/-- R160: the head of the dirty list is erased. -/
theorem test_erase_grant : ((after .eraseGrant (appendDirty 8 ready)).unit 8).state = .erasing := by decide +kernel
/-- R161: an erased unit is FREE, one erase older. -/
theorem test_erase_pass :
    (after (.eraseDone true) ((ready.setUnit 8 { UnitRec.bare .erasing with eraseCount := 6 }).setOp
      (some ⟨.erase, 8, none, .eraseProcess, none, none, 0⟩))).unit 8 = { UnitRec.bare .free with eraseCount := 7 } := by decide +kernel
/-- R174: the scan's first read is slot 0 of unit 0. -/
theorem test_mount_read : ((after .mountReadGrant State.reset).engine.op.map (fun o => (o.unit, o.slot))) = some (0, some 0) := by
  decide +kernel
/-- R168: a checkpoint in table slot 0 of the present table unit programs slot 0. -/
theorem test_checkpoint_start :
    ((after .checkpointStart { ready with ctl := { ready.ctl with ckptPending := true } }).engine.op.map (fun o => (o.unit, o.slot))) =
      some (1, some 0) := by decide +kernel
/-- R93: a pooled buffer goes to the head of the wait list. -/
theorem test_buffer_grant : (after .bufferGrant (ready.setBufWaits [4])).fillBuf 4 = some 0 := by decide +kernel
/-- R186: device time counts. -/
theorem test_time : (after .deviceTimeTick ready).time = 1 := by decide +kernel
/-- R185: a reset at RST# leaves MOUNTING. -/
theorem test_rst : (after (.rstAssert ⟨true, true⟩) ready).ctl.device = .mounting := by decide +kernel
/-- R187: both straps high select 2000000 baud. -/
theorem test_straps : (after (.powerOn ⟨true, true⟩ 0) ready).link.rate = .b2000000 := by decide +kernel

/-! ## The limits of page numbers, of drifted reads and of gaps -/

/-- The stream of `s` at its last page number but `n`. -/
def nearLimit (n : Nat) (s : State) : State := s.setStream 0 { s.stream 0 with endPage := 0xFFFFFFFF - n }

/-- R52: the word that fills page 0xFFFFFFFE ends the run with LIMIT. -/
theorem test_last_page_ends_the_run :
    let r := (after (.laneGoodWord 0 7) (nearLimit 1 (capturing (List.replicate 255 0)))).stream 0
    (r.state, r.endPage, r.endCause) = (.bound, 0xFFFFFFFF, some .limit) := by decide +kernel
/-- R52: no page takes the number 0xFFFFFFFF. -/
theorem test_exhausted_stream_seals_nothing :
    let t := after (.flush 1 [0]) (nearLimit 0 (capturing [5]))
    ((t.stream 0).endPage, (t.stream 0).inFlight, (t.stream 0).endCause) = (0xFFFFFFFF, 0, some .limit) := by decide +kernel
/-- R8: an erased slot reads erased, whatever the report says. -/
theorem test_erased_slot_reads_erased : cellsRead erasedPage (some ⟨Vector.replicate 256 0, ⟨0, 0, 0, 0, 0, 0, 0, 0, 0, 0, 0, 0⟩⟩) = erasedPage := by
  decide +kernel
/-- R4: a spent slot never reads BLANK. -/
theorem test_spent_slot_is_not_blank :
    let spent : Page := ⟨Vector.replicate 256 0, ⟨0, 0, 0, 0, 0, 0, 0, 0, 0, 0, 0, 0⟩⟩
    classify (cellsRead spent (some erasedPage)).tag = .invalid := by decide +kernel
/-- R51, R180: with five gaps the units before the second leave, and the three gaps behind it stay. -/
theorem test_trim_keeps_gaps_in_range :
    let o := fun (u : UnitId) (f : Nat) => (⟨u, 0, f, 0xFFFF, 10, .badEnd, false, 1⟩ : Owned)
    let (chain, gaps, gone) := trimChain [o 2 0, o 3 20, o 4 40, o 5 60, o 6 80, o 7 100]
    (chain.map (·.unit), gaps, gone) = ([4, 5, 6, 7], [⟨50, 10⟩, ⟨70, 10⟩, ⟨90, 10⟩], [2, 3]) := by decide +kernel

/-! ## Witnesses: states and operands that meet the hypotheses of each obligation, clause by clause -/

/-- READY with something in its reply queue, being sent. -/
def sending (r : Reply) : State :=
  { ready with link := { ready.link with holding := false, tx := .sendingReply [], replies := [r] } }

/-- READY with an operation in progress since time 0. -/
def withOp (op : Operation) (s : State) : State := { s.setOp (some op) with time := 15000 }

/-- A relocation of stream 0 from unit 5, failed at slot `k`, to unit 9. -/
def relocOf (k pos : Nat) (ph : RelocPhase) : Reloc := ⟨0, 5, k, 3, some 9, 1, pos, ph⟩

/-- READY with a relocation in progress. -/
def relocating (r : Reloc) : State :=
  (withFree 10 ((queued.setUnit 9 ⟨.target, 1, some 0, some 0, 0, 0, false⟩).setUnit 5 ⟨.frozen, 2, some 0, some 0, 2, 1, false⟩)).setReloc
    (some r)

/-- A device in SHUTTING_DOWN with its final checkpoint at page `i`. -/
def checkpointing (final : Bool) (next : CkptStep) : State :=
  { ready with ctl := { ready.ctl with
      ckpt := some ⟨⟨Vector.replicate 1024 (0, false), 0, 1⟩, 1, some 0, next, final⟩
      waiters := [⟨7, true⟩]
      tableBuffer := some (Vector.replicate 256 0xFFFF)
      device := if final then .shuttingDown else .ready
      shutdown := if final then some ⟨9, true, none⟩ else none } }

/-- READY with stream 0 STARVED, its page 41 held in buffer 3, stream 1 CAPTURING two words into buffer 4 with no unit to be had, and stream 2
waiting for a buffer. -/
def holding : State :=
  let s := ready.setStream 0 { bound with state := .capturing, starved := true, endPage := 42, inFlight := 3 }
  let s := ((s.setBuf 3 { sealedPage with place := .held 0, sealed := some ⟨41, 1, true, false, 0, 1⟩ }).setHeld 0 (some 3)).setStarvedList [0]
  let s := s.setStream 1 { bound with state := .capturing, endPage := 7, inFlight := 1 }
  let s := (s.setFill 1 (some 4)).setBuf 4 ⟨.fill 1, [9, 9], some 1, 0, none, none, none⟩
  ((s.setStream 2 { bound with state := .capturing, overrun := true }).setBufWaits [2]).setPool []

/-- A read of the mount scan in progress at a position. -/
def scanning (pos : ScanPos) : State :=
  { State.reset with
    ctl := { State.reset.ctl with scan := some { Scan.start with pos := pos } }
    engine := ⟨some ⟨.read, 0, some 0, .mountStep, some .scanBuffer, none, 0⟩, 0⟩ }

/-- A page that reads VALID as slot `k` of a stream. -/
def validPage (st k x : Nat) : Page :=
  programmedPage .keep ⟨erasedPage.data, ⟨0x5A, BitVec.ofNat 8 st, 0, BitVec.ofNat 8 k, 1, BitVec.ofNat 32 x, 1, 0, 0, 0xFFFF, 0, 0⟩⟩

theorem witness_StepRunsTheFrontCommand :
    ({ ready with pending := [.deviceTimeTick, .programGrant] } : State).pending = .deviceTimeTick :: [.programGrant] ∧
      ready.pending = [] := ⟨rfl, rfl⟩

theorem witness_PinAndSupplyResets :
    ready.rstLow = false ∧ ({ ready with rstLow := true } : State).powered = true ∧ ({ ready with rstLow := true } : State).rstLow = true :=
  ⟨rfl, rfl, rfl⟩

theorem witness_CutOperationTouchesItsSlotsOnly :
    ready.engine.op = none ∧ programming.engine.op = some ⟨.program, 5, some 0, .programQueue, some (.pageBuffer 3), some .compute, 0⟩ ∧
      (withOp ⟨.erase, 8, none, .eraseProcess, none, none, 0⟩ ready).engine.op =
        some ⟨.erase, 8, none, .eraseProcess, none, none, 0⟩ := ⟨rfl, rfl, rfl⟩

theorem witness_EveryHappeningSettles : ready.settled = true ∧ exec .programGrant ready = .next (after .programGrant ready) :=
  ⟨by decide +kernel, rfl⟩

theorem witness_SettlingIsConfined : ¬(ready.ctl.device = .ready ∧ ready.ctl.device = .worn) := by decide

theorem witness_TheTransmitterGoesOn :
    (let s := { ready with time := 5000 }
    s.running = true ∧ s.link.holding = true ∧ s.link.tx = .idle ∧ 5000 ≤ s.time.toNat) ∧
    (let s := { ready with link := { ready.link with tx := .sendingNotice [0xC3], holding := false } }
    s.running = true ∧ s.link.tx = .sendingNotice [0xC3] ∧ s.link.holding = false) := by decide +kernel

theorem witness_RepliesDepart :
    (let r : Reply := ⟨.request 1 .hello, [0x81, 1, 0], none⟩
    (sending r).running = true ∧ (sending r).link.tx = .sendingReply [] ∧ (sending r).link.replies = [r] ∧
      (∀ tag, r.source ≠ .request tag .reset) ∧ (sending r).link.holding = false) ∧
    (let r : Reply := ⟨.request 1 .reset, [0x83, 1, 0], none⟩
    (sending r).running = true ∧ (sending r).link.replies = [r] ∧ r.source = .request 1 .reset) :=
  ⟨⟨rfl, rfl, rfl, fun _ h => (by cases h), rfl⟩, rfl, rfl, rfl⟩

theorem witness_NoticeFrameBytes :
    (⟨0, 0xFFFF, List.replicate 16 ⟨.runStart, 0, 0⟩, true⟩ : NoticeUnit).backlog.length ≤ 16 ∧
      (⟨0, 0xFFFF, [⟨.worn, 48, 3⟩], false⟩ : NoticeUnit).backlog[0]? = some ⟨.worn, 48, 3⟩ := by decide

theorem witness_DiscardsAreCounted :
    ready.running = true ∧ ready.link.rx = .hunt ∧
      (let s := { ready with time := 2000, link := { ready.link with rx := .length } }
      s.running = true ∧ s.link.rx ≠ .hunt ∧ 2000 ≤ elapsed s.time s.link.lastByte) := by decide +kernel

theorem witness_ReceiverFollowsItsTable :
    ready.running = true ∧ ready.link.rx = .hunt ∧ ({ ready with link := { ready.link with rx := .length } } : State).link.rx ≠ .hunt ∧
      ({ ready with link := { ready.link with rx := .body 2 [1] } } : State).link.rx = .body 2 [1] ∧
      ({ ready with link := { ready.link with rx := .crc 2 [1, 1] none } } : State).link.rx = .crc 2 [1, 1] none := by decide +kernel

theorem witness_LastByteIsTheCommand :
    (let s := { ready with link := { ready.link with rx := .crc 2 [1, 1] (some 0x30) } }
    s.running = true ∧ s.link.rx = .crc 2 (0x01 :: 0x01 :: []) (some 0x30)) ∧
    (∃ hi lo : Byte, word16 lo hi = crc16 (BitVec.ofNat 8 2 :: 0x01 :: 0x01 :: []) ∧ word16 (lo + 1) hi ≠ crc16 [2, 1, 1]) ∧
    (0x17 : Byte) ∉ requestKindCodes ∧ (0x01 : Byte) = kindCode .hello := by
  refine ⟨by decide +kernel, ⟨(crc16 [2, 1, 1]).extractLsb' 8 8, (crc16 [2, 1, 1]).extractLsb' 0 8, ?_, ?_⟩, by decide, rfl⟩
  · decide +kernel
  · decide +kernel

theorem witness_RefusedFramesAreAnswered :
    ready.running = true ∧ passesEarly .hello 0 [] ready = false ∧ (0x17 : Byte) ∉ requestKindCodes ∧ State.reset.running = true ∧
      passesEarly .arm 1 [0] State.reset = true ∧ takenIn State.reset.ctl.device .arm = false := by decide +kernel

/-- A request of every kind, with its own length, is accepted in READY: the hypothesis of every statement about a request. -/
theorem witness_accepted : allKinds.all (fun k => accepted k 1 (List.replicate (kindBodyLength k - 2) 0) ready) = true := by
  decide +kernel

theorem witness_HelloAndStatusInEveryState :
    passesEarly .hello 1 [] ready = true ∧ passesEarly .status 1 [] State.reset = true ∧ passesEarly .reset 255 [] ready = true := by
  decide +kernel

theorem witness_heldPages :
    holdsAlone 0 3 ⟨41, 1, true, false, 0, 1⟩ holding ∧ sealsToHeld 1 4 holding ∧
      ∀ f ∈ holding.bufs.waitList, (holding.stream f).state = .capturing := by
  unfold holdsAlone sealsToHeld
  decide +kernel

theorem witness_ShutdownIsTaken :
    accepted .shutdown 1 [] holding = true ∧ (holding.stream 0).state = .capturing ∧
      ((withStream { bound with state := .armed }).stream 0).state = .armed ∧ (ready.stream 0).state = .undefined := by decide +kernel

theorem witness_StreamInfoReportsTheRecord :
    streamOf 8 = none ∧ streamOf 7 = some 7 ∧ (ready.stream 7).config = none ∧ ((withStream bound).stream 0).config = some hostConfig := by
  decide +kernel

theorem witness_MapRequestsReportTheMap :
    unitOf 1024 = none ∧ unitOf 1023 = some 1023 ∧ (relocating (relocOf 1 0 .readDue)).reloc.current = some (relocOf 1 0 .readDue) ∧
      (relocOf 1 0 .readDue).source = 5 ∧ (relocOf 1 0 .readDue).target = some 9 ∧
      (withFree 9 ready).map.freeList.idxOf? 9 = some 0 ∧ 9 ∉ ready.map.freeList ∧ 9 ∉ ready.map.dirtyList ∧
      (2 ≤ (9 : UnitId).val ∧ (ready.unit 9).state ≠ .retired) := by decide +kernel

theorem witness_DefineParametersAreChecked :
    badDefine [8, 2, 0, 0, 0, 0, 0, 1, 0, 1, 0xFF, 0, 0, 0, 0] = true ∧
      badDefine [7, 5, 1, 1, 0, 0, 0, 0, 1, 14, 12, 0, 0, 0, 1] = false ∧ (ready.stream 7).state ≠ .armed ∧
      (ready.stream 7).state ≠ .capturing ∧ (ready.stream 7).state ≠ .faulted := by decide +kernel

theorem witness_DefineBindsTheStream :
    badDefine [0, 2, 0, 0, 0, 0, 0, 1, 0, 1, 0xFF, 0, 0, 0, 0] = false ∧
      streamOf (field8 [0, 2, 0, 0, 0, 0, 0, 1, 0, 1, 0xFF, 0, 0, 0, 0] 2) = some 0 ∧
      ((capturing []).stream 0).state = .capturing ∧ (ready.stream 0).state = .undefined := by decide +kernel

theorem witness_RunsStartWithTheirFollowers :
    (ready.stream 0).starved = false ∧ ready.bufs.pool = 0 :: ready.bufs.pool.tail ∧ (ready.setPool []).bufs.pool = [] ∧
      isPeerArmed ⟨.armed, some { hostConfig with start := .peer, peer := some 0 }, 0, false, 0, 0, 0, 0, [], 0, 0, 0, 0, false, false,
        false, none⟩ = true := by decide +kernel

theorem witness_RunsEndByTheirCause :
    EndCause.count ≠ .fault ∧ (capturing [5]).fillBuf 0 = some 0 ∧ ((capturing [5]).buf 0).words ≠ [] ∧ ready.fillBuf 0 = none ∧
      restarts .count bound = false ∧ ((capturing [5]).stream 0).endPage < 0xFFFFFFFF ∧
      ((nearLimit 0 (capturing [5])).stream 0).endPage = 0xFFFFFFFF := by decide +kernel

theorem witness_SealsPlaceOrHoldThePage :
    ((queued.chain 0).getLast? = some 5 ∧ (queued.unit 5).assigned < 64 ∧ (queued.unit 5).state = .opened) ∧
      (ready.chain 0).getLast? = none ∧ ready.map.freeList.length ≤ 24 ∧ (queued.stream 0).endPage < 0xFFFFFFFF ∧
      ((nearLimit 0 ready).stream 0).endPage = 0xFFFFFFFF ∧
      (ready.setFreeList ((List.range 25).map (fun n => Fin.ofNat 1024 (n + 2)))).map.freeList.length = 25 := by decide +kernel

theorem witness_ArmWaitsOrStarts :
    accepted .arm 1 [0] (withStream bound) = true ∧ ((withStream bound).stream 0).state = .bound ∧
      ((withStream bound).stream 0).endPage ≠ 0xFFFFFFFF ∧ (ready.stream 0).state ≠ .bound ∧
      ((withStream { bound with config := some { hostConfig with start := .immediate } }).stream 0).config.any
        (fun c => c.start == .immediate) = true ∧
      ((withStream { bound with endPage := 0xFFFFFFFF }).stream 0).endPage = 0xFFFFFFFF := by decide +kernel

theorem witness_StopEndsTheRun :
    accepted .stop 1 [0] (capturing []) = true ∧ ((capturing []).stream 0).state = .capturing ∧
      ((withStream { bound with state := .armed }).stream 0).state = .armed ∧ (ready.stream 0).state ≠ .capturing ∧
      (ready.stream 0).state ≠ .armed := by decide +kernel

theorem witness_FlushSealsAndWaits :
    accepted .flush 1 [0] (capturing [5]) = true ∧ ((capturing [5]).stream 0).starved = false ∧ (capturing [5]).fillBuf 0 = some 0 ∧
      ((capturing [5]).buf 0).words ≠ [] ∧ ((capturing []).buf 0).words = [] ∧ ((capturing [5]).stream 0).endPage < 0xFFFFFFFF ∧
      accepted .flush 1 [0] (nearLimit 0 (capturing [5])) = true ∧ ((nearLimit 0 (capturing [5])).stream 0).endPage = 0xFFFFFFFF ∧
      ((withStream { bound with starved := true }).stream 0).starved = true := by decide +kernel

theorem witness_UnbindRemovesTheConfiguration :
    accepted .unbind 1 [0] queued = true ∧ (queued.stream 0).state = .bound ∧ queued.chain 0 ≠ [] ∧
      ((withStream bound).stream 0).state = .bound ∧ (withStream bound).chain 0 = [] ∧ ((withStream bound).stream 0).inFlight = 0 ∧
      ((capturing []).stream 0).state = .capturing ∧ (ready.stream 0).state = .undefined := by decide +kernel

theorem witness_TimersStartAndStop :
    accepted .timer 1 [2, 0, 1, 0, 1] ready = true ∧ field8 [2, 0, 1, 0, 1] 3 = 0 ∧ field16 [2, 0, 1, 0, 1] 4 ≠ 0 ∧
      accepted .timer 1 [2, 1, 0, 0, 0] (ready.setTimer 2 ⟨true, 5, true, 3, 0⟩) = true ∧ 2 < (field8 [3, 0, 1, 0, 1] 2).toNat ∧
      ((ready.setTimer 2 ⟨true, 5, true, 3, 0⟩).timer 2).running = true ∧ (ready.timer 2).running = false := by decide +kernel

theorem witness_ReadsAreLookedUp :
    accepted .read 1 [0, 0, 0, 0, 0, 0, 112] queued = true ∧ 112 < (field8 [0, 0, 0, 0, 0, 0, 113] 8).toNat ∧
      (queued.stream 0).state ≠ .undefined ∧ (queued.stream 0).basePage ≤ 0 ∧ 0 < (queued.stream 0).endPage ∧
      (queued.buf 3).stream = some 0 ∧ (queued.buf 3).sealed.map (·.pageNumber) = some 0 ∧ (queued.buf 3).place = .queued ∧
      (∀ b, (queued.buf b).stream = some 0 → b = 3) ∧ (∀ b, ((queued.setBuf 3 PageBuf.empty).buf b).stream = none) := by
  decide +kernel

theorem witness_ReleaseRemovesTheFront :
    accepted .release 1 [0, 1, 0, 0, 0] queued = true ∧ (queued.stream 0).state ≠ .undefined ∧ (ready.stream 0).state = .undefined ∧
      queued.map.retiredCount + (queued.chain 0).countP (fun u => (queued.unit u).state == .frozen) < 48 := by decide +kernel

theorem witness_DeleteEmptiesTheStream :
    let s := queued.setStream 0 { bound with endPage := 1 }
    accepted .delete 1 [0] s = true ∧ (s.stream 0).state = .bound ∧ (s.stream 0).relocating = false ∧ (s.stream 0).inFlight = 0 ∧
      s.map.retiredCount + (s.chain 0).countP (fun u => (s.unit u).state == .frozen) < 48 ∧ 0 < (queued.stream 0).inFlight ∧
      (ready.stream 0).state = .undefined ∧ (ready.stream 0).inFlight = 0 := by decide +kernel

theorem witness_EdgesAndTimersTrigger :
    ready.running = true ∧ ready.triggers.ext.getLsbD 3 = false ∧
      (let s := { ready.setTimer 2 ⟨true, 5, true, 2, 0⟩ with time := 100 }
      (s.timer 2).running = true ∧ 100 ≤ (s.time - (s.timer 2).tickStart).toNat ∧ 1 < (s.timer 2).remaining) ∧
      (let s := { ready.setTimer 2 ⟨true, 5, true, 1, 0⟩ with time := 100 }
      (s.timer 2).running = true ∧ 100 ≤ (s.time - (s.timer 2).tickStart).toNat ∧ (s.timer 2).remaining ≤ 1) ∧
      ¬((ready.timer 2).running = true) := by decide +kernel

theorem witness_GoodWordsReachTheirStreams :
    let s := capturing (List.replicate 254 0)
    s.running = true ∧ (s.lane 0).listening = true ∧ (ready.lane 0).listening = false ∧
      ((s.stream 0).config.map (·.lane) = some 0 ∧ (s.stream 0).state = .capturing ∧ (s.stream 0).skipCounter = 0 ∧
        ((s.stream 0).config.map (·.mode)) = some .continuous) ∧
      (∀ g : StreamId, g ≠ 0 → (s.stream g).config = none) ∧ s.fillBuf 0 = some 0 ∧ (s.buf 0).words.length < 255 ∧
      ((capturing (List.replicate 255 0)).buf 0).words.length = 255 ∧
      ((nearLimit 0 (capturing (List.replicate 255 0))).stream 0).endPage = 0xFFFFFFFF ∧ (s.setFill 0 none).fillBuf 0 = none := by decide +kernel

theorem witness_BitsMakeWords :
    let s := (capturing []).setPhase 0 (.inWord (List.replicate 16 true))
    s.running = true ∧ (s.lane 0).listening = true ∧ (s.lane 0).phase = .inWord (List.replicate 16 true) ∧
      ((capturing []).lane 0).phase = .inWord [] ∧ (((capturing []).setPhase 0 (.afterWord 16)).lane 0).phase = .afterWord (15 + 1) ∧
      (((capturing []).setPhase 0 .awaitBoundary).lane 0).phase = .awaitBoundary := by decide +kernel

theorem witness_TheArbiterRanksTheClaims :
    ready.running = true ∧ ready.engine.op = none ∧ ready.ctl.device = .ready ∧ winner ready = none ∧ winner queued = some .program ∧
      winner State.reset = some .mount ∧ programming.engine.op ≠ none ∧ winner (appendDirty 8 queued) = some .erase := by decide +kernel

theorem witness_GrantsStartTheirOperation :
    winner queued = some .program ∧
      (let s := (queued.setQueue []).setReadWaits [⟨1, 0, 0, 0, 1⟩]
      winner s = some .read ∧ locate s 0 0 = some (5, 0)) ∧
      winner (appendDirty 8 ready) = some .erase ∧ (appendDirty 8 ready).map.dirtyList = [8] ∧
      winner (relocating (relocOf 1 0 .readDue)) = some .relocation ∧ winner State.reset = some .mount := by decide +kernel

theorem witness_CheckpointsStartAndGoOn :
    let due := fun c : Ctl => ({ ready with ctl := { c with ckptPending := true } } : State)
    (winner (due ready.ctl) = some .checkpoint ∧ (due ready.ctl).ctl.ckpt = none ∧ (due ready.ctl).ctl.nextSlot = some 0) ∧
      (winner (due { ready.ctl with nextSlot := none }) = some .checkpoint) ∧
      (winner (due { ready.ctl with seqNo := 0xFFFFFFFF }) = some .checkpoint ∧
        (due { ready.ctl with seqNo := 0xFFFFFFFF }).deviceOk = true) ∧
      (let s := due { ready.ctl with seqNo := 0xFFFFFFFF, device := .shuttingDown, shutdown := some ⟨9, false, none⟩ }
      winner s = some .checkpoint ∧ s.ctl.device = .shuttingDown ∧ s.bufs.queue = [] ∧ s.reloc.current = none ∧ s.reloc.waitList = [] ∧
        s.reads.waitList = [] ∧ s.ctl.shutdown = some ⟨9, false, none⟩) ∧
      winner (checkpointing false (.page 5)) = some .checkpoint := by decide +kernel

theorem witness_TablePagesHoldTheSnapshot :
    let sn : Snapshot := ⟨Vector.replicate 1024 (32767, true), 1022, 0xFFFFFFFF⟩
    sn.seqNo < 4294967296 ∧ sn.retiredCount < 65536 ∧ ∀ u : UnitId, (vget sn.entries u).1 < 32768 := by
  refine ⟨by decide, by decide, fun u => ?_⟩
  simp

theorem witness_QueueProgramsEnd :
    programming.running = true ∧
      programming.engine.op = some ⟨.program, 5, some 0, .programQueue, some (.pageBuffer 3), some .compute, 0⟩ ∧
      programming.bufs.queue.find? (fun x => x.buf = 3) = some entry ∧ (programming.buf 3).stream = some 0 ∧
      programming.reloc.current = none ∧ programming.reloc.waitList = [] ∧ programming.map.freeList = [] ∧
      programming.map.retiredCount < 47 ∧ (withFree 9 programming).map.freeList = [9] ∧ programming.bufs.waitList = [] ∧
      (programming.setReloc (some (relocOf 1 0 .readDue))).reloc.current = some (relocOf 1 0 .readDue) := by decide +kernel

theorem witness_CopiesMoveThePages :
    (let r := relocOf 1 0 .readDue
    let s := withOp ⟨.read, 5, some 0, .relocationStep, some .copyBuffer, none, 0⟩ (relocating r)
    s.running = true ∧ s.reloc.current = some r ∧ r.target = some 9 ∧ 400 ≤ (s.time - 0).toNat ∧
      (validPage 0 0 0).tag.stream.toNat = 0 ∧ classify (validPage 0 0 0).tag = .valid ∧ classify erasedPage.tag ≠ .valid) ∧
    (let r := relocOf 1 0 .programDue
    let s := (withOp ⟨.program, 9, some 0, .relocationStep, some .copyBuffer, some .keep, 0⟩ (relocating r)).setCopyBuffer (some erasedPage)
    s.reloc.current = some r ∧ r.phase ≠ .failedPageDue ∧ s.reloc.copyBuffer = some erasedPage) := by decide +kernel

theorem witness_RelocationsCompleteOrTakeAnotherTarget :
    (let r := relocOf 1 1 .failedPageDue
    let s := withOp ⟨.program, 9, some 1, .relocationStep, some (.pageBuffer 3), some .compute, 0⟩ (relocating r)
    s.running = true ∧ s.reloc.current = some r ∧ r.target = some 9 ∧ r.source ≠ 9 ∧ s.map.retiredCount ≠ 47 ∧
      r.phase = .failedPageDue ∧ s.reloc.waitList = [] ∧ r.attempt < 3 ∧ s.map.freeList = [10] ∧
      (s.setRelocWaits [⟨1, 6, 0, 4⟩]).reloc.waitList = [⟨1, 6, 0, 4⟩]) ∧
    (let r := relocOf 1 0 .programDue
    let s := withOp ⟨.program, 9, some 0, .relocationStep, some .copyBuffer, some .keep, 0⟩ (relocating r)
    s.running = true ∧ s.reloc.current = some r ∧ s.map.retiredCount ≠ 47 ∧ s.map.freeList = [10]) := by decide +kernel

theorem witness_AbandonmentFaultsTheStream :
    let r := { relocOf 1 1 .failedPageDue with attempt := 3 }
    let s := withOp ⟨.program, 9, some 1, .relocationStep, some (.pageBuffer 3), some .compute, 0⟩ (relocating r)
    s.running = true ∧ s.reloc.current = some r ∧ r.target = some 9 ∧ r.source ≠ 9 ∧ s.map.retiredCount < 46 ∧
      s.reloc.waitList = [] ∧ 3 ≤ r.attempt ∧ (s.chain 0).count r.source = 1 ∧ r.source ∉ s.map.freeList := by decide +kernel

theorem witness_ReadBacksEnd :
    let s := (withOp ⟨.read, 5, some 0, .readPath, some (.staging 1), none, 0⟩ queued).setStaging 1 (.inUse ⟨1, 0, 0, 0, 112⟩ none)
    s.running = true ∧ s.engine.op = some ⟨.read, 5, some 0, .readPath, some (.staging 1), none, 0⟩ ∧
      s.stagingBuf 1 = .inUse ⟨1, 0, 0, 0, 112⟩ none ∧ 400 ≤ (s.time - 0).toNat ∧
      (validPage 0 0 0).tag.slot.toNat = 0 ∧ classify (validPage 0 0 0).tag = .valid := by decide +kernel

theorem witness_CheckpointOperationsEnd :
    (let s := withOp ⟨.program, tableUnitId 1, some (8 * 0 + 5), .checkpointStep, some .tableBuffer, some .compute, 0⟩
      (checkpointing true (.page 5))
    s.running = true ∧ s.deviceOk = true ∧ s.ctl.ckpt.isSome = true ∧ s.ctl.shutdown = some ⟨9, true, none⟩) ∧
    (let s := withOp ⟨.erase, tableUnitId 1, none, .checkpointStep, none, none, 0⟩ (checkpointing false .erase)
    s.running = true ∧ s.deviceOk = true ∧ s.ctl.ckpt.isSome = true) := by decide +kernel

theorem witness_ErasesEnd :
    let s := withOp ⟨.erase, 8, none, .eraseProcess, none, none, 0⟩ ready
    s.running = true ∧ s.engine.op = some ⟨.erase, 8, none, .eraseProcess, none, none, 0⟩ ∧ s.bufs.starvedList = [] ∧
      s.map.retiredCount ≠ 47 ∧ s.ctl.device = .ready ∧
      ({ s with map := { s.map with retiredCount := 47 } } : State).map.retiredCount = 47 := by decide +kernel

theorem witness_TimeoutsAndLateReports :
    ready.running = true ∧ ready.engine.op = none ∧
      (let s := { programming with time := 2000 }
      s.engine.op = some ⟨.program, 5, some 0, .programQueue, some (.pageBuffer 3), some .compute, 0⟩ ∧ 2000 ≤ (s.time - 0).toNat) ∧
      (let s := withOp ⟨.erase, 8, none, .eraseProcess, none, none, 0⟩ ready
      s.running = true ∧ s.engine.op.isSome = true ∧ 15000 ≤ (s.time - 0).toNat) ∧
      (let s := withOp ⟨.read, 5, some 0, .readPath, some (.staging 1), none, 0⟩ ready
      s.running = true ∧ s.engine.op.isSome = true ∧ 400 ≤ (s.time - 0).toNat) := by
  decide +kernel

theorem witness_HandOversTakeTheirCondition :
    (let s := ready.setBufWaits [4]
    s.running = true ∧ s.bufs.pool = 0 :: s.bufs.pool.tail ∧ s.bufs.waitList = [4]) ∧
    (let s := (((queued.setStarvedList [0]).setHeld 0 (some 3)).setFreeList ((List.range 25).map (fun n => Fin.ofNat 1024 (n + 20))))
    s.bufs.starvedList = [0] ∧ s.heldBuf 0 = some 3 ∧ (s.buf 3).sealed.isSome = true ∧ s.map.freeList.tail.length = 24) ∧
    (let s := (withFree 9 queued).setRelocWaits [⟨0, 5, 0, 3⟩]
    s.reloc.current = none ∧ s.reloc.waitList = [⟨0, 5, 0, 3⟩] ∧ s.map.freeList = [9]) ∧
    (let s := { ready with ctl := { ready.ctl with shutdown := some ⟨9, true, some true⟩ } }
    s.ctl.shutdown = some ⟨9, true, some true⟩) ∧
    (let s := ready.setFlushWaiters [⟨8, 0, true⟩]
    s.running = true ∧ s.bufs.flushWaiters = [⟨8, 0, true⟩] ∧ (s.stream 0).state ≠ .faulted ∧ (s.stream 0).starved = false ∧
      (s.stream 0).inFlight = 0) ∧ ready.ctl.shutdown = none ∧ ready.bufs.waitList = [] := by decide +kernel

/-- A scan's read of an erased slot is an accepted report, and so is its timeout. -/
theorem witness_scanRead (pos : ScanPos) :
    (∃ op sc, (scanning pos).engine.op = some op ∧ op.kind = .read ∧ op.requester = .mountStep ∧ (scanning pos).ctl.scan = some sc ∧
      sc.pos = pos ∧ scanRead (.readDone none) op (scanning pos) (asReported erasedPage)) ∧
    scanRead .readTimeout ⟨.read, 0, some 0, .mountStep, some .scanBuffer, none, 0⟩ { scanning pos with time := 400 }
      ⟨.invalid, false, erasedPage⟩ :=
  ⟨⟨_, _, rfl, rfl, rfl, rfl, rfl, .inl ⟨none, rfl, congrArg asReported (show erasedPage = _ from rfl)⟩⟩,
    .inr ⟨rfl, (show 400 ≤ ((400 : Time) - 0).toNat by decide), rfl⟩⟩

theorem witness_MountScanGoesOn :
    (scanning (.header 15)).running = true ∧ (asReported (validPage 0 61 61)).cls = .valid ∧
      countsAs (asReported (validPage 0 0 0)) (asReported (validPage 0 61 61)) 61 = true ∧
      (ownerIn (asReported (validPage 0 0 0))).isSome = true ∧ (asReported erasedPage).cls = .blank ∧
      foundBy (.slot63 2 readTimeoutResult) (asReported erasedPage) = some (2, .dirty 2) ∧
      foundBy (.blank 2 62) (asReported erasedPage) = some (2, .free 2) ∧
      (foundBy (.count 2 (asReported (validPage 0 0 0)) (asReported erasedPage) 1 0) (asReported erasedPage)).isSome = true := by decide +kernel

/-- A scan that has found no copy of the unit table counts from the reset map. -/
theorem witness_withCopy : (withCopy none (Vector.replicate 2 none) (scanning (.header 15))).map.units = UnitMap.reset.units := rfl

theorem witness_firstToScan : firstToScan UnitMap.reset 2 2 ∧ firstToScan UnitMap.reset 3 3 ∧ nothingToScan UnitMap.reset 1024 := by
  refine ⟨⟨by decide, by decide, by decide +kernel, fun u h1 h2 h3 => ?_⟩, ⟨by decide, by decide, by decide +kernel, fun u h1 h2 h3 => ?_⟩,
    fun u h1 h2 => ?_⟩
  · have : (2 : UnitId).val = 2 := rfl
    omega
  · have : (3 : UnitId).val = 3 := rfl
    omega
  · omega

/-- Unit 7 and its copy 8, found by a scan whose last read is slot 62 of unit 1023. -/
def lastRead : State :=
  let s := scanning (.blank 1023 62)
  { s with ctl := { s.ctl with scan := some { Scan.start with
    pos := .blank 1023 62
    results := [.owned ⟨7, 0, 0, 0xFFFF, 3, .badEnd, false, 1⟩, .owned ⟨8, 0, 0, 7, 4, .blankEnd, true, 1⟩] } } }

theorem witness_MountSettlesTheMap :
    lastRead.running = true ∧ lastRead.scanOk = true ∧ lastRead.ctl.device = .mounting ∧ nothingToScan lastRead.map (1023 + 1) ∧
      foundBy (.blank 1023 62) (asReported erasedPage) = some (1023, .free 1023) ∧
      scanRead (.readDone none) ⟨.read, 0, some 0, .mountStep, some .scanBuffer, none, 0⟩ lastRead (asReported erasedPage) ∧
      noCircle [⟨7, 0, 0, 0xFFFF, 3, .badEnd, false, 1⟩, ⟨8, 0, 0, 7, 4, .blankEnd, true, 1⟩] := by
  refine ⟨rfl, by decide +kernel, rfl, fun u h1 h2 => absurd u.isLt (by omega), by decide +kernel,
    .inl ⟨none, rfl, congrArg asReported (show erasedPage = _ from rfl)⟩,
    fun u => if u = 8 then 1 else 0, ?_⟩
  decide +kernel

/-- R178, R180, R181: the copy takes the place of its source, which is RETIRED. -/
theorem test_mount_settles :
    let t := after (.readDone none) lastRead
    (t.chain 0, (t.unit 7).state, (t.unit 8).state, (t.stream 0).state, (t.stream 0).endPage, t.ctl.device) =
      ([8], .retired, .opened, .dormant, 4, .ready) := by decide +kernel

/-- `holding` after a WORN entry at the end of a happening. -/
def wornHolding : State := settle ready { holding with ctl := { holding.ctl with device := .worn } }

/-- R113, a stream whose run WORN entry ended with nothing to seal: OK. -/
theorem test_flush_after_worn_entry :
    lastBody (after (.flush 1 [2]) wornHolding) = [0x94, 1, 0x00, 2, 2, 0, 0, 0, 0, 0] := by decide +kernel

/-- R132, fourth bullet: once the stream is FAULTED, with no page in flight, a FLUSH completes with OK, WORN entry or not. -/
theorem test_flush_of_faulted_after_worn_entry :
    lastBody (after (.flush 1 [1]) (wornHolding.setStream 1 { wornHolding.stream 1 with state := .faulted, inFlight := 0 })) =
      [0x94, 1, 0x00, 1, 5, 0, 7, 0, 0, 0] := by decide +kernel

theorem witness_FlushAfterWornEntry :
    accepted .flush 1 [1] wornHolding = true ∧ (1 : StreamId) ∈ wornHolding.bufs.heldAtWorn ∧ wornHolding.fillBuf 1 = none ∧
      (wornHolding.stream 1).endCause = some .worn ∧ (wornHolding.stream 1).state = .bound ∧
      (wornHolding.stream 1).starved = false := by decide +kernel

theorem witness_WornEntryEndsTheRuns :
    ready.ctl.device = .ready ∧ ({ ready with ctl := { ready.ctl with device := .worn } } : State).ctl.device = .worn := ⟨rfl, rfl⟩

theorem witness_ArrayFormKept : State.reset.array.wf = true ∧ step State.reset = .next State.reset := ⟨rfl, rfl⟩

theorem witness_InvariantsKept :
    State.reset.windowOk = true ∧ State.reset.backlogOk = true ∧ State.reset.timersOk = true ∧ State.reset.bindingOk = true ∧
      State.reset.deviceOk = true ∧ State.reset.scanOk = true := by decide +kernel

end Sys2Proof.Tests
end

section
/-!
PROOFS. Resets, as the machine comes out of them (R185, R186): the values right after one, what the operation it cuts leaves in the array (R19),
and the commands of the supply, of RST# and of device time.
-/
namespace Sys2Proof.Machine

/-! ## After a reset -/

/-- Settles O3: each value is the one that `State.reset` is written with. -/
theorem resetLeavesTheStatedValues : Obligations.ResetLeavesTheStatedValues := by
  refine ⟨rfl, rfl, rfl, rfl, rfl, rfl, rfl, rfl, rfl, rfl, rfl, rfl, rfl, rfl, rfl, rfl, rfl, rfl, fun st => ?_, fun l => ?_, fun t => ?_,
    rfl, fun b => ?_, rfl, rfl, rfl, rfl, rfl, rfl, rfl, rfl, rfl, fun i => ?_, rfl, rfl, rfl, rfl, rfl, rfl, rfl, rfl, rfl, rfl, rfl, rfl,
    rfl, rfl⟩
  · exact ⟨vget_replicate _ st, vget_replicate _ st, vget_replicate _ st, vget_replicate _ st⟩
  · exact vget_replicate _ l
  · exact vget_replicate _ t
  · have hb : State.reset.buf b = PageBuf.empty := vget_replicate _ b
    rw [hb]
    exact ⟨rfl, rfl⟩
  · exact vget_replicate _ i

/-! ## The operation that a reset cuts -/

theorem cutOperation_idle {s : State} (h : s.engine.op = none) : cutOperation s = s := by
  unfold cutOperation
  rw [h]

theorem cutOperation_read {s : State} {op : Operation} (h : s.engine.op = some op) (hk : op.kind = .read) : cutOperation s = s := by
  unfold cutOperation
  rw [h]
  dsimp only
  rw [hk]

theorem cutOperation_program {s : State} {op : Operation} (h : s.engine.op = some op) (hk : op.kind = .program) :
    cutOperation s = spoilSlot op.unit (op.slot.getD 0) s := by
  unfold cutOperation
  rw [h]
  dsimp only
  rw [hk]

theorem cutOperation_erase {s : State} {op : Operation} (h : s.engine.op = some op) (hk : op.kind = .erase) :
    cutOperation s = undefineUnit op.unit s := by
  unfold cutOperation
  rw [h]
  dsimp only
  rw [hk]

/-- A cut operation moves the array and the count of free values drawn, and nothing else (R19). -/
theorem cutOperation_eq (s : State) :
    cutOperation s = { s with array := (cutOperation s).array, freeUsed := (cutOperation s).freeUsed } := by
  cases h : s.engine.op with
  | none => rw [cutOperation_idle h]
  | some op =>
    cases hk : op.kind with
    | read => rw [cutOperation_read h hk]
    | program => rw [cutOperation_program h hk]; rfl
    | erase => rw [cutOperation_erase h hk]; rfl

/-- The slot of a failed or cut PROGRAM is spoiled, and every other slot reads as before (R7, R19). -/
theorem slotSpoiled_spoilSlot (u : UnitId) (k : Nat) (s : State) : slotSpoiled u k s (spoilSlot u k s) :=
  ⟨classify_spoilSlot u k s, fun _ hx => Memory.read_write_ne _ _ (Ne.symm hx)⟩

/-- Settles O6, by the kind of the operation cut. -/
theorem cutOperationTouchesItsSlotsOnly : Obligations.CutOperationTouchesItsSlotsOnly := by
  refine ⟨fun s h => cutOperation_idle h, fun s op h => ⟨fun hk => ?_, fun hk k hslot => ?_, fun hk x hx => ?_⟩⟩
  · rw [cutOperation_read h hk]
  · rw [cutOperation_program h hk, hslot]
    exact slotSpoiled_spoilSlot op.unit k s
  · rw [cutOperation_erase h hk]
    exact read_undefineUnit_ne op.unit s hx

/-! ## Resets of the pin and of the supply -/

/-- A reset leaves what `afterResetOf` writes out, with the supply, the RST# pin and the pins' levels as they were (R185). -/
theorem resetDevice_eq (straps : Straps) (s : State) :
    resetDevice straps s = afterResetOf straps s.triggers.ext s.powered s.rstLow s := by
  have hq : (cutOperation s).pending = s.pending := (congrArg State.pending (cutOperation_eq s) :)
  have hp : (cutOperation s).powered = s.powered := (congrArg State.powered (cutOperation_eq s) :)
  have hr : (cutOperation s).rstLow = s.rstLow := (congrArg State.rstLow (cutOperation_eq s) :)
  have ht : (cutOperation s).triggers = s.triggers := (congrArg State.triggers (cutOperation_eq s) :)
  simp only [resetDevice, hq, hp, hr, ht]
  rfl

theorem exec_powerOn (straps : Straps) (ext : BitVec 4) (s : State) :
    exec (.powerOn straps ext) s =
      .next (afterResetOf straps (if s.rstLow then s.triggers.ext else ext) true s.rstLow s) := by
  change Host.Outcome.next (if (resetDevice straps s).rstLow then { resetDevice straps s with powered := true }
    else sampleExt ext { resetDevice straps s with powered := true }) = _
  rw [resetDevice_eq]
  cases h : s.rstLow <;> rfl

theorem exec_rstAssert (straps : Straps) {s : State} (h : s.rstLow = false) :
    exec (.rstAssert straps) s =
      .next (if s.powered then afterResetOf straps s.triggers.ext true true s else { s with rstLow := true }) := by
  change execRstAssert straps s = _
  unfold execRstAssert
  rw [h, resetDevice_eq]
  cases hp : s.powered <;> rfl

theorem exec_rstRelease (ext : BitVec 4) {s : State} (hp : s.powered = true) (h : s.rstLow = true) :
    exec (.rstRelease ext) s = .next { s with rstLow := false, triggers := { s.triggers with ext := ext } } := by
  change execRstRelease ext s = _
  simp only [execRstRelease, h, hp, if_true, sampleExt]

theorem exec_powerLoss {s : State} (hp : s.powered = true) :
    exec .powerLoss s = .next (afterResetOf ⟨false, false⟩ s.triggers.ext false s.rstLow s) := by
  change execPowerLoss s = _
  unfold execPowerLoss
  rw [if_pos hp, resetDevice_eq]
  rfl

theorem exec_deviceTimeTick (s : State) :
    exec .deviceTimeTick s = .next (if s.powered ∧ s.rstLow = false then { s with time := s.time + 1 } else s) := by
  change execDeviceTimeTick s = _
  unfold execDeviceTimeTick State.running
  cases s.powered <;> cases s.rstLow <;> rfl

/-- Settles O5: each command of the supply, of RST# and of device time as its own lemma says. -/
theorem pinAndSupplyResets : Obligations.PinAndSupplyResets :=
  ⟨exec_powerOn, fun straps _ h => exec_rstAssert straps h, fun ext _ hp h => exec_rstRelease ext hp h, fun _ hp => exec_powerLoss hp,
    exec_deviceTimeTick⟩

end Sys2Proof.Machine
end

section
/-!
PROOFS. What the end of an operation keeps. `SameFrame` is the part of the state that only the supply, RST#, device time and the array are about;
`Kept` adds the engine and the bits that only rise. Each operation of the blocks has one lemma, in the order of the model's files.
-/
-- The theorems of this file are elaborated one after another: in parallel their waiting threads exceed the memory limit of the check.
set_option Elab.async false

namespace Sys2Proof.Machine

/-! ## The frame of a happening: the queue, the supply, RST#, device time and the array -/

/-- The queue of commands, the supply, the RST# pin, device time and the array are the same. -/
def SameFrame (s t : State) : Prop :=
  t.pending = s.pending ∧ t.powered = s.powered ∧ t.rstLow = s.rstLow ∧ t.time = s.time ∧ t.array = s.array

namespace SameFrame

variable {s t r : State}

theorem refl (s : State) : SameFrame s s := ⟨rfl, rfl, rfl, rfl, rfl⟩

theorem trans (h1 : SameFrame s t) (h2 : SameFrame t r) : SameFrame s r := by
  obtain ⟨p1, w1, l1, t1, a1⟩ := h1
  obtain ⟨p2, w2, l2, t2, a2⟩ := h2
  exact ⟨p2.trans p1, w2.trans w1, l2.trans l1, t2.trans t1, a2.trans a1⟩

theorem ite {c : Prop} [Decidable c] {a b : State} (ha : SameFrame s a) (hb : SameFrame s b) :
    SameFrame s (if c then a else b) := by
  split
  · exact ha
  · exact hb

theorem foldl {α : Type} {f : State → α → State} (hf : ∀ (r : State) (x : α), SameFrame r (f r x)) (h : SameFrame s t) (l : List α) :
    SameFrame s (l.foldl f t) := by
  induction l generalizing t with
  | nil => exact h
  | cons x l ih => exact ih (h.trans (hf t x))

end SameFrame

/-- No operation of the blocks moves the frame. -/
theorem Moves.sameFrame {s t : State} (h : Moves s t) : SameFrame s t := by
  induction h with
  | refl s => exact .refl s
  | trans _ _ h1 h2 => exact h1.trans h2
  | quiet q => exact ⟨q.pending, q.powered, q.rstLow, q.time, q.array⟩
  | raised k arg s => exact .refl s
  | finished k tag st c o s => exact .refl s
  | retired u s => exact .refl s
  | worn s _ => exact .refl s
  | rebound st r s =>
    refine SameFrame.foldl (fun r l => ?_) (.refl (s.setStream st r)) allLanes
    unfold relistenLane
    exact .ite (.refl r) (.refl r)

theorem SameFrame.of_settled {s t : State} (h : Settled s t) : SameFrame s t :=
  ⟨(congrArg State.pending h.core :), (congrArg State.powered h.core :), (congrArg State.rstLow h.core :),
    (congrArg State.time h.core :), (congrArg State.array h.core :)⟩

/-- What every happening ends with leaves the frame alone. -/
theorem sameFrame_settle (a s : State) : SameFrame s (settle a s) :=
  (((Moves.refl s).settleWorn.drainPending.settleStandAside).sameFrame).trans (.of_settled (settled_transmitArrivals _))

theorem SameFrame.happening {f : State → State} {s : State} (hf : SameFrame s (f s)) : SameFrame s (happening f s) :=
  .ite (hf.trans (sameFrame_settle s _)) (.refl s)

/-! ## What the end of an operation keeps -/

/-- The frame and the array engine are the same, no pending bit of a notice is lost, and checkpoint pending, once set, stays so: what
every requester's handling of the end of an operation keeps. -/
def Kept (s t : State) : Prop :=
  SameFrame s t ∧ t.engine = s.engine ∧
    (∀ i, s.notices.pendingSet.getLsbD i = true → t.notices.pendingSet.getLsbD i = true) ∧
    (s.ctl.ckptPending = true → t.ctl.ckptPending = true)

namespace Kept

variable {s t r : State}

theorem refl (s : State) : Kept s s := ⟨.refl s, rfl, fun _ h => h, fun h => h⟩

theorem trans (h1 : Kept s t) (h2 : Kept t r) : Kept s r := by
  obtain ⟨f1, e1, n1, c1⟩ := h1
  obtain ⟨f2, e2, n2, c2⟩ := h2
  exact ⟨f1.trans f2, e2.trans e1, fun i h => n2 i (n1 i h), fun h => c2 (c1 h)⟩

theorem sameFrame (h : Kept s t) : SameFrame s t := h.1
theorem array (h : Kept s t) : t.array = s.array := by
  obtain ⟨⟨-, -, -, -, ha⟩, -⟩ := h
  exact ha
theorem engine (h : Kept s t) : t.engine = s.engine := by
  obtain ⟨-, he, -⟩ := h
  exact he
theorem pendingSet (h : Kept s t) {i : Nat} (hi : s.notices.pendingSet.getLsbD i = true) : t.notices.pendingSet.getLsbD i = true := by
  obtain ⟨-, -, hn, -⟩ := h
  exact hn i hi
theorem ckptPending (h : Kept s t) (hc : s.ctl.ckptPending = true) : t.ctl.ckptPending = true := by
  obtain ⟨-, -, -, hp⟩ := h
  exact hp hc

theorem ite {c : Prop} [Decidable c] {a b : State} (ha : Kept s a) (hb : Kept s b) : Kept s (if c then a else b) := by
  split
  · exact ha
  · exact hb

theorem foldl {α : Type} {f : State → α → State} (hf : ∀ (r : State) (x : α), Kept r (f r x)) (h : Kept s t) (l : List α) :
    Kept s (l.foldl f t) := by
  induction l generalizing t with
  | nil => exact h
  | cons x l ih => exact ih (h.trans (hf t x))

/-- A change of fields that `Kept` does not name. -/
theorem next (h : Kept s t) (hp : r.pending = t.pending := by rfl) (hw : r.powered = t.powered := by rfl)
    (hl : r.rstLow = t.rstLow := by rfl) (ht : r.time = t.time := by rfl) (ha : r.array = t.array := by rfl)
    (he : r.engine = t.engine := by rfl) (hn : r.notices.pendingSet = t.notices.pendingSet := by rfl)
    (hc : r.ctl.ckptPending = t.ctl.ckptPending := by rfl) : Kept s r :=
  h.trans ⟨⟨hp, hw, hl, ht, ha⟩, he, fun i hi => by rw [hn]; exact hi, fun h => by rw [hc]; exact h⟩

theorem raise (h : Kept s t) (k : NoticeKind) (arg : Nat) : Kept s (raise k arg t) :=
  h.trans ⟨.refl t, rfl, fun i hi => by rw [raise_pendingSet, BitVec.getLsbD_or, hi, Bool.true_or], fun hc => hc⟩

theorem setUnit (h : Kept s t) (u : UnitId) (x : UnitRec) : Kept s (t.setUnit u x) := h.next
theorem setChain (h : Kept s t) (st : StreamId) (x : List UnitId) : Kept s (t.setChain st x) := h.next
theorem setStream (h : Kept s t) (st : StreamId) (x : StreamRec) : Kept s (t.setStream st x) := h.next
theorem setBuf (h : Kept s t) (b : BufId) (x : PageBuf) : Kept s (t.setBuf b x) := h.next
theorem setFill (h : Kept s t) (st : StreamId) (x : Option BufId) : Kept s (t.setFill st x) := h.next
theorem setHeld (h : Kept s t) (st : StreamId) (x : Option BufId) : Kept s (t.setHeld st x) := h.next
theorem setPool (h : Kept s t) (x : List BufId) : Kept s (t.setPool x) := h.next
theorem setQueue (h : Kept s t) (x : List QueueEntry) : Kept s (t.setQueue x) := h.next
theorem setBufWaits (h : Kept s t) (x : List StreamId) : Kept s (t.setBufWaits x) := h.next
theorem setStarvedList (h : Kept s t) (x : List StreamId) : Kept s (t.setStarvedList x) := h.next
theorem setReloc (h : Kept s t) (x : Option Reloc) : Kept s (t.setReloc x) := h.next
theorem setCopyBuffer (h : Kept s t) (x : Option Page) : Kept s (t.setCopyBuffer x) := h.next
theorem setStandAside (h : Kept s t) (x : Bool) : Kept s (t.setStandAside x) := h.next

/-! ### The unit map -/

theorem takeFree (h : Kept s t) (u : UnitId) (rest : List UnitId) (us : UnitState) (owner : StreamId) (first : Nat) :
    Kept s (takeFree u rest us owner first t) := by
  unfold Machine.takeFree
  exact .ite (raise h.next ..) h

theorem allocateForCapture {st : StreamId} {first : Nat} {u : UnitId} (h : Kept s t)
    (ha : allocateForCapture st first t = some (u, r)) : Kept s r := by
  unfold Machine.allocateForCapture at ha
  split at ha
  · cases ha
  · split at ha
    · cases ha
      exact (h.takeFree ..).setChain ..
    · cases ha

theorem assignSlot (h : Kept s t) (u : UnitId) : Kept s (assignSlot u t) := h.setUnit ..

theorem setCtl (h : Kept s t) (c : Ctl) (hc : t.ctl.ckptPending = true → c.ckptPending = true) : Kept s (t.setCtl c) :=
  h.trans ⟨.refl t, rfl, fun _ hi => hi, hc⟩

theorem retireRecord (h : Kept s t) (u : UnitId) : Kept s (retireRecord u t) :=
  raise (h.setCtl { t.ctl with ckptPending := true } (fun _ => rfl)) _ _

theorem retire (h : Kept s t) (u : UnitId) : Kept s (retire u t) := by
  unfold Machine.retire
  exact .ite (raise ((h.retireRecord u).next) ..) (h.retireRecord u)

/-! ### The buffer manager -/

theorem takeFill (h : Kept s t) (st : StreamId) (b : BufId) : Kept s (takeFill st b t) := (h.setBuf ..).setFill ..

theorem grantBuffer (h : Kept s t) (b : BufId) (st : StreamId) (rest : List StreamId) : Kept s (grantBuffer b st rest t) :=
  ((h.setBufWaits rest).takeFill st b).setStream ..

theorem freeBuffer (h : Kept s t) (b : BufId) : Kept s (freeBuffer b t) := by
  unfold Machine.freeBuffer
  split
  · exact h.grantBuffer ..
  · exact (h.setBuf ..).setPool _

theorem askBuffer (h : Kept s t) (st : StreamId) : Kept s (askBuffer st t) := by
  unfold Machine.askBuffer
  split
  · exact (h.setPool _).takeFill ..
  · exact raise ((h.setBufWaits _).setStream ..) ..

theorem enqueuePage (h : Kept s t) (st : StreamId) (b : BufId) (u : UnitId) (k x : Nat) : Kept s (enqueuePage st b u k x t) :=
  (h.setBuf ..).setQueue _

theorem completeFlushes (h : Kept s t) (st : StreamId) (status : Status) : Kept s (completeFlushes st status t) :=
  foldl (fun r _ => (refl r).next) h.next _

theorem checkFlushes (h : Kept s t) (st : StreamId) : Kept s (checkFlushes st t) := .ite (h.completeFlushes ..) h

theorem starve (h : Kept s t) (st : StreamId) (b : BufId) : Kept s (starve st b t) :=
  completeFlushes (raise ((((h.setBuf ..).setHeld ..).setStream ..).setStarvedList _) ..) ..

theorem placeSealed (h : Kept s t) (st : StreamId) (b : BufId) (x : Nat) : Kept s (placeSealed st b x t) := by
  unfold Machine.placeSealed
  split
  · exact (h.assignSlot _).enqueuePage ..
  · split
    · next ha => exact ((h.allocateForCapture ha).assignSlot _).enqueuePage ..
    · exact h.starve ..

theorem sealPage (h : Kept s t) (st : StreamId) (b : BufId) : Kept s (sealPage st b t) :=
  placeSealed (((h.setStream ..).setFill ..).setBuf ..) ..

theorem relieveOne (h : Kept s t) (st : StreamId) : Kept s (relieveOne st t) := by
  unfold Machine.relieveOne
  extract_lets s1
  have h1 : Kept s s1 := h.next
  clear_value s1
  split
  · exact h1
  · extract_lets x
    split
    · exact h1
    · next s2 ha =>
      have h2 : Kept s s2 := h1.allocateForCapture ha
      extract_lets s3 src s4
      have h4 : Kept s s4 := (((h2.assignSlot _).setHeld ..).enqueuePage ..).setStream ..
      exact .ite (h4.askBuffer st) h4

theorem relieveList (l : List StreamId) : ∀ {t : State}, Kept s t → Kept s (relieveList l t) := by
  induction l with
  | nil => exact fun h => h
  | cons st l ih => exact fun h => .ite (ih (h.relieveOne st)) h

theorem relieve (h : Kept s t) : Kept s (relieve t) := relieveList _ h

theorem discardHeld (h : Kept s t) (st : StreamId) : Kept s (discardHeld st t) := by
  unfold Machine.discardHeld
  extract_lets s1 src s2
  have h2 : Kept s s2 := h.next
  clear_value s2
  split
  · exact h2
  · extract_lets x s3
    have h3 : Kept s s3 := h2.next
    exact ((h3.raise ..).freeBuffer _).checkFlushes st

/-! ### Runs -/

theorem beginRun (h : Kept s t) (st : StreamId) : Kept s (beginRun st t) := by
  unfold Machine.beginRun
  have h1 := raise (t := t.setStream st (t.stream st).startRun) h.next .runStart st.val
  exact .ite h1 (h1.askBuffer st)

theorem startRunDepth (barred : List StreamId) (n : Nat) : ∀ {s t : State} (st : StreamId), Kept s t →
    Kept s (startRunDepth barred n st t) := by
  induction n with
  | zero => exact fun _ h => h
  | succ n ih => exact fun st h => foldl (fun r f => .ite (ih f (.refl r)) (.refl r)) (h.beginRun st) _

theorem closeFill (h : Kept s t) (st : StreamId) : Kept s (closeFill st t) := by
  unfold Machine.closeFill sealFill
  split
  · exact h.next
  · exact .ite (freeBuffer h.next _) (.ite (freeBuffer h.next _) (h.sealPage ..))

theorem leaveRun (h : Kept s t) (st : StreamId) (c : EndCause) : Kept s (leaveRun st c t) :=
  raise h.next ..

theorem endRun (h : Kept s t) (barred : List StreamId) (st : StreamId) (c : EndCause) : Kept s (endRun barred st c t) := by
  unfold Machine.endRun
  have h1 := (closeFill (t := recordCause st c t) h.next st).leaveRun st c
  exact .ite (startRunDepth barred 8 st h1) h1

theorem disarm (h : Kept s t) (st : StreamId) : Kept s (disarm t st) := .ite h.next h

theorem endAllRuns (h : Kept s t) (c : EndCause) : Kept s (endAllRuns c t) :=
  foldl (fun r st => (refl r).disarm st) (foldl (fun r _ => .ite ((refl r).endRun ..) (refl r)) h _) _

theorem discardAllHeld (h : Kept s t) : Kept s (discardAllHeld t) := foldl (fun r st => (refl r).discardHeld st) h _

theorem noteHeld (h : Kept s t) : Kept s (noteHeld t) := h.next

theorem enterWorn (h : Kept s t) : Kept s (enterWorn t) := (h.endAllRuns .worn).noteHeld.discardAllHeld

/-! ### Relocation -/

theorem queuePass (h : Kept s t) (e : QueueEntry) : Kept s (queuePass e t) :=
  checkFlushes (freeBuffer h.next _) _

theorem losePage (h : Kept s t) (st : StreamId) (b : BufId) : Kept s (losePage st b t) :=
  freeBuffer h.next b

theorem discardStreamPages (h : Kept s t) (st : StreamId) (failed : BufId) : Kept s (discardStreamPages st failed t) := by
  unfold Machine.discardStreamPages
  extract_lets entries s1 s2 s3
  have h1 : Kept s s1 := losePage h.next st failed
  have h2 : Kept s s2 := foldl (fun r (e : QueueEntry) => (refl r).losePage st e.buf) h1 entries
  have h3 : Kept s s3 := by
    unfold s3
    split
    · exact losePage (t := s2.setHeld st none) h2 st _
    · exact h2
  clear_value s3
  split
  · exact freeBuffer (t := s3.setFill st none) h3 _
  · exact h3

theorem truncateChain (h : Kept s t) (st : StreamId) (u : UnitId) (p : Nat) : Kept s (truncateChain st u p t) := by
  unfold Machine.truncateChain
  extract_lets later s1 s2 src s3
  have h2 : Kept s s2 := foldl (fun r _ => (refl r).next) h.next later
  have h3 : Kept s s3 := .ite (retire h2.next u) h2.next
  exact h3.relieve

theorem faultStream (h : Kept s t) (st : StreamId) : Kept s (faultStream st t) :=
  .ite (leaveRun (t := recordCause st .fault t) h.next st .fault) h.next

theorem abandonBody (h : Kept s t) (st : StreamId) (u : UnitId) (p : Nat) (b : BufId) : Kept s (abandonBody st u p b t) := by
  unfold Machine.abandonBody
  extract_lets first s1 src1 s2 s3 src3 s4 s5 s6 src6 s7
  have h2 : Kept s s2 := h.next
  have h3 : Kept s s3 := (h2.faultStream st).discardStreamPages st b
  clear_value s3
  have h5 : Kept s s5 := raise (raise h3.next ..) ..
  have h6 : Kept s s6 := h5.completeFlushes st .fault
  clear_value s6
  have h7 : Kept s s7 := h6.next
  exact h7.truncateChain st u p

theorem takeTarget (h : Kept s t) (r : Reloc) (v : UnitId) (rest : List UnitId) : Kept s (takeTarget r v rest t) := (h.takeFree ..).next

theorem startWaiting (l : List RelocWait) : ∀ {t : State}, Kept s t → Kept s (startWaiting l t) := by
  induction l with
  | nil => exact fun h => h
  | cons w ws ih =>
    intro t h
    unfold Machine.startWaiting
    dsimp only
    split
    · exact takeTarget (t := t.setRelocWaits ws) h.next ..
    · exact ih (abandonBody h.next ..)

theorem startNext (h : Kept s t) : Kept s (startNext t) := startWaiting _ (t := t.setReloc none) h.next

theorem abandon (h : Kept s t) (r : Reloc) : Kept s (abandon r t) :=
  startNext (abandonBody h.next ..)

theorem queueFail (h : Kept s t) (e : QueueEntry) : Kept s (queueFail e t) := by
  unfold Machine.queueFail beginRelocation
  extract_lets s1 src1 s2 src2 s3 src3 s4
  have h4 : Kept s s4 := (((h.setQueue _).setBuf ..).setUnit ..).setStream ..
  clear_value s4
  split
  · exact startWaiting _ h4
  · exact h4

theorem targetFail (h : Kept s t) (r : Reloc) (v : UnitId) : Kept s (targetFail r v t) := by
  unfold Machine.targetFail
  have h1 : Kept s ((Machine.retire v t).setCopyBuffer none) := (h.retire v).next
  refine .ite ?_ (h1.abandon r)
  dsimp only
  split
  · exact h1.takeTarget ..
  · exact h1.abandon _

theorem copyReadEnd (h : Kept s t) (r : Reloc) (res : ReadResult) : Kept s (copyReadEnd r res t) := by
  unfold Machine.copyReadEnd
  extract_lets td s1 s2
  have h2 : Kept s s2 := .ite (raise h.next ..) h
  exact h2.next

theorem renameEntries (h : Kept s t) (r : Reloc) (v : UnitId) : Kept s (renameEntries r v t) :=
  foldl (fun q _ => .ite ((refl q).next) (refl q)) h.next _

theorem advanceTarget (h : Kept s t) (v : UnitId) : Kept s (advanceTarget v t) := h.setUnit ..

theorem copyPass (h : Kept s t) (r : Reloc) (v : UnitId) : Kept s (copyPass r v t) :=
  (((h.advanceTarget v).setCopyBuffer none).setStandAside true).setReloc _

theorem completeRelocation (h : Kept s t) (r : Reloc) (v : UnitId) : Kept s (completeRelocation r v t) := by
  unfold Machine.completeRelocation
  extract_lets s1 src1 s2 s3 src3 s4
  have h1 : Kept s s1 := renameEntries (retire (((h.advanceTarget v).setUnit ..).setChain ..) r.source) r v
  have h3 : Kept s s3 := (h1.setStream ..).freeBuffer r.buf
  have h4 : Kept s s4 := h3.setStream ..
  exact ((h4.checkFlushes r.stream).raise ..).startNext

theorem relocProgramEnd (h : Kept s t) (pass : Bool) : Kept s (relocProgramEnd pass t) := by
  unfold Machine.relocProgramEnd
  split
  · exact h.next
  · split
    · exact h.next
    · exact .ite (.ite (h.completeRelocation ..) (h.copyPass ..)) (h.targetFail ..)

theorem relocReadEnd (h : Kept s t) (res : ReadResult) : Kept s (relocReadEnd res t) := by
  unfold Machine.relocReadEnd
  split
  · exact h.next
  · exact h.copyReadEnd ..

/-! ### Checkpoints -/

theorem finishCovered (h : Kept s t) (status : Status) (tu : Fin 2) (b : Byte) : Kept s (finishCovered status tu b t) :=
  foldl (fun r _ => (refl r).next) h.next _

theorem finishShutdown (h : Kept s t) : Kept s (finishShutdown t) := by
  unfold Machine.finishShutdown
  split
  · exact h.next
  · split
    · exact h.next
    · extract_lets s1 s2
      exact foldl (fun r _ => (refl r).next) h.next _

theorem recordFinal (h : Kept s t) (final ok : Bool) : Kept s (recordFinal final ok t) := .ite h.next h

theorem checkpointSuccess (h : Kept s t) (c : Ckpt) (k : Nat) : Kept s (checkpointSuccess c k t) := by
  unfold Machine.checkpointSuccess
  extract_lets src s1 s2 s3 src3
  have h3 : Kept s s3 := finishCovered (raise h.next ..) ..
  exact finishShutdown (recordFinal h3.next ..)

theorem checkpointFailure (h : Kept s t) (tu : Fin 2) (b : Byte) (final : Bool) : Kept s (checkpointFailure tu b final t) := by
  unfold Machine.checkpointFailure
  extract_lets src s1
  have h1 : Kept s s1 := raise h.next ..
  exact ((h1.finishCovered ..).recordFinal ..).finishShutdown

theorem checkpointEraseEnd (h : Kept s t) (pass : Bool) : Kept s (checkpointEraseEnd pass t) := by
  unfold Machine.checkpointEraseEnd
  split
  · exact h.next
  · exact .ite h.next (h.checkpointFailure ..)

theorem checkpointProgramEnd (h : Kept s t) (pass : Bool) : Kept s (checkpointProgramEnd pass t) := by
  unfold Machine.checkpointProgramEnd
  split
  · exact h.next
  · split
    · exact .ite (.ite h.next (h.checkpointSuccess ..)) (checkpointFailure h.next ..)
    · exact h.next

/-! ### The mount -/

theorem applyEntries (h : Kept s t) (es : List Word) : Kept s (applyEntries es t) := by
  unfold Machine.applyEntries
  generalize List.finRange 1024 = l
  exact foldl (fun r _ => (refl r).next) h l

theorem collectRetired (h : Kept s t) : Kept s (collectRetired t) := by
  unfold Machine.collectRetired
  extract_lets l
  clear_value l
  exact h.next

theorem chooseCopy (h : Kept s t) (sc : Scan) : Kept s (chooseCopy sc t) := by
  unfold Machine.chooseCopy
  split
  · next c _ =>
    extract_lets u src
    have hu : Kept s u := (h.applyEntries _).collectRetired
    clear_value u
    exact hu.setCtl _ fun hc => hc
  · exact h.next

theorem buildStream (h : Kept s t) (won : List UnitId) (chain : List Owned) (gaps : List Gap) (st : StreamId) :
    Kept s (buildStream won chain gaps st t) := by
  unfold Machine.buildStream
  split
  · exact foldl (fun r _ => (refl r).next) h.next chain
  · exact h.next

theorem insertFree (h : Kept s t) (u : UnitId) : Kept s (insertFree u t) := h.next

theorem buildDirty (h : Kept s t) (l : List UnitId) : Kept s (buildDirty l t) := by
  unfold Machine.buildDirty
  generalize dataUnits.filter _ = us
  exact foldl (fun r _ => (refl r).next) h us

theorem leaveMounting (h : Kept s t) : Kept s (leaveMounting t) := raise h.next ..

theorem settleMount (h : Kept s t) (results : List ScanResult) : Kept s (settleMount results t) := by
  unfold Machine.settleMount
  extract_lets g s1 kd chains s2 s3 s4
  have h1 : Kept s s1 := foldl (fun r u => (refl r).retire u) h _
  have h2 : Kept s s2 := foldl (fun r c => (refl r).buildStream ..) h1 _
  have h3 : Kept s s3 := foldl (fun r u => (refl r).insertFree u) h2 _
  exact (h3.buildDirty _).leaveMounting

theorem scanFrom (h : Kept s t) (sc : Scan) (n : Nat) : Kept s (scanFrom sc n t) := by
  unfold Machine.scanFrom
  split
  · exact h.next
  · exact h.settleMount _

theorem finishTableSlot (h : Kept s t) (sc : Scan) (k : Fin 16) (hdr cmt : ReadResult) (es : List ReadResult) :
    Kept s (finishTableSlot sc k hdr cmt es t) := by
  unfold Machine.finishTableSlot
  dsimp only
  split
  · exact h.next
  · exact (h.chooseCopy _).scanFrom _ _

theorem finishUnit (h : Kept s t) (sc : Scan) (u : UnitId) (res : ScanResult) : Kept s (finishUnit sc u res t) := h.scanFrom ..

theorem classifyUnit (h : Kept s t) (sc : Scan) (u : UnitId) (r0 r63 : ReadResult) : Kept s (classifyUnit sc u r0 r63 t) := by
  unfold Machine.classifyUnit
  split
  · exact h.next
  · exact .ite h.next (h.finishUnit ..)

theorem finishCount (h : Kept s t) (sc : Scan) (u : UnitId) (r0 r63 : ReadResult) (n : Nat) (e : ScanEnd) (run : Word) :
    Kept s (finishCount sc u r0 r63 n e run t) := by
  unfold Machine.finishCount
  split
  · exact h.finishUnit ..
  · exact h.finishUnit ..

theorem scanReadEnd (h : Kept s t) (res : ReadResult) : Kept s (scanReadEnd res t) := by
  unfold Machine.scanReadEnd
  split
  · exact h.next
  · dsimp only
    split
    · exact h.next
    · exact .ite h.next (h.finishTableSlot ..)
    · exact .ite h.next (h.finishTableSlot ..)
    · exact h.next
    · exact h.classifyUnit ..
    · exact .ite (.ite h.next (.ite (h.finishCount ..) (h.finishCount ..))) (h.finishCount ..)
    · exact .ite (.ite h.next (h.finishUnit ..)) (h.finishUnit ..)

/-! ### The ends of operations -/

theorem handleProgram (h : Kept s t) (pass : Bool) (op : Operation) : Kept s (handleProgram pass op t) := by
  unfold Machine.handleProgram queueProgramEnd
  split
  · split
    · split
      · exact .ite (h.queuePass _) (h.queueFail _)
      · exact h.next
    · exact h.next
  · exact h.relocProgramEnd pass
  · exact h.checkpointProgramEnd pass
  all_goals exact h.next

theorem readPathEnd (h : Kept s t) (done : Bool) (res : ReadResult) (op : Operation) : Kept s (readPathEnd done res op t) := by
  unfold Machine.readPathEnd readEndDone
  split
  · split
    · exact .ite (.ite h.next h.next) h.next
    · exact h.next
  · exact h.next

theorem handleRead (h : Kept s t) (done : Bool) (res : ReadResult) (op : Operation) : Kept s (handleRead done res op t) := by
  unfold Machine.handleRead
  split
  · exact h.readPathEnd done res op
  · exact h.relocReadEnd res
  · exact h.scanReadEnd res
  all_goals exact h.next

theorem eraseUnitPass (h : Kept s t) (u : UnitId) : Kept s (eraseUnitPass u t) := by
  unfold Machine.eraseUnitPass
  extract_lets src s1 s2 n src2 s3 src3 s4
  have h4 : Kept s s4 := .ite (setCtl (t := s3) h.next _ (fun _ => rfl)) h.next
  exact h4.relieve

theorem handleErase (h : Kept s t) (pass : Bool) (op : Operation) : Kept s (handleErase pass op t) := by
  unfold Machine.handleErase
  split
  · exact .ite (h.eraseUnitPass _) (h.retire _)
  · exact h.checkpointEraseEnd pass
  all_goals exact h.next

theorem chooseFrame (h : Kept s t) : Kept s (chooseFrame t) := by
  unfold Machine.chooseFrame
  refine .ite h.next ?_
  split
  · exact h.next
  · exact .ite h.next h

theorem transmitArrivals (h : Kept s t) : Kept s (transmitArrivals t) := by
  unfold Machine.transmitArrivals
  exact .ite (.ite (.ite h.next (chooseFrame h.next)) h.chooseFrame) h

theorem drainPending (h : Kept s t) : Kept s (drainPending t) := .ite (h.setCtl _ fun _ => rfl) h

theorem settleStandAside (h : Kept s t) : Kept s (settleStandAside t) := .ite h.next h

theorem settle (h : Kept s t) (a : State) : Kept s (settle a t) :=
  have h1 : Kept s (settleWorn a t) := .ite h.enterWorn h
  h1.drainPending.settleStandAside.transmitArrivals

end Kept

end Sys2Proof.Machine
end

section
/-!
PROOFS. The canonical form of the array, and the completion of every command: each command leaves the frame alone, or is one of the ten that
`movesFrame` lists.
-/
-- The theorems of this file are elaborated one after another: in parallel their waiting threads exceed the memory limit of the check.
set_option Elab.async false

namespace Sys2Proof.Machine

/-! ## Requests and frames -/

theorem sameFrame_earlyRefusal (kind tag : Byte) (st : Status) (s : State) : SameFrame s (earlyRefusal kind tag st s) :=
  .ite (Moves.refl s).countDiscard.sameFrame (.refl s)

theorem sameFrame_shutdownRequest (tag : Byte) (s : State) : SameFrame s (shutdownRequest tag s) := by
  unfold shutdownRequest
  extract_lets src s1 s2
  have h2 : SameFrame s s2 := ((Moves.refl s1).endAllRuns .shutdown).discardAllHeld.sameFrame
  clear_value s2
  exact h2

theorem sameFrame_timerRequest (tag : Byte) (p : List Byte) (s : State) : SameFrame s (timerRequest tag p s) := by
  unfold timerRequest
  split
  · exact .refl s
  · next t _ =>
    have hstop : SameFrame s (stopIfRunning t s) := .ite (.refl s) (.refl s)
    exact .ite (.ite (.refl s) (.refl s)) (.ite hstop (.refl s))

theorem sameFrame_ownRequest (k : ReqKind) (tag : Byte) (p : List Byte) (s : State) : SameFrame s (ownRequest k tag p s) := by
  have h := Moves.refl s
  cases k with
  | hello => exact (h.helloRequest tag).sameFrame
  | status => exact (h.statusRequest tag).sameFrame
  | reset => exact (h.resetRequest tag).sameFrame
  | shutdown => exact sameFrame_shutdownRequest tag s
  | checkpoint => exact (h.checkpointRequest tag).sameFrame
  | setNoticeMask => exact (h.maskRequest tag p).sameFrame
  | ackNotice => exact (h.ackRequest tag p).sameFrame
  | defineStream => exact (h.defineRequest tag p).sameFrame
  | arm => exact (h.armRequest tag p).sameFrame
  | fire => exact (h.fireRequest tag p).sameFrame
  | stop => exact (h.stopRequest tag p).sameFrame
  | flush => exact (h.flushRequest tag p).sameFrame
  | unbind => exact (h.unbindRequest tag p).sameFrame
  | streamInfo => exact (h.infoRequest tag p).sameFrame
  | timer => exact sameFrame_timerRequest tag p s
  | read => exact (h.readRequest tag p).sameFrame
  | release => exact (h.releaseRequest tag p).sameFrame
  | delete => exact (h.deleteRequest tag p).sameFrame
  | unitInfo => exact (h.unitInfoRequest tag p).sameFrame
  | mapSummary => exact (h.summaryRequest tag).sameFrame

theorem sameFrame_takeRequest (k : ReqKind) (tag : Byte) (p : List Byte) (s : State) :
    SameFrame s (takeRequest k tag p (ownRequest k tag p) s) := by
  unfold takeRequest
  split
  · exact sameFrame_earlyRefusal ..
  · extract_lets s1
    have h1 : SameFrame s s1 := .refl s
    split
    · exact h1
    · exact h1.trans (sameFrame_ownRequest k tag p s1)

theorem sameFrame_takeFrame (kind tag : Byte) (p : List Byte) (s : State) : SameFrame s (takeFrame kind tag p s) := by
  unfold takeFrame
  split
  · exact sameFrame_earlyRefusal ..
  · exact sameFrame_takeRequest ..

theorem sameFrame_receiveByte (b : Byte) (s : State) : SameFrame s (receiveByte b s) := by
  have hd : SameFrame s (discardFrame s) := (Moves.refl s).discardFrame.sameFrame
  unfold receiveByte
  split
  · exact .ite (.refl s) (.refl s)
  · exact .ite (.refl s) hd
  · exact .refl s
  · exact .refl s
  · refine .ite ?_ hd
    unfold frameArrives
    split
    · exact SameFrame.trans (.refl s) (sameFrame_takeFrame _ _ _ (frameTaken s))
    · exact hd

/-! ## The happenings that are no request -/

theorem sameFrame_chooseFrame (s : State) : SameFrame s (chooseFrame s) := .of_settled (settled_chooseFrame s)

theorem sameFrame_noticeDeparts (s : State) : SameFrame s (noticeDeparts s) := by
  unfold noticeDeparts
  split
  · exact SameFrame.trans (.refl s) (sameFrame_chooseFrame (s.setLink { s.link with tx := .idle }))
  · exact .refl s
  · exact .refl s

theorem sameFrame_clockBit (l : LaneId) (dat : Bool) (s : State) : SameFrame s (clockBit l dat s) := by
  have hc : ∀ bits, SameFrame s (completeWord l bits s) := fun bits =>
    let h : Moves s (s.setPhase l (.afterWord 0)) := (Moves.refl s).setLane l _
    .ite (h.goodWord ..).sameFrame (h.badWord l).sameFrame
  unfold clockBit
  split
  · exact .refl s
  · exact .ite (.refl s) (hc _)
  · exact .refl s

theorem sameFrame_wordBoundary (l : LaneId) (s : State) : SameFrame s (wordBoundary l s) :=
  let h : Moves s (s.setPhase l (.inWord [])) := (Moves.refl s).setLane l _
  .ite h.sameFrame (h.badWord l).sameFrame

theorem sameFrame_edge (pin : PinId) (high : Bool) (s : State) : SameFrame s (edge pin high s) :=
  .ite (.refl s) (SameFrame.trans (.refl s) ((Moves.refl (setPin pin high s)).trigger _).sameFrame)

theorem sameFrame_expire (t : TimerId) (s : State) : SameFrame s (expire t s) :=
  .ite (SameFrame.trans (.refl s) ((Moves.refl (s.setTimer t (s.timer t).expire)).trigger _).sameFrame) (.refl s)

theorem sameFrame_readEnd (done : Bool) (res : ReadResult) (op : Operation) (s : State) : SameFrame s (readEnd done res op s) :=
  ((Kept.refl s).handleRead done res op).sameFrame

theorem sameFrame_endOperation {kind : OpKind} {f : Operation → State → State} {s : State} (hf : ∀ op, SameFrame s (f op s)) :
    SameFrame s (endOperation kind f s) := by
  unfold endOperation
  split
  · exact hf _
  · exact .refl s

theorem sameFrame_timeoutOf {kind : OpKind} {limit : Nat} {f : Operation → State → State} {s : State}
    (hf : ∀ op, SameFrame s (f op s)) : SameFrame s (timeoutOf kind limit f s) :=
  sameFrame_endOperation fun op => .ite (hf op) (.refl s)

theorem sameFrame_grant {c : Claim} {f : State → State} {s : State} (hf : SameFrame s (f s)) : SameFrame s (grant c f s) :=
  .happening (.ite hf (.refl s))

theorem sameFrame_beginCheckpoint (s : State) : SameFrame s (beginCheckpoint s) := by
  unfold beginCheckpoint
  extract_lets final s1 c
  have h1 : SameFrame s s1 := ((Moves.refl s).markCheckpointStart final).sameFrame
  clear_value s1
  exact .ite (h1.trans (Kept.checkpointFailure (s := s1) (Kept.refl s1).next ..).sameFrame)
    (h1.trans (((Moves.refl s1).setCtl _).startCheckpointOp c).sameFrame)

/-! ## The commands that move the frame -/

/-- The commands that may move the supply, RST#, device time or the array: those of the supply and of RST#, the tick, the departure of a reply
(which is a reset when it is the reply of a RESET), and the ends of a PROGRAM and of an ERASE. -/
def movesFrame : Instr → Bool
  | .powerOn _ _ | .powerLoss | .rstAssert _ | .rstRelease _ | .replySent _ _ | .deviceTimeTick | .programDone _ | .programTimeout
  | .eraseDone _ | .eraseTimeout => true
  | _ => false

/-- A command that is one happening whose effect leaves the frame alone. -/
theorem exec_frame_of_happening {c : Instr} {f : State → State} {s : State} (e : exec c s = .next (happening f s))
    (hf : SameFrame s (f s)) : ∃ t, exec c s = .next t ∧ SameFrame s t := ⟨_, e, hf.happening⟩

theorem exec_frame_of_request {c : Instr} (k : ReqKind) {tag : Byte} {p : List Byte} {s : State}
    (e : exec c s = .next (requestHappening k tag p (ownRequest k tag p) s)) : ∃ t, exec c s = .next t ∧ SameFrame s t :=
  exec_frame_of_happening e (SameFrame.trans (.refl s) (sameFrame_takeRequest k tag p (frameTaken s)))

/-- Every other command ends in a next state with the same frame. -/
theorem exec_frame (c : Instr) (s : State) (hc : movesFrame c = false) : ∃ t, exec c s = .next t ∧ SameFrame s t := by
  have h := Moves.refl s
  cases c with
  | powerOn | powerLoss | rstAssert | rstRelease | replySent | deviceTimeTick | programDone | programTimeout | eraseDone
  | eraseTimeout => cases hc
  | txHoldEnd =>
    exact exec_frame_of_happening rfl (.ite (SameFrame.trans (.refl s) (sameFrame_chooseFrame (s.setLink _))) (.refl s))
  | interByteTimeout => exact exec_frame_of_happening rfl (.ite h.discardFrame.sameFrame (.refl s))
  | frameDiscard => exact exec_frame_of_happening rfl h.discardFrame.sameFrame
  | badKindFrame kind tag p =>
    exact exec_frame_of_happening rfl (SameFrame.trans (.refl s) (sameFrame_takeFrame kind tag p (frameTaken s)))
  | hello tag p => exact exec_frame_of_request .hello rfl
  | status tag p => exact exec_frame_of_request .status rfl
  | reset tag p => exact exec_frame_of_request .reset rfl
  | shutdown tag p => exact exec_frame_of_request .shutdown rfl
  | checkpoint tag p => exact exec_frame_of_request .checkpoint rfl
  | setNoticeMask tag p => exact exec_frame_of_request .setNoticeMask rfl
  | ackNotice tag p => exact exec_frame_of_request .ackNotice rfl
  | defineStream tag p => exact exec_frame_of_request .defineStream rfl
  | arm tag p => exact exec_frame_of_request .arm rfl
  | fire tag p => exact exec_frame_of_request .fire rfl
  | stop tag p => exact exec_frame_of_request .stop rfl
  | flush tag p => exact exec_frame_of_request .flush rfl
  | unbind tag p => exact exec_frame_of_request .unbind rfl
  | streamInfo tag p => exact exec_frame_of_request .streamInfo rfl
  | timerStart tag p => exact exec_frame_of_request .timer rfl
  | timerStop tag p => exact exec_frame_of_request .timer rfl
  | read tag p => exact exec_frame_of_request .read rfl
  | release tag p => exact exec_frame_of_request .release rfl
  | delete tag p => exact exec_frame_of_request .delete rfl
  | unitInfo tag p => exact exec_frame_of_request .unitInfo rfl
  | mapSummary tag p => exact exec_frame_of_request .mapSummary rfl
  | noticeFrameSent => exact exec_frame_of_happening rfl (sameFrame_noticeDeparts s)
  | laneGoodWord l w =>
    exact exec_frame_of_happening rfl (.ite ((h.setLane l { s.lane l with phase := .afterWord 0 }).goodWord l w).sameFrame (.refl s))
  | laneBadWord l fr =>
    exact exec_frame_of_happening rfl (.ite ((h.setLane l { s.lane l with phase := phaseAfterBad fr }).badWord l).sameFrame (.refl s))
  | extEdge pin high => exact exec_frame_of_happening rfl (sameFrame_edge pin high s)
  | timerExpiry t => exact exec_frame_of_happening rfl (sameFrame_expire t s)
  | readDone page => exact exec_frame_of_happening rfl (sameFrame_endOperation fun op => sameFrame_readEnd ..)
  | readTimeout => exact exec_frame_of_happening rfl (sameFrame_timeoutOf fun op => sameFrame_readEnd ..)
  | lateDoneDiscard => exact ⟨s, rfl, .refl s⟩
  | programGrant => exact ⟨_, rfl, sameFrame_grant h.grantProgram.sameFrame⟩
  | readGrant => exact ⟨_, rfl, sameFrame_grant h.grantRead.sameFrame⟩
  | eraseGrant => exact ⟨_, rfl, sameFrame_grant h.grantErase.sameFrame⟩
  | checkpointStart =>
    exact ⟨_, rfl, sameFrame_grant (.ite (SameFrame.trans (.refl s) (sameFrame_beginCheckpoint (s.setStandAside false))) (.refl s))⟩
  | checkpointOpGrant => exact ⟨_, rfl, sameFrame_grant h.grantCheckpointOp.sameFrame⟩
  | relocationStepGrant => exact ⟨_, rfl, sameFrame_grant h.grantRelocation.sameFrame⟩
  | mountReadGrant => exact ⟨_, rfl, sameFrame_grant h.grantMountRead.sameFrame⟩
  | bufferGrant => exact exec_frame_of_happening rfl h.grantFromPool.sameFrame
  | starvedRelief => exact exec_frame_of_happening rfl h.relieve.sameFrame
  | relocationStart => exact exec_frame_of_happening rfl h.startRelocation.sameFrame
  | flushComplete =>
    exact exec_frame_of_happening rfl (SameFrame.foldl (fun r st => ((Moves.refl r).completeDue st).sameFrame) (.refl s) allStreams)
  | shutdownComplete => exact exec_frame_of_happening rfl (Kept.refl s).finishShutdown.sameFrame
  | rxdByte b err =>
    exact exec_frame_of_happening rfl
      (.ite (SameFrame.ite (.refl s) h.discardFrame.sameFrame : SameFrame s (receiveBadByte s)) (sameFrame_receiveByte b s))
  | lnclkRisingEdge l dat => exact exec_frame_of_happening rfl (.ite (sameFrame_clockBit l dat s) (.refl s))
  | laneWordBoundary l => exact exec_frame_of_happening rfl (.ite (sameFrame_wordBoundary l s) (.refl s))
  | timerTick t => exact exec_frame_of_happening rfl (SameFrame.ite (.refl s) (.refl s) : SameFrame s (tick t s))

/-! ## The array at the end of a PROGRAM and of an ERASE -/

/-- The state in which the requester of a PROGRAM finds its outcome: the slot programmed, or spoiled on a FAIL (R7). -/
def slotEnded (pass : Bool) (op : Operation) (s : State) : State :=
  if pass then s.writeSlot op.unit (op.slot.getD 0) (programmedPage (op.crcMode.getD .compute) (pageToProgram op s))
  else spoilSlot op.unit (op.slot.getD 0) s

theorem programEnd_eq (pass : Bool) (op : Operation) (s : State) :
    programEnd pass op s = (handleProgram pass op (slotEnded pass op s)).setOp none := rfl

/-- The state in which the requester of an ERASE finds its outcome: the unit erased, or undefined on a FAIL (R9). -/
def unitEnded (pass : Bool) (op : Operation) (s : State) : State :=
  if pass then { s with array := s.array.eraseUnit op.unit } else undefineUnit op.unit s

theorem eraseEnd_eq (pass : Bool) (op : Operation) (s : State) :
    eraseEnd pass op s = (handleErase pass op (unitEnded pass op s)).setOp none := rfl

/-- The frame but for the array. -/
def SameButArray (s t : State) : Prop :=
  t.pending = s.pending ∧ t.powered = s.powered ∧ t.rstLow = s.rstLow ∧ t.time = s.time ∧ (s.array.wf = true → t.array.wf = true)

theorem SameFrame.sameButArray {s t : State} (h : SameFrame s t) : SameButArray s t := by
  obtain ⟨hp, hw, hl, ht, ha⟩ := h
  exact ⟨hp, hw, hl, ht, fun hwf => by rw [ha]; exact hwf⟩

theorem SameButArray.trans {s t r : State} (h1 : SameButArray s t) (h2 : SameFrame t r) : SameButArray s r := by
  obtain ⟨p1, w1, l1, t1, a1⟩ := h1
  obtain ⟨p2, w2, l2, t2, a2⟩ := h2
  exact ⟨p2.trans p1, w2.trans w1, l2.trans l1, t2.trans t1, fun hwf => by rw [a2]; exact a1 hwf⟩

theorem sameButArray_slotEnded (pass : Bool) (op : Operation) (s : State) : SameButArray s (slotEnded pass op s) := by
  cases pass with
  | true => exact ⟨rfl, rfl, rfl, rfl, wf_writeSlot _ _ _ s⟩
  | false => exact ⟨rfl, rfl, rfl, rfl, wf_spoilSlot _ _ s⟩

theorem sameButArray_unitEnded (pass : Bool) (op : Operation) (s : State) : SameButArray s (unitEnded pass op s) := by
  cases pass with
  | true => exact ⟨rfl, rfl, rfl, rfl, Memory.wf_eraseUnit op.unit⟩
  | false => exact ⟨rfl, rfl, rfl, rfl, wf_undefineUnit op.unit s⟩

theorem sameButArray_programEnd (pass : Bool) (op : Operation) (s : State) : SameButArray s (programEnd pass op s) :=
  (sameButArray_slotEnded pass op s).trans ((Kept.refl _).handleProgram pass op).sameFrame

theorem sameButArray_eraseEnd (pass : Bool) (op : Operation) (s : State) : SameButArray s (eraseEnd pass op s) :=
  (sameButArray_unitEnded pass op s).trans ((Kept.refl _).handleErase pass op).sameFrame

theorem sameButArray_endOperation {kind : OpKind} {f : Operation → State → State} {s : State}
    (hf : ∀ op, SameButArray s (f op s)) : SameButArray s (happening (endOperation kind f) s) := by
  unfold happening endOperation
  split
  · split
    · exact (hf _).trans (sameFrame_settle s _)
    · exact (sameFrame_settle s s).sameButArray
  · exact (SameFrame.refl s).sameButArray

theorem sameButArray_timeoutOf {kind : OpKind} {limit : Nat} {f : Operation → State → State} {s : State}
    (hf : ∀ op, SameButArray s (f op s)) : SameButArray s (happening (timeoutOf kind limit f) s) :=
  sameButArray_endOperation fun op => by
    split
    · exact hf op
    · exact (SameFrame.refl s).sameButArray

/-! ## The array at a reset -/

theorem wf_cutOperation {s : State} (h : s.array.wf = true) : (cutOperation s).array.wf = true := by
  cases ho : s.engine.op with
  | none => rw [cutOperation_idle ho]; exact h
  | some op =>
    cases hk : op.kind with
    | read => rw [cutOperation_read ho hk]; exact h
    | program => rw [cutOperation_program ho hk]; exact wf_spoilSlot _ _ s h
    | erase => rw [cutOperation_erase ho hk]; exact wf_undefineUnit _ s h

/-- What a reset leaves of the frame: the queue, the supply and the RST# pin, and the canonical form of the array. -/
def ResetKept (s t : State) : Prop :=
  t.pending = s.pending ∧ t.powered = s.powered ∧ t.rstLow = s.rstLow ∧ (s.array.wf = true → t.array.wf = true)

theorem SameFrame.resetKept {s t : State} (h : SameFrame s t) : ResetKept s t := by
  obtain ⟨hp, hw, hl, -, ha⟩ := h
  exact ⟨hp, hw, hl, fun hwf => by rw [ha]; exact hwf⟩

theorem ResetKept.trans {s t r : State} (h1 : ResetKept s t) (h2 : SameFrame t r) : ResetKept s r := by
  obtain ⟨p1, w1, l1, a1⟩ := h1
  obtain ⟨p2, w2, l2, -, a2⟩ := h2
  exact ⟨p2.trans p1, w2.trans w1, l2.trans l1, fun hwf => by rw [a2]; exact a1 hwf⟩

theorem resetKept_replyDeparts (straps : Straps) (ext : BitVec 4) (s : State) : ResetKept s (replyDeparts straps ext s) := by
  unfold replyDeparts
  split
  · next r rest _ _ =>
    split
    · rw [resetDevice_eq]
      exact ⟨rfl, rfl, rfl, wf_cutOperation⟩
    · have hr : SameFrame s (releaseReply r rest s) := by
        unfold releaseReply
        cases r.source <;> cases r.staging <;> exact .refl s
      exact (hr.trans (sameFrame_chooseFrame _)).resetKept
  · exact (SameFrame.refl s).resetKept

/-- The departure of a reply leaves the supply and the RST# pin alone, whether it is a reset or not (R198, R202). -/
theorem resetKept_replySent (straps : Straps) (ext : BitVec 4) (s : State) : ResetKept s (happening (replyDeparts straps ext) s) := by
  unfold happening
  split
  · exact (resetKept_replyDeparts straps ext s).trans (sameFrame_settle s _)
  · exact (SameFrame.refl s).resetKept

/-- RST_ASSERT moves the RST# pin, and resets a device that has its supply and is not held in reset (R185). -/
theorem rstAssert_facts (straps : Straps) (s : State) : ∃ t, exec (.rstAssert straps) s = .next t ∧ t.pending = s.pending ∧
    t.powered = s.powered ∧ (s.array.wf = true → t.array.wf = true) := by
  cases h : s.rstLow with
  | true =>
    refine ⟨s, ?_, rfl, rfl, id⟩
    change execRstAssert straps s = _
    unfold execRstAssert
    rw [if_pos h]
  | false =>
    refine ⟨_, exec_rstAssert straps h, ?_⟩
    split
    · next hp => exact ⟨rfl, hp.symm, wf_cutOperation⟩
    · exact ⟨rfl, rfl, id⟩

/-- RST_RELEASE moves the RST# pin and the pins' levels (R185). -/
theorem rstRelease_facts (ext : BitVec 4) (s : State) : ∃ t, exec (.rstRelease ext) s = .next t ∧ t.pending = s.pending ∧
    t.powered = s.powered ∧ t.time = s.time ∧ t.array = s.array := by
  change ∃ t, execRstRelease ext s = .next t ∧ _
  unfold execRstRelease
  split
  · refine ⟨_, rfl, ?_⟩
    split <;> exact ⟨rfl, rfl, rfl, rfl⟩
  · exact ⟨s, rfl, rfl, rfl, rfl, rfl⟩

theorem powerLoss_facts (s : State) :
    ∃ t, exec .powerLoss s = .next t ∧ t.pending = s.pending ∧ (s.array.wf = true → t.array.wf = true) := by
  cases hp : s.powered with
  | true => exact ⟨_, exec_powerLoss hp, rfl, wf_cutOperation⟩
  | false =>
    refine ⟨s, ?_, rfl, id⟩
    change execPowerLoss s = _
    unfold execPowerLoss
    rw [hp]
    rfl

theorem deviceTimeTick_facts (s : State) : ∃ t, exec .deviceTimeTick s = .next t ∧ t.pending = s.pending ∧ t.powered = s.powered ∧
    t.rstLow = s.rstLow ∧ t.array = s.array := by
  refine ⟨_, exec_deviceTimeTick s, ?_⟩
  split <;> exact ⟨rfl, rfl, rfl, rfl⟩

/-! ## The canonical form, and the completion of every command -/

/-- Every command ends in a next state, whose array has the canonical form when it had it before. -/
theorem exec_keeps_array_form (c : Instr) (s : State) : ∃ t, exec c s = .next t ∧ (s.array.wf = true → t.array.wf = true) := by
  cases hc : movesFrame c with
  | false =>
    obtain ⟨t, ht, hf⟩ := exec_frame c s hc
    obtain ⟨-, -, -, -, hwf⟩ := hf.sameButArray
    exact ⟨t, ht, hwf⟩
  | true =>
    have hEnd : ∀ {t}, SameButArray s t → s.array.wf = true → t.array.wf = true := fun ⟨_, _, _, _, h⟩ => h
    cases c with
    | powerOn straps ext => exact ⟨_, exec_powerOn straps ext s, wf_cutOperation⟩
    | powerLoss => obtain ⟨t, ht, -, h⟩ := powerLoss_facts s; exact ⟨t, ht, h⟩
    | rstAssert straps => obtain ⟨t, ht, -, -, h⟩ := rstAssert_facts straps s; exact ⟨t, ht, h⟩
    | rstRelease ext =>
      obtain ⟨t, ht, -, -, -, h⟩ := rstRelease_facts ext s
      exact ⟨t, ht, fun hwf => by rw [h]; exact hwf⟩
    | deviceTimeTick =>
      obtain ⟨t, ht, -, -, -, h⟩ := deviceTimeTick_facts s
      exact ⟨t, ht, fun hwf => by rw [h]; exact hwf⟩
    | replySent straps ext =>
      obtain ⟨-, -, -, h⟩ := resetKept_replySent straps ext s
      exact ⟨_, rfl, h⟩
    | programDone pass => exact ⟨_, rfl, hEnd (sameButArray_endOperation fun op => sameButArray_programEnd pass op s)⟩
    | programTimeout => exact ⟨_, rfl, hEnd (sameButArray_timeoutOf fun op => sameButArray_programEnd false op s)⟩
    | eraseDone pass => exact ⟨_, rfl, hEnd (sameButArray_endOperation fun op => sameButArray_eraseEnd pass op s)⟩
    | eraseTimeout => exact ⟨_, rfl, hEnd (sameButArray_timeoutOf fun op => sameButArray_eraseEnd false op s)⟩
    | _ => cases hc

/-- Settles O59: a step is the front command, and every command keeps the canonical form. -/
theorem arrayFormKept : Obligations.ArrayFormKept := by
  intro s t hwf hstep
  unfold step at hstep
  split at hstep
  · cases hstep
    exact hwf
  · next c rest _ =>
    obtain ⟨t', ht', h⟩ := exec_keeps_array_form c { s with pending := rest }
    rw [hstep] at ht'
    cases ht'
    exact h hwf

/-- Settles O2: the commands that may move the frame one by one, and every other command by `exec_frame`. -/
theorem everyCommandCompletes : Obligations.EveryCommandCompletes := by
  intro c s
  cases hc : movesFrame c with
  | false =>
    obtain ⟨t, ht, hp, hw, hl, htm, ha⟩ := exec_frame c s hc
    exact ⟨t, ht, hp, fun _ _ => ⟨hw, fun _ => ⟨fun _ => hl, fun _ => ⟨fun _ => htm, fun _ _ _ _ => ha⟩⟩⟩⟩
  | true =>
    have hEnd : ∀ {t}, SameButArray s t → t.pending = s.pending ∧ t.powered = s.powered ∧ t.rstLow = s.rstLow ∧ t.time = s.time :=
      fun ⟨hp, hw, hl, ht, _⟩ => ⟨hp, hw, hl, ht⟩
    cases c with
    | powerOn straps ext => exact ⟨_, exec_powerOn straps ext s, rfl, fun h => absurd rfl (h straps ext)⟩
    | powerLoss =>
      obtain ⟨t, ht, hp, -⟩ := powerLoss_facts s
      exact ⟨t, ht, hp, fun _ h => absurd rfl h⟩
    | rstAssert straps =>
      obtain ⟨t, ht, hp, hw, -⟩ := rstAssert_facts straps s
      exact ⟨t, ht, hp, fun _ _ => ⟨hw, fun h => absurd rfl (h straps)⟩⟩
    | rstRelease ext =>
      obtain ⟨t, ht, hp, hw, htm, ha⟩ := rstRelease_facts ext s
      exact ⟨t, ht, hp, fun _ _ => ⟨hw, fun _ => ⟨fun h => absurd rfl (h ext), fun _ => ⟨fun _ => htm, fun _ _ _ _ => ha⟩⟩⟩⟩
    | deviceTimeTick =>
      obtain ⟨t, ht, hp, hw, hl, ha⟩ := deviceTimeTick_facts s
      exact ⟨t, ht, hp, fun _ _ => ⟨hw, fun _ => ⟨fun _ => hl, fun _ => ⟨fun h => absurd rfl h, fun _ _ _ _ => ha⟩⟩⟩⟩
    | replySent straps ext =>
      obtain ⟨hp, hw, hl, -⟩ := resetKept_replySent straps ext s
      exact ⟨_, rfl, hp, fun _ _ => ⟨hw, fun _ => ⟨fun _ => hl, fun h => absurd rfl (h straps ext)⟩⟩⟩
    | programDone pass =>
      obtain ⟨hp, hw, hl, htm⟩ := hEnd (sameButArray_endOperation fun op => sameButArray_programEnd pass op s)
      exact ⟨_, rfl, hp, fun _ _ => ⟨hw, fun _ => ⟨fun _ => hl, fun _ => ⟨fun _ => htm, fun h => absurd rfl (h pass)⟩⟩⟩⟩
    | programTimeout =>
      obtain ⟨hp, hw, hl, htm⟩ := hEnd (sameButArray_timeoutOf fun op => sameButArray_programEnd false op s)
      exact ⟨_, rfl, hp, fun _ _ => ⟨hw, fun _ => ⟨fun _ => hl, fun _ => ⟨fun _ => htm, fun _ h => absurd rfl h⟩⟩⟩⟩
    | eraseDone pass =>
      obtain ⟨hp, hw, hl, htm⟩ := hEnd (sameButArray_endOperation fun op => sameButArray_eraseEnd pass op s)
      exact ⟨_, rfl, hp, fun _ _ => ⟨hw, fun _ => ⟨fun _ => hl, fun _ => ⟨fun _ => htm, fun _ _ h => absurd rfl (h pass)⟩⟩⟩⟩
    | eraseTimeout =>
      obtain ⟨hp, hw, hl, htm⟩ := hEnd (sameButArray_timeoutOf fun op => sameButArray_eraseEnd false op s)
      exact ⟨_, rfl, hp, fun _ _ => ⟨hw, fun _ => ⟨fun _ => hl, fun _ => ⟨fun _ => htm, fun _ _ _ h => absurd rfl h⟩⟩⟩⟩
    | _ => cases hc

end Sys2Proof.Machine
end

section
/-!
PROOFS. The array arbiter: what each claim says of the state (R13), the ranks (R14), and what each grant puts on the port (R10, R15, R17,
R120, R144, R160, R174).
-/
-- The theorems of this file are elaborated one after another: in parallel their waiting threads exceed the memory limit of the check.
set_option Elab.async false

namespace Sys2Proof.Machine

/-! ## The claims -/

theorem claims_relocation_iff (s : State) : claims s .relocation = true ↔
    (∃ r v, s.reloc.current = some r ∧ r.target = some v) ∧ s.reloc.standAside = false := by
  unfold claims relocationDue
  cases s.reloc.current with
  | none => simp
  | some r => simp [Option.isSome_iff_exists]

theorem claims_checkpoint_iff (s : State) : claims s .checkpoint = true ↔ s.ctl.ckpt ≠ none ∨ s.ctl.ckptPending = true := by
  simp [claims, Option.isSome_iff_ne_none]

theorem finalStarted_eq_false (s : State) : finalStarted s = false ↔ ∀ x, s.ctl.shutdown = some x → x.finalStarted = false := by
  unfold finalStarted
  cases s.ctl.shutdown <;> simp

theorem claims_erase_iff (s : State) : claims s .erase = true ↔ s.map.dirtyList ≠ [] ∧ (s.ctl.device = .ready ∨
    (s.ctl.device = .shuttingDown ∧ ∀ x, s.ctl.shutdown = some x → x.finalStarted = false)) := by
  simp [claims, erasePermitted, ← finalStarted_eq_false]

theorem freeStaging_isSome_iff (s : State) : (freeStaging s).isSome = true ↔ ∃ i, s.stagingBuf i = .free := by
  unfold freeStaging
  rw [Fin.exists_fin_two]
  split
  · simp [*]
  · split <;> simp [*]

theorem claims_read_iff (s : State) : claims s .read = true ↔ s.reads.waitList ≠ [] ∧ ∃ i, s.stagingBuf i = .free := by
  rw [← freeStaging_isSome_iff]
  simp [claims]

theorem claims_program_iff (s : State) : claims s .program = true ↔ ∃ e ∈ s.bufs.queue, (s.stream e.stream).relocating = false := by
  simp [claims, oldestEligible, eligible]

theorem eraseRises_iff (s : State) : eraseRises s = true ↔ s.map.freeList.length ≤ 24 := by
  exact decide_eq_true_iff

theorem readRises_iff {s : State} (h : s.engine.op = none) : readRises s = true ↔
    s.bufs.queue.countP (fun e => !(s.stream e.stream).relocating) < 16 ∨ s.engine.readBalance = 4 := by
  simp [readRises, queueLength, programInProgress, h, eligible, deepQueue, maxReadBalance]

/-! ## The ranks -/

theorem winner_busy {s : State} (h : s.engine.op ≠ none) : winner s = none := by
  unfold winner
  rw [if_pos (Option.isSome_iff_ne_none.2 h)]

theorem winner_idle {s : State} (h : s.engine.op = none) : winner s = ranked s := by
  unfold winner
  rw [h]
  rfl

theorem winner_mounting {s : State} (h : s.engine.op = none) (hd : s.ctl.device = .mounting) :
    winner s = if s.ctl.scan.isSome then some .mount else none := by
  simp [winner_idle h, ranked, hd, claims]

theorem winner_halted {s : State} (hd : s.ctl.device = .halted) : winner s = none := by
  simp [winner, ranked, hd]

/-- The ranks of R14, in READY, WORN and SHUTTING_DOWN. -/
theorem winner_working {s : State} (h : s.engine.op = none)
    (hd : s.ctl.device = .ready ∨ s.ctl.device = .worn ∨ s.ctl.device = .shuttingDown) :
    winner s =
      if claims s .relocation then some .relocation
      else if claims s .checkpoint then some .checkpoint
      else if claims s .erase && eraseRises s then some .erase
      else if claims s .read && readRises s then some .read
      else if claims s .program then some .program
      else if claims s .read then some .read
      else if claims s .erase then some .erase
      else none := by
  rw [winner_idle h]
  unfold ranked
  rcases hd with hd | hd | hd <;> rw [hd]

/-- The arbiter's choice has its claim present, at an IDLE port. -/
theorem claims_of_winner {s : State} {c : Claim} (h : winner s = some c) : s.engine.op = none ∧ claims s c = true := by
  cases ho : s.engine.op with
  | some op => rw [winner_busy (by simp [ho])] at h; cases h
  | none =>
    refine ⟨rfl, ?_⟩
    rw [winner_idle ho] at h
    unfold ranked at h
    split at h
    · split at h
      · next hm => cases h; exact hm
      · cases h
    · cases h
    · repeat' split at h
      all_goals simp_all

/-! ## Grants -/

theorem grant_refused {c : Claim} {f : State → State} {s : State} (hr : s.running = true) (h : winner s ≠ some c) :
    grant c f s = settle s s := by
  unfold grant
  rw [happening_running hr, if_neg h]

theorem grant_taken {c : Claim} {f : State → State} {s : State} (hr : s.running = true) (h : winner s = some c) :
    grant c f s = settle s (f s) := by
  unfold grant
  rw [happening_running hr, if_pos h]

/-- Settles O43: each claim is what its own lemma says, and the choice follows the ranks of `winner_working`. -/
theorem theArbiterRanksTheClaims : Obligations.TheArbiterRanksTheClaims := by
  refine ⟨fun s => ?_, fun s hr => ?_⟩
  · extract_lets reloc ckpt erase read program low rises
    refine ⟨winner_busy, winner_mounting, winner_halted, fun ho hd => ?_⟩
    have hreloc : claims s .relocation = true ↔ reloc := claims_relocation_iff s
    have hckpt : claims s .checkpoint = true ↔ ckpt := claims_checkpoint_iff s
    have herase : claims s .erase = true ↔ erase := claims_erase_iff s
    have hread : claims s .read = true ↔ read := claims_read_iff s
    have hprogram : claims s .program = true ↔ program := claims_program_iff s
    have hlow : eraseRises s = true ↔ low := eraseRises_iff s
    have hrises : readRises s = true ↔ rises := readRises_iff ho
    clear_value reloc ckpt erase read program low rises
    rw [winner_working ho hd]
    simp only [Bool.and_eq_true, ← hreloc, ← hckpt, ← herase, ← hread, ← hprogram, ← hlow, ← hrises]
    refine ⟨fun h => if_pos h, fun h1 h2 => ?_, fun h1 h2 h3 h4 => ?_, fun h1 h2 h3 h4 h5 => ?_, fun h1 h2 h3 h4 h5 => ?_,
      fun h1 h2 h3 h4 h5 h6 => ?_, fun h1 h2 h3 h4 h5 h6 => ?_, fun h1 h2 h3 h4 h5 => ?_⟩
    · rw [if_neg h1, if_pos h2]
    · rw [if_neg h1, if_neg h2, if_pos ⟨h3, h4⟩]
    · rw [if_neg h1, if_neg h2, if_neg h3, if_pos ⟨h4, h5⟩]
    · rw [if_neg h1, if_neg h2, if_neg h3, if_neg h4, if_pos h5]
    · rw [if_neg h1, if_neg h2, if_neg h3, if_neg h4, if_neg h5, if_pos h6]
    · rw [if_neg h1, if_neg h2, if_neg h3, if_neg (fun h => h5 h.1), if_neg h4, if_neg h5, if_pos h6]
    · rw [if_neg h1, if_neg h2, if_neg (fun h => h5 h.1), if_neg (fun h => h4 h.1), if_neg h3, if_neg h4, if_neg h5]
  · have hno : ∀ {c : Claim} {f : State → State}, winner s ≠ some c →
        (Host.Outcome.next (grant c f s) : Host.Outcome State Fault Refusal) = .next (settle s s) :=
      fun h => congrArg Host.Outcome.next (grant_refused hr h)
    exact ⟨hno, hno, hno, fun h => ⟨hno h, hno h⟩, hno, hno⟩

/-! ## What each grant puts on the port -/

/-- The program queue's oldest entry that is not of a RELOCATING stream goes to the port (R15, R17). -/
theorem grantProgram_eq {s : State} (hc : claims s .program = true) :
    ∃ before e after, s.bufs.queue = before ++ e :: after ∧ (∀ x ∈ before, (s.stream x.stream).relocating = true) ∧
      (s.stream e.stream).relocating = false ∧
      grantProgram s = { s with
        reloc := { s.reloc with standAside := false }
        engine := ⟨some ⟨.program, e.unit, some e.slot, .programQueue, some (.pageBuffer e.buf), some .compute, s.time⟩,
          min (s.engine.readBalance + 1) 4⟩ } := by
  obtain ⟨e, he⟩ := Option.isSome_iff_exists.1 (show (oldestEligible s).isSome = true from hc)
  obtain ⟨hel, before, after, hq, hb⟩ := List.find?_eq_some_iff_append.1 (show s.bufs.queue.find? (eligible s) = some e from he)
  refine ⟨before, e, after, hq, fun x hx => ?_, ?_, ?_⟩
  · simpa [eligible] using hb x hx
  · simpa [eligible] using hel
  · unfold grantProgram
    rw [he]
    rfl

/-- What the location query finds (R25). -/
theorem locate_some {s : State} {st : StreamId} {x : Nat} {u : UnitId} {k : Nat} (h : locate s st x = some (u, k)) :
    u ∈ s.chain st ∧ ∃ first, (s.unit u).firstPage = some first ∧ x = first + k ∧ k < (s.unit u).assigned := by
  unfold locate at h
  split at h
  · next v hv =>
    obtain ⟨rfl, rfl⟩ := Prod.mk.inj (Option.some.inj h)
    refine ⟨List.mem_of_find?_eq_some hv, ?_⟩
    have hh := List.find?_some hv
    unfold UnitRec.holds at hh
    cases hf : (s.unit v).firstPage with
    | none => rw [hf] at hh; cases hh
    | some f =>
      rw [hf] at hh
      simp only [Bool.and_eq_true, decide_eq_true_eq] at hh
      obtain ⟨h1, h2⟩ := hh
      exact ⟨f, rfl, by simp only [Option.getD_some]; omega, by simp only [Option.getD_some]; omega⟩
  · cases h

theorem freeStaging_eq {s : State} (h : (freeStaging s).isSome = true) :
    freeStaging s = some (if s.stagingBuf 0 = .free then 0 else 1) := by
  unfold freeStaging at h ⊢
  split
  · rfl
  · next h0 =>
    rw [if_neg h0] at h
    split
    · rfl
    · next h1 => simp [h1] at h

/-- The oldest waiting read goes to the port, its words to staging buffer 0 when that one is FREE (R143, R144). -/
theorem grantRead_eq {s : State} (hc : claims s .read = true) {q : ReadReq} {rest : List ReadReq} {u : UnitId} {k : Nat}
    (hq : s.reads.waitList = q :: rest) (hl : locate s q.stream q.pageNumber = some (u, k)) :
    grantRead s = { s with
      reloc := { s.reloc with standAside := false }
      reads := { s.reads with
        waitList := rest
        staging := vset s.reads.staging (if s.stagingBuf 0 = .free then 0 else 1) (.inUse q none) }
      engine := ⟨some ⟨.read, u, some k, .readPath, some (.staging (if s.stagingBuf 0 = .free then 0 else 1)), none, s.time⟩, 0⟩ } := by
  have hs : (freeStaging s).isSome = true := by
    simp only [claims, Bool.and_eq_true] at hc
    exact hc.2
  unfold grantRead
  rw [hq, freeStaging_eq hs]
  dsimp only
  rw [hl]
  rfl

/-- The unit and slot that the scan reads next, by its position (R174). -/
theorem scanTarget_facts (pos : ScanPos) :
    match pos with
    | .header n => (scanTarget pos).1.val = n.val / 8 ∧ (scanTarget pos).2 = 8 * (n.val % 8)
    | .commit n _ => (scanTarget pos).1.val = n.val / 8 ∧ (scanTarget pos).2 = 8 * (n.val % 8) + 5
    | .entry n _ _ got => (scanTarget pos).1.val = n.val / 8 ∧ (scanTarget pos).2 = 8 * (n.val % 8) + 1 + got.length
    | .slot0 v => (scanTarget pos).1 = v ∧ (scanTarget pos).2 = 0
    | .slot63 v _ => (scanTarget pos).1 = v ∧ (scanTarget pos).2 = 63
    | .count v _ _ n _ => (scanTarget pos).1 = v ∧ (scanTarget pos).2 = n
    | .blank v n => (scanTarget pos).1 = v ∧ (scanTarget pos).2 = n := by
  have hu : ∀ n : Fin 16, (tableUnitId (scanTable n)).val = n.val / 8 := by decide
  cases pos with
  | header n => exact ⟨hu n, rfl⟩
  | commit n hdr => exact ⟨hu n, rfl⟩
  | entry n hdr cmt got => exact ⟨hu n, (Nat.add_assoc ..).symm⟩
  | slot0 v => exact ⟨rfl, rfl⟩
  | slot63 v r0 => exact ⟨rfl, rfl⟩
  | count v r0 r63 n run => exact ⟨rfl, rfl⟩
  | blank v n => exact ⟨rfl, rfl⟩

/-- Settles O44: a grant that is the arbiter's choice has the effect of its own operation, claimant by claimant. -/
theorem grantsStartTheirOperation : Obligations.GrantsStartTheirOperation := by
  intro s hr held
  have hyes : ∀ {c : Claim} {f : State → State} {t : State}, winner s = some c → f s = t →
      (Host.Outcome.next (grant c f s) : Host.Outcome State Fault Refusal) = .next (settle s t) :=
    fun h ht => congrArg Host.Outcome.next ((grant_taken hr h).trans (congrArg (settle s) ht))
  refine ⟨fun h => ?_, fun h q rest u k hq hl => ?_, fun h u rest hd => ?_, fun h r v hrel hv => ?_, fun h sc hsc => ?_⟩
  · obtain ⟨before, e, after, hq, hb, he, hg⟩ := grantProgram_eq (claims_of_winner h).2
    exact ⟨before, e, after, hq, hb, he, hyes h hg⟩
  · exact ⟨locate_some hl, hyes h (grantRead_eq (claims_of_winner h).2 hq hl)⟩
  · refine hyes h ?_
    unfold grantErase
    rw [hd]
    rfl
  · refine hyes h ?_
    unfold grantRelocation
    rw [hrel]
    dsimp only
    rw [hv]
    cases r.phase <;> rfl
  · refine ⟨(scanTarget sc.pos).1, (scanTarget sc.pos).2, hyes h ?_, ?_⟩
    · unfold grantMountRead
      rw [hsc]
      rfl
    · have := scanTarget_facts sc.pos
      cases hp : sc.pos <;> rw [hp] at this <;> exact this

end Sys2Proof.Machine
end

section
/-!
PROOFS. The ends of operations at large: the done reports and the timeouts (R7 to R9, R12), what they leave unchanged,
retirement, and WORN entry as seen from outside it (R38 to R41).
-/
-- The theorems of this file are elaborated one after another: in parallel their waiting threads exceed the memory limit of the check.
set_option Elab.async false

namespace Sys2Proof.Machine

/-! ## Done reports and timeouts -/

theorem opOfKind_some {kind : OpKind} {s : State} {op : Operation} (ho : s.engine.op = some op) (hk : op.kind = kind) :
    opOfKind kind s = some op := by
  unfold opOfKind
  rw [ho]
  exact if_pos hk

theorem opOfKind_none {kind : OpKind} {s : State} (h : ∀ op, s.engine.op = some op → op.kind ≠ kind) : opOfKind kind s = none := by
  unfold opOfKind
  split
  · next op ho => exact if_neg (h op ho)
  · rfl

theorem endOperation_some {kind : OpKind} {f : Operation → State → State} {s : State} {op : Operation} (ho : s.engine.op = some op)
    (hk : op.kind = kind) : endOperation kind f s = f op s := by
  unfold endOperation
  rw [opOfKind_some ho hk]

theorem endOperation_none {kind : OpKind} {f : Operation → State → State} {s : State}
    (h : ∀ op, s.engine.op = some op → op.kind ≠ kind) : endOperation kind f s = s := by
  unfold endOperation
  rw [opOfKind_none h]

/-- A timeout that is due ends the operation in progress. -/
theorem timeoutOf_due {kind : OpKind} {limit : Nat} {f : Operation → State → State} {s : State} {op : Operation}
    (ho : s.engine.op = some op) (hk : op.kind = kind) (hd : limit ≤ (s.time - op.startTime).toNat) :
    timeoutOf kind limit f s = f op s :=
  (endOperation_some ho hk).trans (if_pos (decide_eq_true hd))

theorem timeoutOf_early {kind : OpKind} {limit : Nat} {f : Operation → State → State} {s : State} {op : Operation}
    (ho : s.engine.op = some op) (hk : op.kind = kind) (hd : (s.time - op.startTime).toNat < limit) : timeoutOf kind limit f s = s :=
  (endOperation_some ho hk).trans (if_neg fun h => absurd (of_decide_eq_true h) (Nat.not_le.2 hd))

section

variable {s : State} {op : Operation} (hr : s.running = true) (ho : s.engine.op = some op)
include hr ho

theorem exec_programDone (hk : op.kind = .program) (pass : Bool) :
    exec (.programDone pass) s = .next (settle s (programEnd pass op s)) :=
  congrArg Host.Outcome.next ((happening_running hr).trans (congrArg (settle s) (endOperation_some ho hk)))

theorem exec_programTimeout (hk : op.kind = .program) (hd : 2000 ≤ (s.time - op.startTime).toNat) :
    exec .programTimeout s = .next (settle s (programEnd false op s)) :=
  congrArg Host.Outcome.next ((happening_running hr).trans (congrArg (settle s) (timeoutOf_due ho hk hd)))

theorem exec_eraseDone (hk : op.kind = .erase) (pass : Bool) :
    exec (.eraseDone pass) s = .next (settle s (eraseEnd pass op s)) :=
  congrArg Host.Outcome.next ((happening_running hr).trans (congrArg (settle s) (endOperation_some ho hk)))

theorem exec_eraseTimeout (hk : op.kind = .erase) (hd : 15000 ≤ (s.time - op.startTime).toNat) :
    exec .eraseTimeout s = .next (settle s (eraseEnd false op s)) :=
  congrArg Host.Outcome.next ((happening_running hr).trans (congrArg (settle s) (timeoutOf_due ho hk hd)))

theorem exec_readDone (hk : op.kind = .read) (asRead : Option Page) :
    exec (.readDone asRead) s = .next (settle s (readEnd true (readDoneResult (pageRead asRead op s)) op s)) :=
  congrArg Host.Outcome.next ((happening_running hr).trans (congrArg (settle s) (endOperation_some ho hk)))

theorem exec_readTimeout (hk : op.kind = .read) (hd : 400 ≤ (s.time - op.startTime).toNat) :
    exec .readTimeout s = .next (settle s (readEnd false readTimeoutResult op s)) :=
  congrArg Host.Outcome.next ((happening_running hr).trans (congrArg (settle s) (timeoutOf_due ho hk hd)))

end

/-! ## The end of an operation and of its happening -/

/-- From the state `u` in which the requester finds the outcome, to the end `t` of the happening: the array stays, the port is IDLE, no
pending bit is lost, and checkpoint pending stays when set. -/
structure OpEnded (u t : State) : Prop where
  array : t.array = u.array
  engine : t.engine = { u.engine with op := none }
  pendingSet : ∀ i, u.notices.pendingSet.getLsbD i = true → t.notices.pendingSet.getLsbD i = true
  ckptPending : u.ctl.ckptPending = true → t.ctl.ckptPending = true

theorem Kept.opEnded {u v : State} (h : Kept u v) (a : State) : OpEnded u (Machine.settle a (v.setOp none)) := by
  have hs : Kept (v.setOp none) (Machine.settle a (v.setOp none)) := (Kept.refl _).settle a
  have he : (v.setOp none).engine = { u.engine with op := none } := by rw [← h.engine]; rfl
  exact ⟨hs.array.trans h.array, hs.engine.trans he,
    fun i hi => hs.pendingSet (h.pendingSet hi), fun hc => hs.ckptPending (h.ckptPending hc)⟩

theorem opEnded_program (pass : Bool) (op : Operation) (s : State) :
    OpEnded (slotEnded pass op s) (settle s (programEnd pass op s)) := ((Kept.refl _).handleProgram pass op).opEnded s

theorem opEnded_erase (pass : Bool) (op : Operation) (s : State) : OpEnded (unitEnded pass op s) (settle s (eraseEnd pass op s)) :=
  ((Kept.refl _).handleErase pass op).opEnded s

theorem opEnded_read (done : Bool) (res : ReadResult) (op : Operation) (s : State) : OpEnded s (settle s (readEnd done res op s)) :=
  ((Kept.refl _).handleRead done res op).opEnded s

theorem slotEnded_engine (pass : Bool) (op : Operation) (s : State) : (slotEnded pass op s).engine = s.engine := by
  cases pass <;> rfl

theorem unitEnded_engine (pass : Bool) (op : Operation) (s : State) : (unitEnded pass op s).engine = s.engine := by
  cases pass <;> rfl

/-- A PROGRAM that ends leaves the port IDLE. -/
theorem programEnd_engine (pass : Bool) (op : Operation) (s : State) :
    (settle s (programEnd pass op s)).engine = { s.engine with op := none } := by
  rw [(opEnded_program pass op s).engine, slotEnded_engine]

theorem eraseEnd_engine (pass : Bool) (op : Operation) (s : State) :
    (settle s (eraseEnd pass op s)).engine = { s.engine with op := none } := by
  rw [(opEnded_erase pass op s).engine, unitEnded_engine]

/-- A PROGRAM that fails leaves its slot spoiled, and every other slot as it was (R7). -/
theorem slotSpoiled_programEnd {op : Operation} {k : Nat} (hk : op.slot = some k) (s : State) :
    slotSpoiled op.unit k s (settle s (programEnd false op s)) := by
  have he : slotEnded false op s = spoilSlot op.unit k s := by
    unfold slotEnded
    rw [hk]
    rfl
  unfold slotSpoiled
  rw [(opEnded_program false op s).array, he]
  exact slotSpoiled_spoilSlot op.unit k s

/-- An ERASE that fails leaves the slots of every other unit as they were (R9). -/
theorem eraseFail_array (op : Operation) (s : State) {x : Nat} (h : x / 64 ≠ op.unit.val) :
    (settle s (eraseEnd false op s)).array.read x = s.array.read x := by
  rw [(opEnded_erase false op s).array]
  exact read_undefineUnit_ne op.unit s h

/-! ## Retirement -/

theorem mem_retiredInsert (u : UnitId) (l : List UnitId) : u ∈ retiredInsert u l := by
  induction l with
  | nil => exact List.mem_cons_self
  | cons v l ih =>
    unfold retiredInsert
    split
    · exact List.mem_cons_self
    · exact List.mem_cons_of_mem _ ih

/-- The map after the retirement of a unit (R40). -/
def retiredMap (u : UnitId) (s : State) : UnitMap :=
  { s.map with
    units := vset s.map.units u (unitOut .retired (s.unit u))
    retiredSet := retiredInsert u s.map.retiredSet
    retiredCount := s.map.retiredCount + 1 }

theorem raise_bit (k : NoticeKind) (arg : Nat) (s : State) : (raise k arg s).notices.pendingSet.getLsbD (noticeBit k) = true := by
  have hk : noticeBit k < 16 := by cases k <;> decide
  rw [raise_pendingSet, BitVec.getLsbD_or]
  simp [noticeMask, hk]

theorem retireRecord_pendingSet (u : UnitId) (s : State) : (retireRecord u s).notices.pendingSet.getLsbD 7 = true :=
  raise_bit .unitRetired _ _

/-- The retirement from 47 to 48 in READY begins WORN entry (R41). -/
theorem retire_worn {u : UnitId} {s : State} (hc : s.map.retiredCount = 47) (hd : s.ctl.device = .ready) :
    retire u s = raise .worn 48 ((retireRecord u s).setCtl { (retireRecord u s).ctl with device := .worn }) := by
  have h48 : (retireRecord u s).map.retiredCount = 48 := congrArg (· + 1) hc
  unfold retire
  dsimp only
  rw [if_pos ⟨h48, hd⟩, h48]

theorem retire_plain {u : UnitId} {s : State} (h : s.map.retiredCount ≠ 47 ∨ s.ctl.device ≠ .ready) :
    retire u s = retireRecord u s := by
  refine if_neg fun ⟨hc, hd⟩ => ?_
  have hc : s.map.retiredCount + 1 = 48 := hc
  exact h.elim (fun h => h (by omega)) (fun h => h hd)

/-- What every retirement does, whether it begins WORN entry or not (R40). -/
theorem retire_facts (u : UnitId) (s : State) : (retire u s).map = retiredMap u s ∧ (retire u s).ctl.ckptPending = true ∧
    (retire u s).notices.pendingSet.getLsbD 7 = true ∧ (retire u s).streams = s.streams ∧ (retire u s).bufs = s.bufs := by
  unfold retire
  extract_lets t
  have ht : t.map = retiredMap u s ∧ t.ctl.ckptPending = true ∧ t.notices.pendingSet.getLsbD 7 = true ∧ t.streams = s.streams ∧
    t.bufs = s.bufs := ⟨rfl, rfl, retireRecord_pendingSet u s, rfl, rfl⟩
  clear_value t
  obtain ⟨hm, hc, hn, hs, hb⟩ := ht
  split
  · exact ⟨hm, hc, (Kept.raise (t := t.setCtl _) (Kept.refl _) .worn _).pendingSet hn, hs, hb⟩
  · exact ⟨hm, hc, hn, hs, hb⟩

/-! ## WORN entry, seen from outside -/

theorem enterWorn_outside (s : State) : (enterWorn s).outside = s.outside := by
  have h := RunMove.endAllRuns s .worn
  unfold enterWorn
  generalize endAllRuns .worn s = t at h ⊢
  have h1 : RunStep (fun _ => True) t (noteHeld t) := (RunStep.refl _ t).setHeldAtWorn _
  exact h1.discardAllHeld.outside.trans h

/-- After the rest of WORN entry, the end of a happening leaves the core alone. -/
theorem settled_after_worn (a s : State) : Settled (settleWorn a s) (settle a s) :=
  ((settled_drainPending _).trans (settled_settleStandAside _)).trans (settled_transmitArrivals _)

theorem outside_core (s : State) : s.outside = s.core.outside := rfl

/-- The end of a happening leaves alone what `State.outside` keeps, WORN entry or not. -/
theorem settle_outside (a s : State) : (settle a s).outside = s.outside := by
  have h1 : (settle a s).outside = (settleWorn a s).outside := by
    rw [outside_core, (settled_after_worn a s).core, ← outside_core]
  refine h1.trans ?_
  unfold settleWorn
  split
  · exact enterWorn_outside s
  · rfl

theorem settle_retired (a s : State) :
    (settle a s).map.retiredSet = s.map.retiredSet ∧ (settle a s).map.retiredCount = s.map.retiredCount :=
  ⟨(congrArg (fun x => x.map.retiredSet) (settle_outside a s) :), (congrArg (fun x => x.map.retiredCount) (settle_outside a s) :)⟩

/-- A data-unit erase that fails retires its unit, WORN entry or not (R40, R162). -/
theorem eraseFail_retires {op : Operation} (hq : op.requester = .eraseProcess) (s : State) :
    op.unit ∈ (settle s (eraseEnd false op s)).map.retiredSet ∧
      (settle s (eraseEnd false op s)).map.retiredCount = s.map.retiredCount + 1 ∧
      (settle s (eraseEnd false op s)).ctl.ckptPending = true ∧
      (settle s (eraseEnd false op s)).notices.pendingSet.getLsbD 7 = true := by
  have he : eraseEnd false op s = (retire op.unit (undefineUnit op.unit s)).setOp none := by
    rw [eraseEnd_eq]
    unfold handleErase
    rw [hq]
    rfl
  obtain ⟨hm, hc, hn, -, -⟩ := retire_facts op.unit (undefineUnit op.unit s)
  have hk : Kept ((retire op.unit (undefineUnit op.unit s)).setOp none) (settle s (eraseEnd false op s)) := by
    rw [he]
    exact (Kept.refl _).settle s
  obtain ⟨hset, hcount⟩ := settle_retired s (eraseEnd false op s)
  rw [hset, hcount, he, State.setOp_map, hm, ← he]
  exact ⟨mem_retiredInsert _ _, rfl, hk.ckptPending hc, hk.pendingSet hn⟩

/-- Settles O54, kind of operation by kind of operation. -/
theorem timeoutsAndLateReports : Obligations.TimeoutsAndLateReports := by
  have hnone : ∀ {kind : OpKind} {f : Operation → State → State} {s : State}, s.running = true →
      (∀ op, s.engine.op = some op → op.kind ≠ kind) →
      (Host.Outcome.next (happening (endOperation kind f) s) : Host.Outcome State Fault Refusal) = .next (settle s s) :=
    fun hr h => congrArg Host.Outcome.next ((happening_running hr).trans (congrArg (settle _) (endOperation_none h)))
  have hearly : ∀ {kind : OpKind} {limit : Nat} {f : Operation → State → State} {s : State} {op : Operation}, s.running = true →
      s.engine.op = some op → op.kind = kind → (s.time - op.startTime).toNat < limit →
      (Host.Outcome.next (happening (timeoutOf kind limit f) s) : Host.Outcome State Fault Refusal) = .next (settle s s) :=
    fun hr ho hk hd => congrArg Host.Outcome.next ((happening_running hr).trans (congrArg (settle _) (timeoutOf_early ho hk hd)))
  refine ⟨fun s => rfl, fun s hr h => ⟨fun pass => hnone hr h, hnone hr h⟩, fun s hr h => ⟨fun page => hnone hr h, hnone hr h⟩,
    fun s hr h => ⟨fun pass => hnone hr h, hnone hr h⟩, fun s op hr ho => ?_⟩
  intro since
  refine ⟨fun hk hd k hs => ?_, fun hk hd => hearly hr ho hk hd, fun hk hd => ?_, fun hk hd => hearly hr ho hk hd, fun hk hd => ?_,
    fun hk hd => hearly hr ho hk hd⟩
  · exact ⟨_, exec_programTimeout hr ho hk hd, exec_programDone hr ho hk false, programEnd_engine false op s, slotSpoiled_programEnd hs s⟩
  · exact ⟨_, exec_eraseTimeout hr ho hk hd, exec_eraseDone hr ho hk false, eraseEnd_engine false op s, fun x hx => eraseFail_array op s hx,
      fun hq => eraseFail_retires hq s⟩
  · have h := opEnded_read false readTimeoutResult op s
    exact ⟨_, exec_readTimeout hr ho hk hd, h.engine, h.array⟩

end Sys2Proof.Machine
end

section
/-!
PROOFS. The READs of the read-back path and of a relocation, and the programs of a copy (R8, R37, R120 to R123, R143 to R146).
-/
-- The theorems of this file are elaborated one after another: in parallel their waiting threads exceed the memory limit of the check.
set_option Elab.async false

namespace Sys2Proof.Machine

/-! ## The flag bytes of a page as read -/

theorem readFlags_eq : ∀ f : Byte, readFlags f false = f &&& 0x0F := by decide +kernel

theorem copyFlags_good : ∀ f : Byte, copyFlags f false = (f &&& 0x0F) ||| 0x04 := by decide +kernel

theorem copyFlags_damaged : ∀ f : Byte, copyFlags f true = (f &&& 0x0F) ||| 0x0C := by decide +kernel

/-! ## What the cells read -/

theorem cellsRead_erased (asRead : Option Page) : cellsRead erasedPage asRead = erasedPage := by
  cases asRead <;> simp [cellsRead, mayReadAs]

/-- A slot with an INVALID tag goes on reading INVALID (R4, R19). -/
theorem cellsRead_invalid {p : Page} (h : classify p.tag = .invalid) (asRead : Option Page) :
    classify (cellsRead p asRead).tag = .invalid := by
  cases asRead with
  | none => exact h
  | some q =>
    unfold cellsRead
    dsimp only
    split
    · next hq =>
      simp only [mayReadAs, h, Bool.and_eq_true, bne_self_eq_false, Bool.false_or, beq_iff_eq] at hq
      exact hq.2
    · exact h

/-- A slot with a VALID tag may read anything (R4, R8). -/
theorem cellsRead_valid {p : Page} (h : classify p.tag = .valid) (q : Page) : cellsRead p (some q) = q := by
  have hp : p ≠ erasedPage := fun e => by
    rw [e, show classify erasedPage.tag = .blank by decide] at h
    cases h
  simp [cellsRead, mayReadAs, h, hp]

theorem readDoneResult_good (p : Page) (h : classify p.tag = .valid) :
    (readDoneResult p).dataGood = true ↔ p.tag.dataCrc = crc16 (dataBytes p.data) := by
  simp [readDoneResult, h, dataCrcOf]

/-- The test that the two readers of a slot make is that it holds the page expected (R122, R145). -/
theorem holdsPage_iff (p : Page) (st : StreamId) (k x : Nat) :
    ((readDoneResult p).cls = .valid ∧ tagNames p.tag st k x = true) ↔ holdsPage p st k x := by
  simp [holdsPage, readDoneResult, tagNames, and_assoc]

/-! ## The read-back path -/

/-- What `readEndDone` answers for a slot that holds the page expected (R145, R146). -/
theorem readEndDone_holds {i : StagingId} {q : ReadReq} {k : Nat} {p : Page} {s : State} (h : holdsPage p q.stream k q.pageNumber) :
    readEndDone i q k (readDoneResult p) s =
      finishRequest .read q.tag
        (if p.tag.dataCrc = crc16 (dataBytes p.data) ∧ p.tag.flags.getLsbD 3 = false then .ok else .damaged)
        (readContents q p.tag.runNumber p.tag.wordCount (p.tag.flags &&& 0x0F) p.tag.firstWordTime p.tag.droppedBefore
          (selectWords p.data.toList p.tag.wordCount.toNat q.offset q.count))
        (stagingOf i (selectWords p.data.toList p.tag.wordCount.toNat q.offset q.count))
        (settleStaging i q p (selectWords p.data.toList p.tag.wordCount.toNat q.offset q.count) s) := by
  have hd := readDoneResult_good p h.1
  have hs : (if (readDoneResult p).dataGood = true ∧ flagDamaged p.tag.flags = false then Status.ok else Status.damaged) =
      if p.tag.dataCrc = crc16 (dataBytes p.data) ∧ p.tag.flags.getLsbD 3 = false then .ok else .damaged := by
    simp only [hd]
    rfl
  unfold readEndDone
  refine (if_pos ((holdsPage_iff p _ _ _).2 h)).trans ?_
  rw [← readFlags_eq, ← hs]
  rfl

theorem readEndDone_other {i : StagingId} {q : ReadReq} {k : Nat} {p : Page} {s : State} (h : ¬holdsPage p q.stream k q.pageNumber) :
    readEndDone i q k (readDoneResult p) s =
      finishRequest .read q.tag .damaged (readContents q 0 256 0x08 0 0 (selectWords p.data.toList 256 q.offset q.count))
        (stagingOf i (selectWords p.data.toList 256 q.offset q.count))
        (settleStaging i q p (selectWords p.data.toList 256 q.offset q.count) s) := by
  unfold readEndDone
  exact if_neg fun h' => h ((holdsPage_iff p _ _ _).1 h')

/-- The state in which a READ has been answered: the port IDLE, its request completed with the reply `body`, its staging buffer as `kept`
says (R143, R195, R197). -/
def readAnswered (q : ReadReq) (i : StagingId) (body : List Byte) (held : Option StagingId) (kept : Staging) (s : State) : State :=
  { s with
    engine := { s.engine with op := none }
    reads := { s.reads with staging := vset s.reads.staging i kept }
    link := { s.link with
      requests := s.link.requests.map (fun x => if x.tag = q.tag then { x with stage := .completed } else x)
      replies := s.link.replies ++ [⟨.request q.tag .read, body, held⟩] } }

theorem finishRead_eq (i : StagingId) (q : ReadReq) (p : Page) (st : Status) (contents : List Byte) (ws : List Word) (s : State) :
    (finishRequest .read q.tag st contents (stagingOf i ws) (settleStaging i q p ws s)).setOp none =
      if ws = [] then readAnswered q i (replyOf .read q.tag st contents).body none .free s
      else readAnswered q i (replyOf .read q.tag st contents).body (some i) (.inUse q (some p)) s := by
  unfold stagingOf settleStaging
  split <;> rfl

theorem handleRead_readPath {done : Bool} {res : ReadResult} {op : Operation} {s : State} {i : StagingId} {q : ReadReq} {old : Option Page}
    (hq : op.requester = .readPath) (hb : op.buffer = some (.staging i)) (hs : s.stagingBuf i = .inUse q old) :
    handleRead done res op s = if done then readEndDone i q (op.slot.getD 0) res s else readEndTimeout i q s := by
  unfold handleRead
  rw [hq]
  dsimp only
  unfold readPathEnd
  rw [hb]
  dsimp only
  rw [hs]

/-- Settles O51, by what the slot reads: the page expected, another page, or nothing within 400 µs. -/
theorem readBacksEnd : Obligations.ReadBacksEnd := by
  refine ⟨fun p asRead => ⟨rfl, cellsRead_erased asRead, fun h => cellsRead_invalid h asRead, fun q h => cellsRead_valid h q⟩, ?_⟩
  intro s u k i t0 q old hr ho hst finish
  refine ⟨fun asRead => ?_, fun hd => ?_⟩
  · intro page g answer
    have hend : readEnd true (readDoneResult page) ⟨.read, u, some k, .readPath, some (.staging i), none, t0⟩ s =
        (readEndDone i q k (readDoneResult page) s).setOp none := by
      unfold readEnd
      rw [handleRead_readPath rfl rfl hst, if_pos rfl]
      rfl
    refine ⟨fun h => ?_, fun h => ?_⟩
    · refine (exec_readDone hr ho rfl asRead).trans (congrArg (fun t => Host.Outcome.next (settle s t)) (hend.trans ?_))
      exact (congrArg (State.setOp · none) (readEndDone_holds h)).trans (finishRead_eq ..)
    · refine (exec_readDone hr ho rfl asRead).trans (congrArg (fun t => Host.Outcome.next (settle s t)) (hend.trans ?_))
      exact (congrArg (State.setOp · none) (readEndDone_other h)).trans (finishRead_eq ..)
  · refine (exec_readTimeout hr ho rfl hd).trans (congrArg (fun t => Host.Outcome.next (settle s t)) ?_)
    unfold readEnd
    rw [handleRead_readPath rfl rfl hst]
    rfl

/-! ## The copy of a relocation -/

/-- The tag that a copy takes from a slot that holds the page expected (R122). -/
theorem copyTag_holds {r : Reloc} {first : Nat} {p : Page} (h : holdsPage p r.stream r.copyPos (first + r.copyPos)) :
    copyTag r first (readDoneResult p) =
      ({ p.tag with
          flags := copyFlags p.tag.flags (!(readDoneResult p).dataGood), origin := BitVec.ofNat 16 r.source.val },
        !(readDoneResult p).dataGood) := by
  unfold copyTag
  exact if_pos ((holdsPage_iff p _ _ _).2 h)

/-- The tag of a copy whose source does not read as the page expected (R122). -/
def rebuiltCopyTag (r : Reloc) (x : Nat) (crc : Word) : Tag :=
  ⟨0x5A, BitVec.ofNat 8 r.stream.val, 0x0C, BitVec.ofNat 8 r.copyPos, 256, BitVec.ofNat 32 x, 0, 0, 0, BitVec.ofNat 16 r.source.val, crc, 0⟩

theorem copyTag_other {r : Reloc} {first : Nat} {p : Page} (h : ¬holdsPage p r.stream r.copyPos (first + r.copyPos)) :
    copyTag r first (readDoneResult p) = (rebuiltCopyTag r (first + r.copyPos) p.tag.dataCrc, true) := by
  unfold copyTag
  exact if_neg fun h' => h ((holdsPage_iff p _ _ _).1 h')

theorem copyTag_timeout (r : Reloc) (first : Nat) :
    copyTag r first readTimeoutResult = (rebuiltCopyTag r (first + r.copyPos) 0xFFFF, true) := by
  unfold copyTag
  exact if_neg fun h => nomatch h.1

/-- The state in which a copy read has ended: the port IDLE, the page in the copy buffer and its program due, DAMAGED_PAGE raised when this
read made it DAMAGED (R120, R122). -/
def copyTaken (r : Reloc) (page : Page) (damaged : Bool) (s : State) : State :=
  { s with
    engine := { s.engine with op := none }
    reloc := { s.reloc with current := some { r with phase := .programDue }, copyBuffer := some page }
    notices := if damaged then s.notices.raise .damagedPage (BitVec.ofNat 16 r.stream.val) s.time else s.notices }

theorem copyReadEnd_eq {r : Reloc} {res : ReadResult} {s : State} {tag : Tag} {damaged : Bool}
    (h : copyTag r ((s.unit r.source).firstPage.getD 0) res = (tag, damaged)) :
    (copyReadEnd r res s).setOp none = copyTaken r ⟨res.page.data, tag⟩ damaged s := by
  unfold copyReadEnd
  rw [h]
  cases damaged <;> rfl

theorem handleRead_relocation {done : Bool} {res : ReadResult} {op : Operation} {s : State} {r : Reloc}
    (hq : op.requester = .relocationStep) (hr : s.reloc.current = some r) : handleRead done res op s = copyReadEnd r res s := by
  unfold handleRead
  rw [hq]
  dsimp only
  unfold relocReadEnd
  rw [hr]

theorem copyPass_eq (r : Reloc) (v : UnitId) (s : State) : copyPass r v s =
    { s with
      map := { s.map with
        units := vset s.map.units v { s.unit v with assigned := (s.unit v).assigned + 1, programmed := (s.unit v).programmed + 1 } }
      reloc := { s.reloc with
        current := some { r with
          copyPos := r.copyPos + 1
          phase := if r.copyPos + 1 < r.slot then .readDue else .failedPageDue }
        copyBuffer := none
        standAside := true } } := rfl

/-- A copy program that passes takes the copy to the next slot (R37, R121, R123). -/
theorem relocProgramEnd_copy {r : Reloc} {v : UnitId} {s : State} (hr : s.reloc.current = some r) (hv : r.target = some v)
    (hp : r.phase ≠ .failedPageDue) : relocProgramEnd true s = copyPass r v s := by
  unfold relocProgramEnd
  rw [hr]
  dsimp only
  rw [hv]
  dsimp only
  rw [if_pos rfl, if_neg hp]

/-- Settles O48: a copy read by what the slot reads, and a copy program that passes. -/
theorem copiesMoveThePages : Obligations.CopiesMoveThePages := by
  intro s r v t0 hr hcur hv idle x origin rebuilt copied noticed
  refine ⟨fun ho => ⟨fun asRead => ?_, fun hd => ?_⟩, fun ho hp page hpage => ?_⟩
  · intro page
    have hend : ∀ {tag : Tag} {damaged : Bool}, copyTag r ((s.unit r.source).firstPage.getD 0) (readDoneResult page) = (tag, damaged) →
        exec (.readDone asRead) s = .next (settle s (copyTaken r ⟨page.data, tag⟩ damaged s)) := fun h => by
      refine (exec_readDone hr ho rfl asRead).trans (congrArg (fun t => Host.Outcome.next (settle s t)) ?_)
      unfold readEnd
      rw [handleRead_relocation rfl hcur]
      exact copyReadEnd_eq h
    clear_value page
    refine ⟨fun h hg => ?_, fun h hg => ?_, fun h => ?_⟩
    · rw [hend (copyTag_holds (r := r) (p := page) h), (readDoneResult_good page h.1).2 hg, Bool.not_true, copyFlags_good]
      rfl
    · rw [hend (copyTag_holds (r := r) (p := page) h), Bool.eq_false_iff.2 fun h' => hg ((readDoneResult_good page h.1).1 h'), Bool.not_false,
        copyFlags_damaged]
      rfl
    · rw [hend (copyTag_other (r := r) (p := page) h)]
      rfl
  · refine (exec_readTimeout hr ho rfl hd).trans (congrArg (fun t => Host.Outcome.next (settle s t)) ?_)
    unfold readEnd
    rw [handleRead_relocation rfl hcur]
    exact copyReadEnd_eq (copyTag_timeout r _)
  · intro rv
    refine (exec_programDone hr ho rfl true).trans (congrArg (fun t => Host.Outcome.next (settle s t)) ?_)
    have hprog : pageToProgram ⟨.program, v, some r.copyPos, .relocationStep, some .copyBuffer, some .keep, t0⟩ s = page := by
      change s.reloc.copyBuffer.getD erasedPage = page
      rw [hpage]
      rfl
    rw [programEnd_eq]
    unfold slotEnded handleProgram
    rw [if_pos rfl, hprog]
    dsimp only
    rw [relocProgramEnd_copy (s := s.writeSlot v _ _) hcur hv hp, copyPass_eq]
    rfl

end Sys2Proof.Machine
end

section
/-!
PROOFS. The ends of the operations of a checkpoint (R169 to R171, R173, R183).
-/
-- The theorems of this file are elaborated one after another: in parallel their waiting threads exceed the memory limit of the check.
set_option Elab.async false

namespace Sys2Proof.Machine

/-! ## The slot of a PROGRAM that passes -/

theorem classify_programmedPage (mode : CrcMode) (p : Page) : classify (programmedPage mode p).tag = .valid := by
  have hne : (programmedPage mode p).tag ≠ erasedPage.tag := fun h =>
    (show (0x5A : Byte) ≠ 0xFF by decide) (congrArg Tag.mark h)
  unfold classify
  rw [if_neg hne]
  exact if_pos ⟨rfl, rfl⟩

/-- A PROGRAM that passes leaves its slot VALID with DATA GOOD when the engine computes the data CRC, and every other slot as it was (R7). -/
theorem slotProgrammed_programEnd {op : Operation} {k : Nat} (hk : op.slot = some k) (hm : op.crcMode = some .compute) (s : State) :
    slotProgrammed op.unit k (pageToProgram op s).data s (settle s (programEnd true op s)) ∧
      (settle s (programEnd true op s)).array.read (slotAddr op.unit k) = programmedPage .compute (pageToProgram op s) := by
  have hs : slotEnded true op s = s.writeSlot op.unit k (programmedPage .compute (pageToProgram op s)) := by
    unfold slotEnded
    rw [if_pos rfl, hk, hm]
    rfl
  have hread : (settle s (programEnd true op s)).array.read (slotAddr op.unit k) = programmedPage .compute (pageToProgram op s) := by
    rw [(opEnded_program true op s).array, hs]
    exact Memory.read_write_self _ _ _
  refine ⟨?_, hread⟩
  unfold slotProgrammed
  rw [hread]
  refine ⟨rfl, classify_programmedPage _ _, rfl, fun x hx => ?_⟩
  rw [(opEnded_program true op s).array, hs]
  exact Memory.read_write_ne _ _ (Ne.symm hx)

/-! ## The completion of the covered requests and of SHUTDOWN -/

/-- The state with replies joined to the reply queue and the request table `rq` (R195, R198). -/
def joinReplies (rq : List Request) (rs : List Reply) (s : State) : State :=
  { s with link := { s.link with requests := rq, replies := s.link.replies ++ rs } }

theorem joinReplies_joinReplies (rq rq' : List Request) (rs rs' : List Reply) (s : State) :
    joinReplies rq' rs' (joinReplies rq rs s) = joinReplies rq' (rs ++ rs') s :=
  congrArg (fun l => ({ s with link := { s.link with requests := rq', replies := l } } : State)) (List.append_assoc ..)

/-- The covered requests are completed in their order, and nothing else of the machine moves. -/
theorem finishCheckpoints_eq (st : Status) (tu : Fin 2) (b : Byte) (l : List CkptWaiter) : ∀ s : State,
    ∃ rq, l.foldl (fun s w => finishCheckpoint st tu b w s) s =
      joinReplies rq (l.map fun w => replyOf .checkpoint w.tag st (n32 s.ctl.seqNo ++ n8 tu.val ++ [b])) s := by
  induction l with
  | nil => exact fun s => ⟨s.link.requests, by unfold joinReplies; rw [List.map_nil, List.append_nil]; rfl⟩
  | cons w l ih =>
    intro s
    obtain ⟨rq, h⟩ := ih (finishCheckpoint st tu b w s)
    exact ⟨rq, h.trans (joinReplies_joinReplies ..)⟩

/-- The replies to the requests that the checkpoint covers (R173). -/
def coveredReplies (st : Status) (tu : Fin 2) (b : Byte) (s : State) : List Reply :=
  (s.ctl.waiters.filter (·.covered)).map fun w => replyOf .checkpoint w.tag st (n32 s.ctl.seqNo ++ n8 tu.val ++ [b])

/-- The state in which no checkpoint is in progress any more and the requests it covered are completed; `rq` is the request table. -/
def ckptOver (st : Status) (tu : Fin 2) (b : Byte) (rq : List Request) (s : State) : State :=
  joinReplies rq (coveredReplies st tu b s)
    (s.setCtl { s.ctl with ckpt := none, tableBuffer := none, waiters := s.ctl.waiters.filter (fun w => !w.covered) })

theorem checkpointFailure_eq (tu : Fin 2) (b : Byte) (final : Bool) (s : State) :
    ∃ rq, checkpointFailure tu b final s =
      finishShutdown (recordFinal final false (ckptOver .fault tu b rq (raise .tableFault tu.val s))) := by
  obtain ⟨rq, h⟩ := finishCheckpoints_eq .fault tu b (s.ctl.waiters.filter (·.covered))
    ((raise .tableFault tu.val (s.setCtl { s.ctl with ckpt := none, tableBuffer := none })).setCtl
      { s.ctl with ckpt := none, tableBuffer := none, waiters := s.ctl.waiters.filter (fun w => !w.covered) })
  exact ⟨rq, congrArg (fun t => finishShutdown (recordFinal final false t)) h⟩

theorem checkpointSuccess_eq (c : Ckpt) (k : Nat) (s : State) :
    ∃ rq, checkpointSuccess c k s = finishShutdown (recordFinal c.final true (ckptOver .ok c.tableUnit (BitVec.ofNat 8 k) rq
      (raise .checkpointDone (c.snapshot.seqNo % 65536)
        (s.setCtl { s.ctl with nextSlot := nextTableSlot k, seqNo := c.snapshot.seqNo })))) := by
  let base := raise .checkpointDone (c.snapshot.seqNo % 65536)
    (s.setCtl { s.ctl with nextSlot := nextTableSlot k, seqNo := c.snapshot.seqNo })
  obtain ⟨rq, h⟩ := finishCheckpoints_eq .ok c.tableUnit (BitVec.ofNat 8 k) (s.ctl.waiters.filter (·.covered))
    (base.setCtl { base.ctl with waiters := s.ctl.waiters.filter (fun w => !w.covered) })
  exact ⟨rq, congrArg
    (fun t : State => finishShutdown (recordFinal c.final true (t.setCtl { t.ctl with ckpt := none, tableBuffer := none }))) h⟩

theorem stopTimers_eq (s : State) : ∃ tr, allTimers.foldl (fun s t => stopTimer t s) s = { s with triggers := tr } ∧
    ∀ n, vget tr.timers n = { s.timer n with running := false, remaining := 0 } := by
  refine ⟨(allTimers.foldl (fun s t => stopTimer t s) s).triggers, rfl, fun n => ?_⟩
  change (allTimers.foldl (fun s t => stopTimer t s) s).timer n = _
  unfold allTimers
  simp only [List.foldl_cons, List.foldl_nil, stopTimer]
  fin_cases n <;> simp [State.setTimer, State.timer]

/-- The end of a checkpoint that was not the final one leaves SHUTDOWN alone. -/
theorem finishShutdown_other {s : State} (ho : s.ctl.shutdown.all (fun x => x.outcome.isNone) = true) (ok : Bool) :
    finishShutdown (recordFinal false ok s) = s := by
  have hr : recordFinal false ok s = s := if_neg Bool.false_ne_true
  rw [hr]
  unfold finishShutdown
  split
  · rfl
  · next x hx =>
    rw [hx] at ho
    rw [Option.isNone_iff_eq_none.1 ho]

/-- The end of the final checkpoint completes SHUTDOWN (R183). -/
theorem finishShutdown_final {s : State} {x : Shutdown} (hx : s.ctl.shutdown = some x) (ok : Bool) :
    ∃ rq tr, finishShutdown (recordFinal true ok s) =
        joinReplies rq [replyOf .shutdown x.tag (if ok then .ok else .fault) (n32 s.ctl.seqNo)]
          { s with ctl := { s.ctl with device := .halted, shutdown := none }, triggers := tr } ∧
      ∀ n, vget tr.timers n = { s.timer n with running := false, remaining := 0 } := by
  have hr : recordFinal true ok s = s.setCtl { s.ctl with shutdown := some { x with outcome := some ok } } := by
    unfold recordFinal
    rw [if_pos rfl, hx]
    rfl
  rw [hr]
  obtain ⟨tr, ht, htime⟩ := stopTimers_eq
    ((finishRequest .shutdown x.tag (if ok then .ok else .fault) (n32 s.ctl.seqNo) none
      (s.setCtl { s.ctl with shutdown := some { x with outcome := some ok } })).setCtl { s.ctl with device := .halted, shutdown := none })
  exact ⟨_, tr, ht, htime⟩

/-- Without a shutdown record the end of a checkpoint has nothing to complete. -/
theorem finishShutdown_none {s : State} (hx : s.ctl.shutdown = none) (final ok : Bool) : finishShutdown (recordFinal final ok s) = s := by
  have hr : recordFinal final ok s = s := by
    unfold recordFinal
    rw [hx]
    split
    · exact congrArg (fun o => s.setCtl { s.ctl with shutdown := o }) hx.symm
    · rfl
  rw [hr]
  unfold finishShutdown
  rw [hx]

/-! ## The end of a checkpoint -/

/-- What the end of the checkpoint `c` leaves, but for the port: its requests and SHUTDOWN completed with a status, and the map, the streams
and the buffers alone (R170, R171, R173, R183). -/
def ckptEnded (c : Ckpt) (s t : State) (st : Status) (seqNo : Nat) (slot : Byte) : Prop :=
  t.ctl.ckpt = none ∧ t.ctl.tableBuffer = none ∧ t.ctl.seqNo = seqNo ∧
  t.ctl.waiters = s.ctl.waiters.filter (fun w => !w.covered) ∧ t.map = s.map ∧ t.streams = s.streams ∧ t.bufs = s.bufs ∧
  (c.final = false → t.ctl.device = s.ctl.device ∧ t.ctl.shutdown = s.ctl.shutdown ∧ t.triggers = s.triggers ∧
    t.link.replies = s.link.replies ++ (s.ctl.waiters.filter (·.covered)).map
      (fun w => replyOf .checkpoint w.tag st (n32 seqNo ++ n8 c.tableUnit.val ++ [slot]))) ∧
  (c.final = true → ∀ x, s.ctl.shutdown = some x → t.ctl.device = .halted ∧ t.ctl.shutdown = none ∧
    (∀ n, t.timer n = { s.timer n with running := false, remaining := 0 }) ∧
    t.link.replies = s.link.replies ++ (s.ctl.waiters.filter (·.covered)).map
      (fun w => replyOf .checkpoint w.tag st (n32 seqNo ++ n8 c.tableUnit.val ++ [slot])) ++ [replyOf .shutdown x.tag st (n32 seqNo)])

/-- The end of a happening that never enters WORN keeps what `ckptEnded` speaks of. -/
theorem ckptEnded.settle {c : Ckpt} {s t : State} {st : Status} {seqNo : Nat} {slot : Byte} (h : ckptEnded c s t st seqNo slot)
    (hd : s.ctl.device = .ready → t.ctl.device ≠ .worn) : ckptEnded c s (settle s (t.setOp none)) st seqNo slot ∧
      (Machine.settle s (t.setOp none)).ctl.tableUnit = t.ctl.tableUnit ∧ (Machine.settle s (t.setOp none)).ctl.nextSlot = t.ctl.nextSlot := by
  have hs : Settled (t.setOp none) (Machine.settle s (t.setOp none)) := settle_settled fun ⟨hr, hw⟩ => hd hr hw
  generalize Machine.settle s (t.setOp none) = r at hs
  obtain ⟨hc, hr, -, -⟩ := hs
  have hctl := congrArg State.ctl hc
  have htr : r.triggers = t.triggers := (congrArg State.triggers hc :)
  obtain ⟨h1, h2, h3, h4, h5, h6, h7, h8, h9⟩ := h
  refine ⟨⟨(congrArg Ctl.ckpt hctl :).trans h1, (congrArg Ctl.tableBuffer hctl :).trans h2, (congrArg Ctl.seqNo hctl :).trans h3,
    (congrArg Ctl.waiters hctl :).trans h4, (congrArg State.map hc :).trans h5, (congrArg State.streams hc :).trans h6,
    (congrArg State.bufs hc :).trans h7, fun hf => ?_, fun hf x hx => ?_⟩, (congrArg Ctl.tableUnit hctl :), (congrArg Ctl.nextSlot hctl :)⟩
  · obtain ⟨ha, hb, hc', he⟩ := h8 hf
    exact ⟨(congrArg Ctl.device hctl :).trans ha, (congrArg Ctl.shutdown hctl :).trans hb, htr.trans hc', hr.trans he⟩
  · obtain ⟨ha, hb, hc', he⟩ := h9 hf x hx
    refine ⟨(congrArg Ctl.device hctl :).trans ha, (congrArg Ctl.shutdown hctl :).trans hb, fun n => ?_, hr.trans he⟩
    rw [← hc' n]
    exact congrArg (fun tr : Triggers => vget tr.timers n) htr

/-- Success and failure of a checkpoint come down to this: the requests and SHUTDOWN are completed in a state `u` that differs from `s` in
the array, the notices and the copy's place at most. -/
theorem ckptEnded_over {c : Ckpt} {s u : State} {n : Option Nat} {seqNo : Nat} (ok : Bool) (slot : Byte) (rq : List Request)
    (ho : s.ctl.shutdown.all (fun x => x.outcome.isNone) = true) (hc : u.ctl = { s.ctl with nextSlot := n, seqNo := seqNo })
    (hu : u.map = s.map ∧ u.streams = s.streams ∧ u.bufs = s.bufs ∧ u.triggers = s.triggers ∧ u.link = s.link) {t : State}
    (ht : t = finishShutdown (recordFinal c.final ok (ckptOver (if ok then .ok else .fault) c.tableUnit slot rq u))) :
    ckptEnded c s t (if ok then .ok else .fault) seqNo slot ∧ t.ctl.tableUnit = s.ctl.tableUnit ∧ t.ctl.nextSlot = n ∧
      (t.ctl.device = s.ctl.device ∨ t.ctl.device = .halted) := by
  obtain ⟨hm, hs, hb, htr, hl⟩ := hu
  have hrep : coveredReplies (if ok then Status.ok else Status.fault) c.tableUnit slot u = (s.ctl.waiters.filter (·.covered)).map
      (fun w => replyOf .checkpoint w.tag (if ok then .ok else .fault) (n32 seqNo ++ n8 c.tableUnit.val ++ [slot])) := by
    unfold coveredReplies
    rw [hc]
  generalize hst : (if ok then Status.ok else Status.fault) = st at hrep ht
  generalize hw : ckptOver st c.tableUnit slot rq u = w at ht
  have hwc : w.ctl = { s.ctl with
      nextSlot := n, seqNo := seqNo, ckpt := none, tableBuffer := none, waiters := s.ctl.waiters.filter (fun w => !w.covered) } := by
    rw [← hw]
    unfold ckptOver
    rw [hc]
    rfl
  have hwr : w.link.replies = s.link.replies ++ (s.ctl.waiters.filter (·.covered)).map
      (fun w => replyOf .checkpoint w.tag st (n32 seqNo ++ n8 c.tableUnit.val ++ [slot])) := by
    rw [← hw, ← hrep, ← hl]
    rfl
  have hwt : w.triggers = s.triggers := hw ▸ htr
  have hwm : w.map = s.map := hw ▸ hm
  have hws : w.streams = s.streams := hw ▸ hs
  have hwb : w.bufs = s.bufs := hw ▸ hb
  clear hw hm hs hb htr hl hc hrep
  have hplain : (c.final = true → s.ctl.shutdown = none) → ckptEnded c s w st seqNo slot ∧ w.ctl.tableUnit = s.ctl.tableUnit ∧
      w.ctl.nextSlot = n ∧ (w.ctl.device = s.ctl.device ∨ w.ctl.device = .halted) := fun hf => by
    unfold ckptEnded
    rw [hwc]
    exact ⟨⟨rfl, rfl, rfl, rfl, hwm, hws, hwb, fun _ => ⟨rfl, rfl, hwt, hwr⟩,
      fun h x hx => nomatch hx.symm.trans (hf h)⟩, rfl, rfl, .inl rfl⟩
  have hwo : w.ctl.shutdown = s.ctl.shutdown := (congrArg Ctl.shutdown hwc :)
  cases hx : s.ctl.shutdown with
  | none =>
    rw [ht, finishShutdown_none (hwo.trans hx)]
    exact hplain fun _ => hx
  | some x =>
    cases hf : c.final with
    | false =>
      rw [ht, hf, finishShutdown_other (hwo ▸ ho)]
      exact hplain fun h => nomatch hf.symm.trans h
    | true =>
      obtain ⟨rq', tr, he, htime⟩ := finishShutdown_final (hwo.trans hx) ok
      rw [ht, hf, he, hwc, hst]
      refine ⟨⟨rfl, rfl, rfl, rfl, hwm, hws, hwb,
        fun h => (nomatch hf.symm.trans h), fun _ y hy => ⟨rfl, rfl, fun k => ?_, ?_⟩⟩, rfl, rfl, .inr rfl⟩
      · rw [show s.timer k = w.timer k from congrArg (fun tr : Triggers => vget tr.timers k) hwt.symm]
        exact htime k
      · cases hx.symm.trans hy
        rw [← hwr]
        rfl

/-- The end of a checkpoint, from the report of its last operation on. -/
theorem ckptEnded_of_over {c : Ckpt} {s u : State} {n : Option Nat} {seqNo : Nat} (ok : Bool) (slot : Byte) (rq : List Request)
    (hd : s.deviceOk = true) (hc : u.ctl = { s.ctl with nextSlot := n, seqNo := seqNo })
    (hu : u.map = s.map ∧ u.streams = s.streams ∧ u.bufs = s.bufs ∧ u.triggers = s.triggers ∧ u.link = s.link) {t : State}
    (ht : t = finishShutdown (recordFinal c.final ok (ckptOver (if ok then .ok else .fault) c.tableUnit slot rq u))) :
    ckptEnded c s (settle s (t.setOp none)) (if ok then .ok else .fault) seqNo slot ∧
      (settle s (t.setOp none)).ctl.tableUnit = s.ctl.tableUnit ∧ (settle s (t.setOp none)).ctl.nextSlot = n := by
  have ho : s.ctl.shutdown.all (fun x => x.outcome.isNone) = true := by
    simp only [State.deviceOk, Bool.and_eq_true] at hd
    exact hd.2
  obtain ⟨he, htu, hn, hdev⟩ := ckptEnded_over ok slot rq ho hc hu ht
  obtain ⟨he', htu', hn'⟩ := he.settle fun hr hw => by
    rcases hdev with h | h
    · exact absurd (hr.symm.trans (h.symm.trans hw)) (by decide)
    · exact absurd (h.symm.trans hw) (by decide)
  exact ⟨he', htu'.trans htu, hn'.trans hn⟩

/-- A failed operation ends its checkpoint with FAULT (R171). -/
theorem ckptEnded_failure {c : Ckpt} {s u : State} {n : Option Nat} (slot : Byte) (hd : s.deviceOk = true)
    (hc : u.ctl = { s.ctl with nextSlot := n })
    (hu : u.map = s.map ∧ u.streams = s.streams ∧ u.bufs = s.bufs ∧ u.triggers = s.triggers ∧ u.link = s.link) {t : State}
    (ht : t = checkpointFailure c.tableUnit slot c.final u) :
    ckptEnded c s (settle s (t.setOp none)) .fault s.ctl.seqNo slot ∧
      (settle s (t.setOp none)).ctl.tableUnit = s.ctl.tableUnit ∧ (settle s (t.setOp none)).ctl.nextSlot = n := by
  obtain ⟨rq, h⟩ := checkpointFailure_eq c.tableUnit slot c.final u
  exact ckptEnded_of_over (u := raise .tableFault c.tableUnit.val u) false slot rq hd hc hu (ht.trans h)

/-- The commit page's program ends its checkpoint with OK (R170). -/
theorem ckptEnded_success {c : Ckpt} {s u : State} (k : Nat) (hd : s.deviceOk = true) (hc : u.ctl = s.ctl)
    (hu : u.map = s.map ∧ u.streams = s.streams ∧ u.bufs = s.bufs ∧ u.triggers = s.triggers ∧ u.link = s.link) {t : State}
    (ht : t = checkpointSuccess c k u) :
    ckptEnded c s (settle s (t.setOp none)) .ok c.snapshot.seqNo (BitVec.ofNat 8 k) ∧
      (settle s (t.setOp none)).ctl.tableUnit = s.ctl.tableUnit ∧ (settle s (t.setOp none)).ctl.nextSlot = nextTableSlot k := by
  obtain ⟨rq, h⟩ := checkpointSuccess_eq c k u
  refine ckptEnded_of_over (u := raise .checkpointDone (c.snapshot.seqNo % 65536)
    (u.setCtl { u.ctl with nextSlot := nextTableSlot k, seqNo := c.snapshot.seqNo })) true (BitVec.ofNat 8 k) rq hd ?_ hu (ht.trans h)
  rw [← hc]
  rfl

theorem finishShutdown_bit {s : State} {i : Nat} (final ok : Bool) (h : s.notices.pendingSet.getLsbD i = true) :
    (finishShutdown (recordFinal final ok s)).notices.pendingSet.getLsbD i = true :=
  (((Kept.refl s).recordFinal final ok).finishShutdown).pendingSet h

theorem checkpointFailure_bit (tu : Fin 2) (b : Byte) (final : Bool) (s : State) :
    (checkpointFailure tu b final s).notices.pendingSet.getLsbD 14 = true := by
  obtain ⟨rq, h⟩ := checkpointFailure_eq tu b final s
  rw [h]
  exact finishShutdown_bit _ _ (raise_bit .tableFault _ s)

theorem checkpointSuccess_bit (c : Ckpt) (k : Nat) (s : State) :
    (checkpointSuccess c k s).notices.pendingSet.getLsbD 13 = true := by
  obtain ⟨rq, h⟩ := checkpointSuccess_eq c k s
  rw [h]
  exact finishShutdown_bit _ _ (raise_bit .checkpointDone _ _)

theorem checkpointProgramEnd_eq {c : Ckpt} {k i : Nat} {s : State} (hc : s.ctl.ckpt = some c) (hk : c.tableSlot = some k)
    (hi : c.next = .page i) (pass : Bool) : checkpointProgramEnd pass s =
      if pass then
        if i < 5 then s.setCtl { s.ctl with ckpt := some { c with next := .page (i + 1) } } else checkpointSuccess c k s
      else checkpointFailure c.tableUnit (BitVec.ofNat 8 k) c.final (s.setCtl { s.ctl with nextSlot := nextTableSlot k }) := by
  unfold checkpointProgramEnd
  rw [hc]
  dsimp only
  rw [hk, hi]

theorem checkpointEraseEnd_eq {c : Ckpt} {s : State} (hc : s.ctl.ckpt = some c) (pass : Bool) : checkpointEraseEnd pass s =
      if pass then
        (s.setUnit (tableUnitId c.tableUnit)
          { s.unit (tableUnitId c.tableUnit) with
            eraseCount := satInc maxEraseCount (s.unit (tableUnitId c.tableUnit)).eraseCount }).setCtl { s.ctl with
          tableUnit := c.tableUnit
          nextSlot := some 0
          ckpt := some { c with tableSlot := some 0, next := .page 0 } }
      else checkpointFailure c.tableUnit 0xFF c.final s := by
  unfold checkpointEraseEnd
  rw [hc]
  rfl

theorem nextTableSlot_eq (k : Nat) : nextTableSlot k = if k < 7 then some (k + 1) else none := by
  unfold nextTableSlot tableSlots
  simp only [show k + 1 < 8 ↔ k < 7 by omega]

theorem settle_bit (a : State) {s : State} {i : Nat} (h : s.notices.pendingSet.getLsbD i = true) :
    (settle a (s.setOp none)).notices.pendingSet.getLsbD i = true := ((Kept.refl (s.setOp none)).settle a).pendingSet h

/-- Settles O52, operation by operation and outcome by outcome. -/
theorem checkpointOperationsEnd : Obligations.CheckpointOperationsEnd := by
  intro s c t0 hr hd hc u idle covered ended
  refine ⟨fun k i d hk hi hb ho => ?_, fun ho => ?_⟩
  · have hprog : pageToProgram ⟨.program, u, some (8 * k + i), .checkpointStep, some .tableBuffer, some .compute, t0⟩ s =
        ⟨d, tableTag (8 * k + i)⟩ := by
      unfold pageToProgram
      dsimp only
      rw [hb]
      rfl
    have hend : ∀ pass, programEnd pass ⟨.program, u, some (8 * k + i), .checkpointStep, some .tableBuffer, some .compute, t0⟩ s =
        (checkpointProgramEnd pass
          (slotEnded pass ⟨.program, u, some (8 * k + i), .checkpointStep, some .tableBuffer, some .compute, t0⟩ s)).setOp none :=
      fun pass => rfl
    refine ⟨fun hlt => ?_, fun hlast => ?_, ?_⟩
    · refine (exec_programDone hr ho rfl true).trans (congrArg (fun t => Host.Outcome.next (settle s t)) ?_)
      rw [hend]
      unfold slotEnded
      rw [if_pos rfl, hprog, checkpointProgramEnd_eq (s := s.writeSlot _ _ _) hc hk hi, if_pos rfl, if_pos hlt]
      rfl
    · have hs := slotProgrammed_programEnd (op := ⟨.program, u, some (8 * k + i), .checkpointStep, some .tableBuffer, some .compute, t0⟩)
        rfl rfl s
      rw [hprog] at hs
      have he := programEnd_engine true ⟨.program, u, some (8 * k + i), .checkpointStep, some .tableBuffer, some .compute, t0⟩ s
      refine ⟨_, exec_programDone hr ho rfl true, hs.1, ?_⟩
      rw [hend] at he ⊢
      unfold slotEnded at he ⊢
      rw [if_pos rfl, hprog, checkpointProgramEnd_eq (s := s.writeSlot _ _ _) hc hk hi, if_pos rfl, if_neg (by omega)] at he ⊢
      obtain ⟨h1, h2, h3⟩ := ckptEnded_success (c := c)
        (u := s.writeSlot u (8 * k + i) (programmedPage .compute ⟨d, tableTag (8 * k + i)⟩)) k hd rfl ⟨rfl, rfl, rfl, rfl, rfl⟩ rfl
      exact ⟨⟨he, h1⟩, h2, h3.trans (nextTableSlot_eq k), settle_bit s (checkpointSuccess_bit ..)⟩
    · have he := programEnd_engine false ⟨.program, u, some (8 * k + i), .checkpointStep, some .tableBuffer, some .compute, t0⟩ s
      refine ⟨_, exec_programDone hr ho rfl false, slotSpoiled_programEnd rfl s, ?_⟩
      rw [hend] at he ⊢
      rw [checkpointProgramEnd_eq (s := slotEnded false _ s) hc hk hi, if_neg Bool.false_ne_true] at he ⊢
      obtain ⟨h1, h2, h3⟩ := ckptEnded_failure (c := c) (n := nextTableSlot k)
        (u := (spoilSlot u (8 * k + i) s).setCtl { s.ctl with nextSlot := nextTableSlot k }) (BitVec.ofNat 8 k) hd rfl
        ⟨rfl, rfl, rfl, rfl, rfl⟩ rfl
      exact ⟨⟨he, h1⟩, h2, h3.trans (nextTableSlot_eq k), settle_bit s (checkpointFailure_bit ..)⟩
  · intro ru
    have hend : ∀ pass, eraseEnd pass ⟨.erase, u, none, .checkpointStep, none, none, t0⟩ s =
        (checkpointEraseEnd pass (unitEnded pass ⟨.erase, u, none, .checkpointStep, none, none, t0⟩ s)).setOp none := fun pass => rfl
    refine ⟨?_, ?_⟩
    · refine (exec_eraseDone hr ho rfl true).trans (congrArg (fun t => Host.Outcome.next (settle s t)) ?_)
      rw [hend, checkpointEraseEnd_eq (s := unitEnded true _ s) hc, if_pos rfl]
      rfl
    · have he := eraseEnd_engine false ⟨.erase, u, none, .checkpointStep, none, none, t0⟩ s
      refine ⟨_, exec_eraseDone hr ho rfl false, ?_⟩
      rw [hend, checkpointEraseEnd_eq (s := unitEnded false _ s) hc, if_neg Bool.false_ne_true] at he ⊢
      obtain ⟨h1, h2, h3⟩ := ckptEnded_failure (c := c) (n := s.ctl.nextSlot) (u := undefineUnit u s) 0xFF hd rfl
        ⟨rfl, rfl, rfl, rfl, rfl⟩ rfl
      exact ⟨⟨he, h1⟩, h2, h3, settle_bit s (checkpointFailure_bit ..)⟩

end Sys2Proof.Machine
end

section
/-!
PROOFS. The ends of data-unit erases (R161, R162): the free list's order, and what WORN entry leaves of the streams (R135).
-/
-- The theorems of this file are elaborated one after another: in parallel their waiting threads exceed the memory limit of the check.
set_option Elab.async false

namespace Sys2Proof.Machine

/-! ## The free list's order -/

/-- Insertion splits the list: the unit goes before the first unit that it precedes (R29). -/
theorem freeInsert_split (m : UnitMap) (u : UnitId) (l : List UnitId) :
    ∃ before after, l = before ++ after ∧ freeInsert m u l = before ++ u :: after ∧
      (∀ x ∈ before, ¬freeBefore m u x = true) ∧ (∀ x l, after = x :: l → freeBefore m u x = true) := by
  induction l with
  | nil => exact ⟨[], [], rfl, rfl, fun _ h => (nomatch h), fun _ _ h => (nomatch h)⟩
  | cons v l ih =>
    by_cases h : freeBefore m u v = true
    · refine ⟨[], v :: l, rfl, if_pos h, fun _ h => (nomatch h), fun x r e => ?_⟩
      cases e
      exact h
    · obtain ⟨b, a, hl, hi, hb, ha⟩ := ih
      refine ⟨v :: b, a, congrArg (v :: ·) hl, (if_neg h).trans (congrArg (v :: ·) hi), fun x hx => ?_, ha⟩
      rcases List.mem_cons.1 hx with e | hx
      · exact e ▸ h
      · exact hb x hx

/-- The order of the free list depends on the unit records alone. -/
theorem freeBefore_congr {m m' : UnitMap} (h : m.units = m'.units) (u v : UnitId) : freeBefore m u v = freeBefore m' u v := by
  unfold freeBefore
  rw [h]

theorem vset_vset {α : Type} {n : Nat} (v : Vector α n) (i : Fin n) (x y : α) : vset (vset v i x) i y = vset v i y :=
  Vector.set_set ..

/-! ## Checkpoint pending at the end of a happening -/

theorem chooseFrame_ctl (s : State) : (chooseFrame s).ctl = s.ctl := by
  unfold chooseFrame
  split
  · rfl
  · split
    · rfl
    · split <;> rfl

theorem transmitArrivals_ctl (s : State) : (transmitArrivals s).ctl = s.ctl := by
  unfold transmitArrivals
  split
  · split
    · dsimp only
      split
      · rfl
      · exact chooseFrame_ctl _
    · exact chooseFrame_ctl s
  · rfl

theorem settleStandAside_ctl (s : State) : (settleStandAside s).ctl = s.ctl := by
  unfold settleStandAside
  split <;> rfl

/-- The end of a happening sets checkpoint pending in SHUTTING_DOWN only (R183). -/
theorem settle_ckptPending {a s : State} (h : ¬(a.ctl.device = .ready ∧ s.ctl.device = .worn)) (hd : s.ctl.device ≠ .shuttingDown) :
    (settle a s).ctl.ckptPending = s.ctl.ckptPending := by
  have hw : settleWorn a s = s := if_neg h
  have hp : drainPending s = s := if_neg fun ⟨hd', _⟩ => hd hd'
  unfold settle
  rw [transmitArrivals_ctl, settleStandAside_ctl, hw, hp]

/-! ## FLUSH requests that complete -/

/-- FLUSH requests are completed in their order, and nothing else of the machine moves. -/
theorem finishFlushes_eq (status : Status) (l : List FlushWaiter) : ∀ s : State,
    ∃ rq, l.foldl (fun s w => finishFlush w status s) s =
      joinReplies rq (l.map fun w => replyOf .flush w.tag status (flushContents w.stream w.sealed s)) s := by
  induction l with
  | nil => exact fun s => ⟨s.link.requests, by unfold joinReplies; rw [List.map_nil, List.append_nil]; rfl⟩
  | cons w l ih =>
    intro s
    obtain ⟨rq, h⟩ := ih (finishFlush w status s)
    exact ⟨rq, h.trans (joinReplies_joinReplies ..)⟩

/-- The replies that complete the FLUSH requests of a stream (R114). -/
def flushReplies (st : StreamId) (status : Status) (s : State) : List Reply :=
  (s.bufs.flushWaiters.filter fun w => w.stream = st).map fun w => replyOf .flush w.tag status (flushContents w.stream w.sealed s)

theorem completeFlushes_eq (st : StreamId) (status : Status) (s : State) : ∃ rq, completeFlushes st status s =
    joinReplies rq (flushReplies st status s) (s.setFlushWaiters (s.bufs.flushWaiters.filter fun w => w.stream ≠ st)) :=
  finishFlushes_eq status _ (s.setFlushWaiters (s.bufs.flushWaiters.filter fun w => w.stream ≠ st))

/-! ## The discard of held pages -/

theorem completeFlushes_starvedList (st : StreamId) (status : Status) (s : State) :
    (completeFlushes st status s).bufs.starvedList = s.bufs.starvedList := by
  obtain ⟨rq, h⟩ := completeFlushes_eq st status s
  rw [h]
  rfl

theorem checkFlushes_starvedList (st : StreamId) (s : State) : (checkFlushes st s).bufs.starvedList = s.bufs.starvedList := by
  unfold checkFlushes
  split
  · exact completeFlushes_starvedList ..
  · rfl

theorem freeBuffer_starvedList (b : BufId) (s : State) : (freeBuffer b s).bufs.starvedList = s.bufs.starvedList := by
  unfold freeBuffer
  split <;> rfl

/-- Two stream records at the same stage of their run: the state and the cause of the last end. -/
def sameStage (a b : StreamRec) : Prop := b.state = a.state ∧ b.endCause = a.endCause

theorem sameStage.trans {a b c : StreamRec} (h1 : sameStage a b) (h2 : sameStage b c) : sameStage a c :=
  ⟨h2.1.trans h1.1, h2.2.trans h1.2⟩

theorem sameRun.stage {a b : StreamRec} (h : sameRun a b) : sameStage a b :=
  have e : _ = _ := h
  ⟨(congrArg StreamRec.state e :), (congrArg StreamRec.endCause e :)⟩

/-- A stream record that keeps its stage in place of the stream's own. -/
theorem sameStage_setStream {s : State} {st : StreamId} {r : StreamRec} (h : sameStage (s.stream st) r) (f : StreamId) :
    sameStage (s.stream f) ((s.setStream st r).stream f) := by
  rw [stream_setStream]
  split
  · next e => exact e ▸ h
  · exact ⟨rfl, rfl⟩

/-- The discard of a held page takes its stream off the starved list, and no stream changes the stage of its run (R107). -/
theorem discardHeld_facts (st : StreamId) (s : State) :
    (discardHeld st s).bufs.starvedList = s.bufs.starvedList.filter (· ≠ st) ∧
      ∀ f, sameStage (s.stream f) ((discardHeld st s).stream f) := by
  unfold discardHeld
  extract_lets s1 src s2
  have hl : s2.bufs.starvedList = s.bufs.starvedList.filter (· ≠ st) := rfl
  have hf : ∀ f, sameStage (s.stream f) (s2.stream f) := sameStage_setStream (s := s1) ⟨rfl, rfl⟩
  clear_value s2
  split
  · exact ⟨hl, hf⟩
  · next b _ =>
    extract_lets x s3
    have hl3 : s3.bufs.starvedList = s.bufs.starvedList.filter (· ≠ st) := hl
    have hf3 : ∀ f, sameStage (s.stream f) (s3.stream f) := fun f =>
      (hf f).trans (sameStage_setStream (s := s2) (r := { (s2.stream st).losePage with endPage := x }) ⟨rfl, rfl⟩ f)
    clear_value s3
    refine ⟨?_, fun f => (hf3 f).trans ?_⟩
    · rw [checkFlushes_starvedList, freeBuffer_starvedList]
      exact hl3
    · have h : RunStep (fun _ => False) s3 (checkFlushes st (freeBuffer b (raise .pageLost st.val s3))) :=
        (((RunStep.refl _ s3).raise ..).freeBuffer b).checkFlushes st
      exact (h.others f id).stage

/-- The discard of the pages of a list of streams empties the starved list of them. -/
theorem discardHeld_fold (l : List StreamId) : ∀ s : State,
    (∀ f, f ∈ (l.foldl (fun s st => discardHeld st s) s).bufs.starvedList → f ∈ s.bufs.starvedList ∧ f ∉ l) ∧
      ∀ f, sameStage (s.stream f) ((l.foldl (fun s st => discardHeld st s) s).stream f) := by
  induction l with
  | nil => exact fun s => ⟨fun f hf => ⟨hf, List.not_mem_nil⟩, fun f => ⟨rfl, rfl⟩⟩
  | cons x l ih =>
    intro s
    obtain ⟨hl, hst⟩ := discardHeld_facts x s
    obtain ⟨hl', hst'⟩ := ih (discardHeld x s)
    refine ⟨fun f hf => ?_, fun f => (hst f).trans (hst' f)⟩
    obtain ⟨hm, hn⟩ := hl' f hf
    obtain ⟨hm, hx⟩ : f ∈ s.bufs.starvedList ∧ f ≠ x := by simpa [hl] using hm
    exact ⟨hm, fun h => (List.mem_cons.1 h).elim hx hn⟩

/-- After the discard of every held page no stream is STARVED, and each is at the stage of its run where it was (R107). -/
theorem discardAllHeld_facts (s : State) : (discardAllHeld s).bufs.starvedList = [] ∧
    ∀ f, sameStage (s.stream f) ((discardAllHeld s).stream f) := by
  obtain ⟨hl, hst⟩ := discardHeld_fold s.bufs.starvedList s
  exact ⟨List.eq_nil_iff_forall_not_mem.2 fun f hf => (hl f hf).2 (hl f hf).1, hst⟩

/-! ## The end of every run with WORN -/

theorem starve_stage (st : StreamId) (b : BufId) (s : State) (f : StreamId) :
    sameStage (s.stream f) ((starve st b s).stream f) := by
  unfold starve
  extract_lets pb s1 r s2 s3
  have h2 : sameStage (s.stream f) (s2.stream f) := sameStage_setStream (s := s1) (r := { s1.stream st with starved := true }) ⟨rfl, rfl⟩ f
  have h3 : RunStep (fun _ => False) s2 (completeFlushes st .noSpace s3) :=
    (((RunStep.refl _ s2).setStarvedList _).raise ..).completeFlushes ..
  exact h2.trans (h3.others f id).stage

theorem placeSealed_stage (st : StreamId) (b : BufId) (x : Nat) (s : State) (f : StreamId) :
    sameStage (s.stream f) ((placeSealed st b x s).stream f) := by
  have hr : RunStep (fun _ => False) s s := .refl _ s
  unfold placeSealed
  split
  · exact (((hr.assignSlot _).enqueuePage ..).others f id).stage
  · split
    · next ha => exact ((((hr.allocateForCapture ha).assignSlot _).enqueuePage ..).others f id).stage
    · exact starve_stage ..

/-- A seal leaves every stream at the stage of its run. -/
theorem sealPage_stage (st : StreamId) (b : BufId) (s : State) (f : StreamId) :
    sameStage (s.stream f) ((sealPage st b s).stream f) := by
  unfold sealPage
  extract_lets r pb s1 s2
  have h2 : sameStage (s.stream f) (s2.stream f) := sameStage_setStream (s := s) (r := r.afterSeal) ⟨rfl, rfl⟩ f
  exact h2.trans (placeSealed_stage ..)

theorem closeFill_stage (st : StreamId) (s : State) (f : StreamId) : sameStage (s.stream f) ((closeFill st s).stream f) := by
  have hr : ∀ b, RunStep (fun _ => False) s (freeBuffer b (s.setFill st none)) := fun b => ((RunStep.refl _ s).setFill ..).freeBuffer b
  unfold closeFill
  split
  · exact ⟨rfl, rfl⟩
  · split
    · exact ((hr _).others f id).stage
    · unfold sealFill
      split
      · exact ((hr _).others f id).stage
      · exact sealPage_stage ..

theorem leaveRun_worn (st : StreamId) (s : State) : ((leaveRun st .worn s).stream st).state = .bound ∧
    ((leaveRun st .worn s).stream st).endCause = (s.stream st).endCause := by
  unfold leaveRun
  dsimp only
  rw [show ∀ (k : NoticeKind) (a : Nat) (t : State), (raise k a t).stream st = t.stream st from fun _ _ _ => rfl, stream_setStream, if_pos rfl]
  exact ⟨rfl, rfl⟩

/-- A run that ends with WORN leaves its stream BOUND, and starts no other (R57). -/
theorem endRun_worn (barred : List StreamId) (st : StreamId) (s : State) :
    ((endRun barred st .worn s).stream st).state = .bound ∧ ((endRun barred st .worn s).stream st).endCause = some .worn ∧
      ∀ f, f ≠ st → sameRun (s.stream f) ((endRun barred st .worn s).stream f) := by
  have hstep : RunStep (fun f => f = st) s (leaveRun st .worn (closeFill st (recordCause st .worn s))) :=
    (((RunStep.refl (fun f => f = st) s).recordCause st .worn rfl).closeFill st rfl).leaveRun st .worn rfl
  have hcause : ((recordCause st .worn s).stream st).endCause = some .worn := by
    unfold recordCause
    rw [stream_setStream, if_pos rfl]
  obtain ⟨hb, hc⟩ := leaveRun_worn st (closeFill st (recordCause st .worn s))
  have hw := hc.trans ((closeFill_stage st (recordCause st .worn s) st).2.trans hcause)
  unfold endRun
  dsimp only
  rw [if_neg fun ⟨ha, _⟩ => absurd (ha.symm.trans hb) (by decide)]
  exact ⟨hb, hw, fun f hf => hstep.others f hf⟩

/-- One turn of the end of all runs. -/
def wornTurn (barred : List StreamId) (s : State) (st : StreamId) : State :=
  if (s.stream st).state = .capturing then endRun barred st .worn s else s

/-- What the ends of runs with WORN leave of a stream: CAPTURING, it is BOUND with cause WORN; otherwise its stage stays (R57, R135). -/
def wornEnded (a b : StreamRec) : Prop :=
  (a.state = .capturing ∧ b.state = .bound ∧ b.endCause = some .worn) ∨ sameStage a b

theorem wornEnded.trans {a b c : StreamRec} (h1 : wornEnded a b) (h2 : wornEnded b c) : wornEnded a c := by
  rcases h1 with ⟨ha, hb, hw⟩ | h1
  · rcases h2 with ⟨hb', -⟩ | h2
    · exact absurd (hb.symm.trans hb') (by decide)
    · exact .inl ⟨ha, h2.1.trans hb, h2.2.trans hw⟩
  · rcases h2 with ⟨hb, h2⟩ | h2
    · exact .inl ⟨h1.1.symm.trans hb, h2⟩
    · exact .inr (h1.trans h2)

theorem wornTurn_ended (barred : List StreamId) (s : State) (st f : StreamId) :
    wornEnded (s.stream f) ((wornTurn barred s st).stream f) := by
  unfold wornTurn
  split
  · next hc =>
    obtain ⟨hb, hw, ho⟩ := endRun_worn barred st s
    by_cases e : f = st
    · subst e
      exact .inl ⟨hc, hb, hw⟩
    · exact .inr (ho f e).stage
  · exact .inr ⟨rfl, rfl⟩

/-- After its own turn a stream is not CAPTURING. -/
theorem wornTurn_self (barred : List StreamId) (s : State) (st : StreamId) : ((wornTurn barred s st).stream st).state ≠ .capturing := by
  unfold wornTurn
  split
  · obtain ⟨hb, -⟩ := endRun_worn barred st s
    rw [hb]
    decide
  · next h => exact h

theorem wornEnded.not_capturing {a b : StreamRec} (h : wornEnded a b) (ha : a.state ≠ .capturing) : b.state ≠ .capturing := by
  rcases h with ⟨hc, -⟩ | h
  · exact absurd hc ha
  · rw [h.1]
    exact ha

theorem wornTurns (barred : List StreamId) (l : List StreamId) (f : StreamId) : ∀ s : State,
    wornEnded (s.stream f) ((l.foldl (wornTurn barred) s).stream f) ∧
      (f ∈ l → ((l.foldl (wornTurn barred) s).stream f).state ≠ .capturing) := by
  induction l with
  | nil => exact fun s => ⟨.inr ⟨rfl, rfl⟩, fun h => nomatch h⟩
  | cons x l ih =>
    intro s
    obtain ⟨he, hm⟩ := ih (wornTurn barred s x)
    refine ⟨(wornTurn_ended barred s x f).trans he, fun h => ?_⟩
    rcases List.mem_cons.1 h with e | h
    · subst e
      exact he.not_capturing (wornTurn_self barred s f)
    · exact hm h

/-- A stream that is disarmed, or was not ARMED. -/
def disarmed (a b : StreamRec) : Prop := b.endCause = a.endCause ∧ (b.state = a.state ∨ (a.state = .armed ∧ b.state = .bound))

theorem disarm_disarmed (s : State) (st f : StreamId) : disarmed (s.stream f) ((disarm s st).stream f) := by
  unfold disarm
  split
  · next h =>
    rw [stream_setStream]
    split
    · next e =>
      subst e
      exact ⟨rfl, .inr ⟨h, rfl⟩⟩
    · exact ⟨rfl, .inl rfl⟩
  · exact ⟨rfl, .inl rfl⟩

theorem disarmed.trans {a b c : StreamRec} (h1 : disarmed a b) (h2 : disarmed b c) : disarmed a c := by
  obtain ⟨hc1, h1⟩ := h1
  obtain ⟨hc2, h2⟩ := h2
  refine ⟨hc2.trans hc1, ?_⟩
  rcases h1 with h1 | ⟨ha, hb⟩
  · rw [← h1]
    exact h2
  · rcases h2 with h2 | ⟨hb', -⟩
    · exact .inr ⟨ha, h2.trans hb⟩
    · exact absurd (hb.symm.trans hb') (by decide)

theorem disarm_self (s : State) (st : StreamId) : ((disarm s st).stream st).state ≠ .armed := by
  unfold disarm
  split
  · rw [stream_setStream, if_pos rfl]
    exact fun h => nomatch h
  · next h => exact h

theorem disarms (l : List StreamId) (f : StreamId) : ∀ s : State,
    disarmed (s.stream f) ((l.foldl disarm s).stream f) ∧ (f ∈ l → ((l.foldl disarm s).stream f).state ≠ .armed) := by
  induction l with
  | nil => exact fun s => ⟨⟨rfl, .inl rfl⟩, fun h => nomatch h⟩
  | cons x l ih =>
    intro s
    obtain ⟨he, hm⟩ := ih (disarm s x)
    refine ⟨(disarm_disarmed s x f).trans he, fun h => ?_⟩
    rcases List.mem_cons.1 h with e | h
    · subst e
      obtain ⟨-, h⟩ := he
      rcases h with h | ⟨ha, -⟩
      · exact fun hc => disarm_self s f (h.symm.trans hc)
      · exact absurd ha (disarm_self s f)
    · exact hm h

/-- WORN entry ends every run: a CAPTURING stream is BOUND with cause WORN, an ARMED one BOUND (R58, R135). -/
theorem endAllRuns_worn (s : State) (f : StreamId) :
    ((s.stream f).state = .capturing → ((endAllRuns .worn s).stream f).state = .bound ∧
      ((endAllRuns .worn s).stream f).endCause = some .worn) ∧
    ((s.stream f).state = .armed → ((endAllRuns .worn s).stream f).state = .bound) := by
  obtain ⟨he, hm⟩ := wornTurns (capturingNow s) allStreams f s
  obtain ⟨hd, ha⟩ := disarms allStreams f (allStreams.foldl (wornTurn (capturingNow s)) s)
  have heq : endAllRuns .worn s = allStreams.foldl disarm (allStreams.foldl (wornTurn (capturingNow s)) s) := rfl
  rw [heq]
  generalize allStreams.foldl (wornTurn (capturingNow s)) s = u at he hm hd ha
  generalize allStreams.foldl disarm u = v at hd ha
  have hm := hm (mem_allStreams f)
  have ha := ha (mem_allStreams f)
  obtain ⟨hcause, hd⟩ := hd
  refine ⟨fun hc => ?_, fun hc => ?_⟩
  · rcases he with ⟨-, hb, hw⟩ | he
    · rcases hd with hd | ⟨ha', -⟩
      · exact ⟨hd.trans hb, hcause.trans hw⟩
      · exact absurd (hb.symm.trans ha') (by decide)
    · exact absurd (he.1.trans hc) hm
  · rcases he with ⟨hc', -⟩ | he
    · exact absurd (hc.symm.trans hc') (by decide)
    · rcases hd with hd | ⟨-, hb⟩
      · exact absurd (hd.trans (he.1.trans hc)) ha
      · exact hb

/-- WORN entry's rest: no stream is STARVED any more, and every run has ended (R107, R135). -/
theorem enterWorn_facts (s : State) : (enterWorn s).bufs.starvedList = [] ∧ ∀ f,
    ((s.stream f).state = .capturing → ((enterWorn s).stream f).state = .bound ∧ ((enterWorn s).stream f).endCause = some .worn) ∧
    ((s.stream f).state = .armed → ((enterWorn s).stream f).state = .bound) := by
  have hw := endAllRuns_worn s
  unfold enterWorn
  generalize endAllRuns .worn s = u at hw ⊢
  obtain ⟨hl, hst⟩ := discardAllHeld_facts (noteHeld u)
  refine ⟨hl, fun f => ?_⟩
  obtain ⟨hs, hc⟩ := hst f
  obtain ⟨h1, h2⟩ := hw f
  exact ⟨fun h => ⟨hs.trans (h1 h).1, hc.trans (h1 h).2⟩, fun h => hs.trans (h2 h)⟩

/-! ## The end of a data-unit erase -/

theorem relieve_none {s : State} (h : s.bufs.starvedList = []) : relieve s = s := by
  unfold relieve
  rw [h]
  rfl

/-- The map after a data-unit erase with PASS (R29, R43, R161). -/
def erasedMap (u : UnitId) (s : State) : UnitMap :=
  let units := vset s.map.units u ⟨.free, min ((s.unit u).eraseCount + 1) 32767, none, none, 0, 0, false⟩
  { s.map with
    units := units
    freeList := freeInsert { s.map with units := units } u s.map.freeList
    erasesSince := min (s.map.erasesSince + 1) 65535 }

theorem eraseUnitPass_eq {u : UnitId} {s : State} (h : s.bufs.starvedList = []) : eraseUnitPass u s =
    if 32 ≤ s.map.erasesSince + 1 then { s with map := erasedMap u s, ctl := { s.ctl with ckptPending := true } }
    else { s with map := erasedMap u s } := by
  have hm : insertFree u (s.setUnit u { s.unit u with eraseCount := satInc maxEraseCount (s.unit u).eraseCount }) =
      { s with map := { erasedMap u s with erasesSince := s.map.erasesSince } } := by
    unfold insertFree erasedMap
    rw [State.setUnit_unit]
    unfold State.setUnit
    dsimp only
    rw [vset_vset]
    rfl
  have hn : erasesPerCheckpoint ≤ satInc max16 s.map.erasesSince ↔ 32 ≤ s.map.erasesSince + 1 := by
    unfold erasesPerCheckpoint satInc max16
    omega
  unfold eraseUnitPass
  extract_lets src v b
  have hb : b = { s with map := { erasedMap u s with erasesSince := s.map.erasesSince } } := hm
  clear_value b
  subst hb
  change relieve (if erasesPerCheckpoint ≤ satInc max16 s.map.erasesSince then _ else _) = _
  simp only [hn]
  split
  · exact relieve_none h
  · exact relieve_none h

/-- A data-unit erase with PASS, as the end of its happening leaves the map, the streams and the buffers (R161). -/
theorem settle_eraseUnitPass {u : UnitId} {a s : State} (h : s.bufs.starvedList = []) (hd : a.ctl.device = s.ctl.device) :
    let t := settle a ((eraseUnitPass u s).setOp none)
    t.map = erasedMap u s ∧ t.streams = s.streams ∧ t.bufs = s.bufs ∧ (32 ≤ s.map.erasesSince + 1 → t.ctl.ckptPending = true) ∧
      (s.map.erasesSince + 1 < 32 → s.ctl.device ≠ .shuttingDown → t.ctl.ckptPending = s.ctl.ckptPending) := by
  have he := eraseUnitPass_eq (u := u) h
  generalize hm : erasedMap u s = m at he
  have hmap : ((eraseUnitPass u s).setOp none).map = m := by rw [he]; split <;> rfl
  have hstr : ((eraseUnitPass u s).setOp none).streams = s.streams := by rw [he]; split <;> rfl
  have hbuf : ((eraseUnitPass u s).setOp none).bufs = s.bufs := by rw [he]; split <;> rfl
  have hdev : ((eraseUnitPass u s).setOp none).ctl.device = s.ctl.device := by rw [he]; split <;> rfl
  have hdue : 32 ≤ s.map.erasesSince + 1 → ((eraseUnitPass u s).setOp none).ctl.ckptPending = true := fun hc => by rw [he, if_pos hc]; rfl
  have hnot : s.map.erasesSince + 1 < 32 → ((eraseUnitPass u s).setOp none).ctl.ckptPending = s.ctl.ckptPending := fun hc => by
    rw [he, if_neg (Nat.not_le.2 hc)]
    rfl
  generalize (eraseUnitPass u s).setOp none = x at hmap hstr hbuf hdev hdue hnot ⊢
  have hne : ¬(a.ctl.device = .ready ∧ x.ctl.device = .worn) := fun ⟨hr, hw⟩ =>
    absurd ((hd.symm.trans hr).symm.trans (hdev.symm.trans hw)) (by decide)
  have hcore : (settle a x).core = x.core := (settle_settled hne).core
  exact ⟨(congrArg State.map hcore :).trans hmap, (congrArg State.streams hcore :).trans hstr, (congrArg State.bufs hcore :).trans hbuf,
    fun hc => ((Kept.refl _).settle a).ckptPending (hdue hc), fun hc hs => (settle_ckptPending hne (hdev ▸ hs)).trans (hnot hc)⟩

/-- What the record of a retirement leaves alone (R40). -/
theorem retireRecord_frame (u : UnitId) (s : State) : (retireRecord u s).map = retiredMap u s ∧
    (retireRecord u s).ctl.device = s.ctl.device ∧ (retireRecord u s).streams = s.streams ∧ (retireRecord u s).bufs = s.bufs :=
  ⟨rfl, rfl, rfl, rfl⟩

/-- The retirement of a unit whose erase has failed: its undefined slots do not show in the map (R9, R162). -/
theorem retireUndefined_frame (u : UnitId) (s : State) :
    (retireRecord u (undefineUnit u s)).map = retiredMap u s ∧ (retireRecord u (undefineUnit u s)).ctl.device = s.ctl.device ∧
      (retireRecord u (undefineUnit u s)).streams = s.streams ∧ (retireRecord u (undefineUnit u s)).bufs = s.bufs := by
  unfold undefineUnit
  generalize undefineSlots u s.freeUsed 0 slotsPerUnit s.array = m
  exact retireRecord_frame u { s with array := m, freeUsed := s.freeUsed + slotsPerUnit }

section

variable {s : State} {u : UnitId} (t0 : Time)

theorem eraseEnd_eraseProcess (pass : Bool) : eraseEnd pass ⟨.erase, u, none, .eraseProcess, none, none, t0⟩ s =
    (if pass then eraseUnitPass u (unitEnded pass ⟨.erase, u, none, .eraseProcess, none, none, t0⟩ s)
      else retire u (unitEnded pass ⟨.erase, u, none, .eraseProcess, none, none, t0⟩ s)).setOp none := rfl

/-- WORN entry by a failed erase: the device, the notices, the starved list and the streams (R41, R107, R135). -/
theorem eraseFail_worn (hc : s.map.retiredCount = 47) (hd : s.ctl.device = .ready) :
    let t := settle s (eraseEnd false ⟨.erase, u, none, .eraseProcess, none, none, t0⟩ s)
    t.ctl.device = .worn ∧ t.notices.pendingSet.getLsbD 9 = true ∧ t.bufs.starvedList = [] ∧
      ∀ f, ((s.stream f).state = .capturing → (t.stream f).state = .bound ∧ (t.stream f).endCause = some .worn) ∧
        ((s.stream f).state = .armed → (t.stream f).state = .bound) := by
  rw [eraseEnd_eraseProcess, if_neg Bool.false_ne_true]
  have hu : unitEnded false ⟨.erase, u, none, .eraseProcess, none, none, t0⟩ s = undefineUnit u s := rfl
  rw [hu, retire_worn (s := undefineUnit u s) hc hd]
  obtain ⟨-, -, hx, -⟩ := retireUndefined_frame u s
  generalize retireRecord u (undefineUnit u s) = x at hx
  have hdev : ((raise .worn 48 (x.setCtl { x.ctl with device := .worn })).setOp none).ctl.device = .worn := rfl
  have hbit : ((raise .worn 48 (x.setCtl { x.ctl with device := .worn })).setOp none).notices.pendingSet.getLsbD 9 = true :=
    raise_bit .worn 48 _
  have hstr : ∀ f, ((raise .worn 48 (x.setCtl { x.ctl with device := .worn })).setOp none).stream f = s.stream f := fun f =>
    congrArg (fun r => vget r f) hx
  generalize (raise .worn 48 (x.setCtl { x.ctl with device := .worn })).setOp none = v at hdev hbit hstr ⊢
  intro t
  have ht : Settled (enterWorn v) t := by
    have h := settled_after_worn s v
    unfold settleWorn at h
    rwa [if_pos ⟨hd, hdev⟩] at h
  have hout : t.outside = v.outside := settle_outside s v
  have hkept : Kept v t := (Kept.refl v).settle s
  clear_value t
  obtain ⟨hl, hf⟩ := enterWorn_facts v
  generalize enterWorn v = w at ht hl hf
  have hts : ∀ f, t.stream f = w.stream f := fun f => (congrArg (fun x => x.stream f) ht.core :)
  refine ⟨(congrArg (fun x => x.ctl.device) hout :).trans hdev, hkept.pendingSet hbit,
    (congrArg (fun x => x.bufs.starvedList) ht.core :).trans hl, fun f => ?_⟩
  rw [hts, ← hstr]
  exact hf f

/-- A failed erase short of WORN entry (R40, R162). -/
theorem eraseFail_plain (h : s.map.retiredCount ≠ 47 ∨ s.ctl.device ≠ .ready) :
    let t := settle s (eraseEnd false ⟨.erase, u, none, .eraseProcess, none, none, t0⟩ s)
    t.ctl.device = s.ctl.device ∧ t.map = retiredMap u s ∧ t.streams = s.streams ∧ t.bufs = s.bufs := by
  rw [eraseEnd_eraseProcess, if_neg Bool.false_ne_true]
  have hu : unitEnded false ⟨.erase, u, none, .eraseProcess, none, none, t0⟩ s = undefineUnit u s := rfl
  rw [hu, retire_plain (s := undefineUnit u s) h]
  obtain ⟨hmap, hdev, hstr, hbuf⟩ := retireUndefined_frame u s
  generalize retireRecord u (undefineUnit u s) = v at hdev hmap hstr hbuf ⊢
  intro t
  have hne : ¬(s.ctl.device = .ready ∧ (v.setOp none).ctl.device = .worn) := fun ⟨hr, hw⟩ =>
    absurd (hr.symm.trans (hdev.symm.trans hw)) (by decide)
  have hcore : t.core = (v.setOp none).core := (settle_settled hne).core
  clear_value t
  exact ⟨(congrArg (fun x => x.ctl.device) hcore :).trans hdev, (congrArg State.map hcore :).trans hmap,
    (congrArg State.streams hcore :).trans hstr, (congrArg State.bufs hcore :).trans hbuf⟩

end

/-- Settles O53: PASS, FAIL with WORN entry, and FAIL short of it. -/
theorem erasesEnd : Obligations.ErasesEnd := by
  intro s u t0 hr ho ru count
  refine ⟨fun hl => ?_, fun hc hd => ?_, fun h => ?_⟩
  · have harr := (opEnded_erase true ⟨.erase, u, none, .eraseProcess, none, none, t0⟩ s).array
    have heng := eraseEnd_engine true ⟨.erase, u, none, .eraseProcess, none, none, t0⟩ s
    have hex := exec_eraseDone hr ho rfl true
    rw [eraseEnd_eraseProcess, if_pos rfl] at harr heng hex
    generalize hv : unitEnded true ⟨.erase, u, none, .eraseProcess, none, none, t0⟩ s = v at harr heng hex
    obtain ⟨hm, hs, hb, hp, hp'⟩ := settle_eraseUnitPass (u := u) (a := s) (s := v) (hv ▸ hl) (hv ▸ rfl)
    have hvm : erasedMap u v = erasedMap u s := hv ▸ rfl
    rw [hvm] at hm
    have hfb : ∀ x, freeBefore (settle s ((eraseUnitPass u v).setOp none)).map u x =
        freeBefore { s.map with units := vset s.map.units u ⟨.free, count, none, none, 0, 0, false⟩ } u x :=
      freeBefore_congr (congrArg UnitMap.units hm :) u
    obtain ⟨before, after, hfl, hins, hbef, haft⟩ := freeInsert_split
      { s.map with units := vset s.map.units u ⟨.free, count, none, none, 0, 0, false⟩ } u s.map.freeList
    have hve : v.map.erasesSince = s.map.erasesSince ∧ v.ctl = s.ctl ∧ v.streams = s.streams ∧ v.bufs = s.bufs ∧
      v.array = s.array.eraseUnit u := hv ▸ ⟨rfl, rfl, rfl, rfl, rfl⟩
    obtain ⟨hes, hctl, hstr, hbuf, harray⟩ := hve
    rw [hes] at hp hp'
    rw [hctl] at hp'
    refine ⟨_, before, after, hex, heng, fun a => ?_, (congrArg UnitMap.units hm :), hfl, (congrArg UnitMap.freeList hm :).trans hins,
      fun x hx => hfb x ▸ hbef x hx, fun x l e => (hfb x).trans (haft x l e), (congrArg UnitMap.erasesSince hm :), hp, hp',
      (congrArg UnitMap.dirtyList hm :), hs.trans hstr, hb.trans hbuf⟩
    rw [harr, harray]
    split
    · next h => exact Memory.read_eraseUnit_self _ u h
    · next h => exact Memory.read_eraseUnit_ne _ u h
  · obtain ⟨hset, hcount, hck, hbit⟩ := eraseFail_retires (op := ⟨.erase, u, none, .eraseProcess, none, none, t0⟩) rfl s
    obtain ⟨hdev, hworn, hl, hf⟩ := eraseFail_worn (u := u) t0 hc hd
    exact ⟨_, exec_eraseDone hr ho rfl false, eraseEnd_engine .., hdev, hworn, hbit, hset, hcount.trans (congrArg (· + 1) hc), hck, hl,
      fun a ha => eraseFail_array _ s ha, hf⟩
  · obtain ⟨hset, hcount, hck, hbit⟩ := eraseFail_retires (op := ⟨.erase, u, none, .eraseProcess, none, none, t0⟩) rfl s
    obtain ⟨hdev, hm, hs, hb⟩ := eraseFail_plain (u := u) t0 h
    exact ⟨_, exec_eraseDone hr ho rfl false, eraseEnd_engine .., hdev, fun a ha => eraseFail_array _ s ha,
      (congrArg UnitMap.units hm :), (congrArg UnitMap.freeList hm :), (congrArg UnitMap.dirtyList hm :), hset, hcount, hck, hbit, hs, hb⟩

end Sys2Proof.Machine
end

section
/-!
PROOFS. The ends of the program queue's programs (R110, R111, R117): the freed buffer, the FLUSH requests that complete, and the abandonment
of a relocation that finds no target (R127).
-/
-- The theorems of this file are elaborated one after another: in parallel their waiting threads exceed the memory limit of the check.
set_option Elab.async false

namespace Sys2Proof.Machine

/-! ## A freed buffer and the FLUSH requests -/

theorem freeBuffer_frame (b : BufId) (s : State) :
    (freeBuffer b s).map = s.map ∧ (freeBuffer b s).link = s.link ∧ (freeBuffer b s).ctl = s.ctl ∧ (freeBuffer b s).reloc = s.reloc ∧
      (freeBuffer b s).bufs.queue = s.bufs.queue ∧ (freeBuffer b s).bufs.held = s.bufs.held ∧
      (freeBuffer b s).bufs.flushWaiters = s.bufs.flushWaiters := by
  unfold freeBuffer
  split
  · simp [grantBuffer, takeFill, State.setFill, State.setBuf, State.setBufWaits]
  · simp [State.setPool, State.setBuf]

theorem freeBuffer_sameRun (b : BufId) (s : State) (f : StreamId) : sameRun (s.stream f) ((freeBuffer b s).stream f) :=
  ((RunStep.refl (fun _ => False) s).freeBuffer b).others f id

/-- With no stream waiting the buffer joins the pool (R93). -/
theorem freeBuffer_pool {b : BufId} {s : State} (h : s.bufs.waitList = []) :
    (freeBuffer b s).bufs.pool = s.bufs.pool ++ [b] ∧ (freeBuffer b s).buf b = PageBuf.empty := by
  unfold freeBuffer
  rw [h]
  exact ⟨rfl, vget_vset_self ..⟩

/-- The head of the wait list takes the buffer (R93, R96). -/
theorem freeBuffer_grant {b : BufId} {s : State} {f : StreamId} {l : List StreamId} (h : s.bufs.waitList = f :: l) :
    (freeBuffer b s).bufs.pool = s.bufs.pool ∧ (freeBuffer b s).bufs.waitList = l ∧ (freeBuffer b s).fillBuf f = some b ∧
      ((freeBuffer b s).stream f).overrun = false := by
  unfold freeBuffer
  rw [h]
  refine ⟨rfl, rfl, vget_vset_self .., ?_⟩
  unfold grantBuffer
  rw [stream_setStream, if_pos rfl]

theorem flushReplies_eq (st : StreamId) (status : Status) (s : State) : flushReplies st status s =
    (s.bufs.flushWaiters.filter fun w => w.stream = st).map fun w => replyOf .flush w.tag status
      (n8 st.val ++ [streamStateCode (s.stream st).state] ++ b8 w.sealed ++ n32 (s.stream st).endPage) := by
  refine List.map_congr_left fun w hw => ?_
  have h : w.stream = st := by simpa using (List.mem_filter.1 hw).2
  unfold flushContents
  rw [h]

/-- The FLUSH requests of a stream complete when it has no page in flight, and nothing else of the machine moves (R114). -/
theorem checkFlushes_eq (st : StreamId) (s : State) : ∃ rq, checkFlushes st s = joinReplies rq
    ((s.bufs.flushWaiters.filter fun w => w.stream = st ∧ (s.stream st).inFlight = 0).map fun w => replyOf .flush w.tag .ok
      (n8 st.val ++ [streamStateCode (s.stream st).state] ++ b8 w.sealed ++ n32 (s.stream st).endPage))
    (s.setFlushWaiters (s.bufs.flushWaiters.filter fun w => ¬(w.stream = st ∧ (s.stream st).inFlight = 0))) := by
  by_cases h : (s.stream st).inFlight = 0
  · obtain ⟨rq, he⟩ := completeFlushes_eq st .ok s
    refine ⟨rq, (if_pos h).trans (he.trans ?_)⟩
    rw [flushReplies_eq]
    simp only [h, and_true]
  · refine ⟨s.link.requests, (if_neg h).trans ?_⟩
    simp only [h, and_false, decide_false, List.filter_false, List.map_nil, not_false_eq_true, decide_true, List.filter_true]
    unfold joinReplies
    rw [List.append_nil]
    rfl

/-! ## PASS -/

/-- The state of a program that passed, with its buffer still in hand (R110). -/
def passed (e : QueueEntry) (s : State) : State :=
  (dropEntry e.buf (advanceProgrammed e.unit s)).setStream e.stream
    { s.stream e.stream with inFlight := (s.stream e.stream).inFlight - 1 }

theorem queuePass_eq (e : QueueEntry) (s : State) : queuePass e s = checkFlushes e.stream (freeBuffer e.buf (passed e s)) := rfl

theorem queueProgramEnd_eq {op : Operation} {b : BufId} {e : QueueEntry} {s : State} (hb : op.buffer = some (.pageBuffer b))
    (he : s.bufs.queue.find? (fun x => x.buf = b) = some e) (pass : Bool) :
    queueProgramEnd pass op s = if pass then queuePass e s else queueFail e s := by
  unfold queueProgramEnd
  rw [hb]
  dsimp only
  rw [he]

theorem programEnd_queue {op : Operation} {b : BufId} {e : QueueEntry} {s : State} (hq : op.requester = .programQueue)
    (hb : op.buffer = some (.pageBuffer b)) (he : s.bufs.queue.find? (fun x => x.buf = b) = some e) (pass : Bool) :
    programEnd pass op s = (if pass then queuePass e (slotEnded pass op s) else queueFail e (slotEnded pass op s)).setOp none := by
  have he' : (slotEnded pass op s).bufs.queue.find? (fun x => x.buf = b) = some e := by cases pass <;> exact he
  rw [programEnd_eq]
  unfold handleProgram
  rw [hq]
  dsimp only
  rw [queueProgramEnd_eq hb he']

theorem tagFlags_byte : ∀ a b : Bool, tagFlags a b false false &&& 0x0F = BitVec.ofNat 8 (a.toNat + 2 * b.toNat) := by decide

/-- The end of a program that passed, as the end of its happening leaves the machine (R27, R93, R110, R114). -/
theorem settle_queuePass (e : QueueEntry) {a s : State} (hd : a.ctl.device = s.ctl.device) (t : State)
    (ht : t = settle a ((queuePass e s).setOp none)) :
    t.map = (passed e s).map ∧ t.bufs.queue = s.bufs.queue.filter (fun x => x.buf ≠ e.buf) ∧
      (∀ f, sameRun ((passed e s).stream f) (t.stream f)) ∧
      (s.bufs.waitList = [] → t.bufs.pool = s.bufs.pool ++ [e.buf] ∧ t.buf e.buf = PageBuf.empty) ∧
      (∀ f l, s.bufs.waitList = f :: l → t.bufs.pool = s.bufs.pool ∧ t.bufs.waitList = l ∧ t.fillBuf f = some e.buf ∧
        (t.stream f).overrun = false) ∧
      t.bufs.flushWaiters = s.bufs.flushWaiters.filter (fun w => ¬(w.stream = e.stream ∧ (s.stream e.stream).inFlight ≤ 1)) ∧
      t.link.replies = s.link.replies ++
        (s.bufs.flushWaiters.filter (fun w => w.stream = e.stream ∧ (s.stream e.stream).inFlight ≤ 1)).map (fun w => replyOf .flush w.tag .ok
          (n8 e.stream.val ++ [streamStateCode (s.stream e.stream).state] ++ b8 w.sealed ++ n32 (s.stream e.stream).endPage)) := by
  have hp : (passed e s).stream e.stream = { s.stream e.stream with inFlight := (s.stream e.stream).inFlight - 1 } := by
    unfold passed
    rw [stream_setStream, if_pos rfl]
  obtain ⟨hm, hl, hc, -, hq, -, hfw⟩ := freeBuffer_frame e.buf (passed e s)
  have hrun := freeBuffer_sameRun e.buf (passed e s)
  have hpool := freeBuffer_pool (b := e.buf) (s := passed e s)
  have hgrant := fun f l => freeBuffer_grant (b := e.buf) (s := passed e s) (f := f) (l := l)
  rw [queuePass_eq] at ht
  generalize freeBuffer e.buf (passed e s) = x at *
  have hin : (x.stream e.stream).inFlight = 0 ↔ (s.stream e.stream).inFlight ≤ 1 := by
    have h : _ = _ := hrun e.stream
    rw [show (x.stream e.stream).inFlight = (s.stream e.stream).inFlight - 1 from
      (congrArg StreamRec.inFlight h :).trans (congrArg StreamRec.inFlight hp :)]
    omega
  have hstate : (x.stream e.stream).state = (s.stream e.stream).state := (hrun e.stream).state.trans (congrArg StreamRec.state hp :)
  have hend : (x.stream e.stream).endPage = (s.stream e.stream).endPage := by
    have h : _ = _ := hrun e.stream
    exact (congrArg StreamRec.endPage h :).trans (congrArg StreamRec.endPage hp :)
  have hxl : x.link.replies = s.link.replies := congrArg Link.replies hl
  have hxw : x.bufs.flushWaiters = s.bufs.flushWaiters := hfw
  have hxc : x.ctl.device = s.ctl.device := congrArg Ctl.device hc
  obtain ⟨rq, he⟩ := checkFlushes_eq e.stream x
  simp only [hin, hstate, hend, hxw] at he
  rw [he] at ht
  have hs := settle_settled (a := a) (s := (joinReplies rq
    ((s.bufs.flushWaiters.filter fun w => w.stream = e.stream ∧ (s.stream e.stream).inFlight ≤ 1).map fun w => replyOf .flush w.tag .ok
      (n8 e.stream.val ++ [streamStateCode (s.stream e.stream).state] ++ b8 w.sealed ++ n32 (s.stream e.stream).endPage))
    (x.setFlushWaiters (s.bufs.flushWaiters.filter fun w => ¬(w.stream = e.stream ∧ (s.stream e.stream).inFlight ≤ 1)))).setOp none)
    fun ⟨hr, hw⟩ => absurd (hr.symm.trans (hd.trans (hxc.symm.trans hw))) (by decide)
  rw [← ht] at hs
  have hcore := hs.core
  have hstr : ∀ f, t.stream f = x.stream f := fun f => (congrArg (fun y : State => y.stream f) hcore :)
  refine ⟨(congrArg State.map hcore :).trans hm, (congrArg (fun y : State => y.bufs.queue) hcore :).trans hq,
    fun f => by rw [hstr]; exact hrun f, fun h => ?_, fun f l h => ?_, (congrArg (fun y : State => y.bufs.flushWaiters) hcore :), ?_⟩
  · obtain ⟨h1, h2⟩ := hpool h
    exact ⟨(congrArg (fun y : State => y.bufs.pool) hcore :).trans h1, (congrArg (fun y : State => y.buf e.buf) hcore :).trans h2⟩
  · obtain ⟨h1, h2, h3, h4⟩ := hgrant f l h
    exact ⟨(congrArg (fun y : State => y.bufs.pool) hcore :).trans h1, (congrArg (fun y : State => y.bufs.waitList) hcore :).trans h2,
      (congrArg (fun y : State => y.fillBuf f) hcore :).trans h3, by rw [hstr]; exact h4⟩
  · rw [hs.replies, ← hxl]
    rfl

/-! ## What an abandonment moves of its stream -/

/-- What an abandonment concerns of its stream, and of the machine around it (R127): the stream record but for OVERRUN, its entries of the
queue, its held page, whether it is STARVED, its chain, and the FLUSH requests, the replies, the device state, the retired count and the
relocations. -/
structure StreamView where
  run : StreamRec
  queue : List QueueEntry
  held : Option BufId
  starved : Bool
  chain : List UnitId
  flushWaiters : List FlushWaiter
  replies : List Reply
  device : DeviceState
  retiredCount : Nat
  relocations : Option Reloc × List RelocWait

/-- A stream of the model's state as an abandonment sees it. -/
def streamView (st : StreamId) (s : State) : StreamView where
  run := { s.stream st with overrun := false }
  queue := s.bufs.queue.filter fun e => e.stream = st
  held := s.heldBuf st
  starved := decide (st ∈ s.bufs.starvedList)
  chain := s.chain st
  flushWaiters := s.bufs.flushWaiters
  replies := s.link.replies
  device := s.ctl.device
  retiredCount := s.map.retiredCount
  relocations := (s.reloc.current, s.reloc.waitList)

section

variable {st : StreamId} {s t : State}

theorem streamView_congr (hr : sameRun (s.stream st) (t.stream st))
    (hq : (t.bufs.queue.filter fun e => e.stream = st) = s.bufs.queue.filter fun e => e.stream = st := by rfl)
    (hh : t.heldBuf st = s.heldBuf st := by rfl) (hs : (st ∈ t.bufs.starvedList) = (st ∈ s.bufs.starvedList) := by rfl)
    (hc : t.chain st = s.chain st := by rfl) (hf : t.bufs.flushWaiters = s.bufs.flushWaiters := by rfl)
    (hl : t.link.replies = s.link.replies := by rfl) (hd : t.ctl.device = s.ctl.device := by rfl)
    (hn : t.map.retiredCount = s.map.retiredCount := by rfl)
    (ho : t.reloc = s.reloc := by rfl) : streamView st t = streamView st s := by
  have hr : _ = _ := hr
  unfold streamView
  simp only [hr, hq, hh, hs, hc, hf, hl, hd, hn, ho]

theorem streamView_freeBuffer (b : BufId) (s : State) : streamView st (freeBuffer b s) = streamView st s := by
  have hs := freeBuffer_starvedList b s
  obtain ⟨hm, hl, hc, ho, hq, hh, hf⟩ := freeBuffer_frame b s
  have hr := freeBuffer_sameRun b s st
  generalize freeBuffer b s = t at *
  exact streamView_congr hr (by rw [hq]) (congrArg (fun v => vget v st) hh) (by rw [hs]) (congrArg (fun m : UnitMap => vget m.chains st) hm)
    hf (congrArg Link.replies hl) (congrArg Ctl.device hc)
    (congrArg UnitMap.retiredCount hm) ho

theorem streamView_setStream (r : StreamRec) (s : State) :
    streamView st (s.setStream st r) = { streamView st s with run := { r with overrun := false } } := by
  unfold streamView
  rw [stream_setStream, if_pos rfl]
  rfl

theorem sameRun_setStream_ne {f : StreamId} (h : f ≠ st) (r : StreamRec) (s : State) :
    sameRun (s.stream st) ((s.setStream f r).stream st) := by
  rw [stream_setStream, if_neg h]
  exact .refl _

theorem streamView_setStream_ne {f : StreamId} (h : f ≠ st) (r : StreamRec) (s : State) :
    streamView st (s.setStream f r) = streamView st s := streamView_congr (sameRun_setStream_ne h r s)

theorem streamView_raise (k : NoticeKind) (a : Nat) (s : State) : streamView st (raise k a s) = streamView st s := rfl

theorem streamView_losePage (b : BufId) (s : State) :
    streamView st (losePage st b s) = { streamView st s with run := (streamView st s).run.losePage } := by
  unfold losePage
  rw [streamView_freeBuffer, streamView_setStream]
  rfl

theorem streamView_losePages (l : List QueueEntry) : ∀ s : State,
    streamView st (l.foldl (fun s e => losePage st e.buf s) s) =
      { streamView st s with run := StreamRec.losePage^[l.length] (streamView st s).run } := by
  induction l with
  | nil => exact fun s => rfl
  | cons x l ih =>
    intro s
    rw [List.foldl_cons, ih, streamView_losePage]
    rfl

/-- Step 3 of an abandonment, for its stream: as many pages are lost as were sealed (R127). -/
theorem streamView_discardStreamPages (b : BufId) (s : State) : streamView st (discardStreamPages st b s) =
    { streamView st s with
      run := StreamRec.losePage^[1 + (streamView st s).queue.length + (streamView st s).held.toList.length] (streamView st s).run
      queue := []
      held := none } := by
  unfold discardStreamPages
  extract_lets entries s1 s2 s3
  have hlen : entries.length = (streamView st s).queue.length := rfl
  have h1 : streamView st s1 = { streamView st s with run := (streamView st s).run.losePage, queue := [] } := by
    have hq : streamView st (s.setQueue (s.bufs.queue.filter fun e => e.stream ≠ st)) = { streamView st s with queue := [] } := by
      unfold streamView
      congr 1
      simp [State.setQueue, List.filter_filter]
    exact (streamView_losePage ..).trans (by rw [hq])
  have h2 : streamView st s2 = { streamView st s with
      run := StreamRec.losePage^[1 + entries.length] (streamView st s).run, queue := [] } := by
    refine (streamView_losePages entries s1).trans ?_
    rw [h1, Nat.add_comm, Function.iterate_succ_apply]
  clear_value s2
  have hheld : s2.heldBuf st = (streamView st s).held := (congrArg StreamView.held h2 :)
  have h3 : streamView st s3 = { streamView st s with
      run := StreamRec.losePage^[1 + entries.length + (streamView st s).held.toList.length] (streamView st s).run
      queue := [], held := none } := by
    unfold s3
    rw [hheld]
    cases hv : (streamView st s).held with
    | none =>
      refine h2.trans ?_
      dsimp only
      rw [hv]
      rfl
    | some b' =>
      have hh : streamView st (s2.setHeld st none) = { streamView st s2 with held := none } := by
        unfold streamView
        congr 1
        exact vget_vset_self ..
      refine (streamView_losePage ..).trans ?_
      rw [hh, h2]
      exact congrArg (fun r => ({ streamView st s with run := r, queue := [], held := none } : StreamView))
        (Function.iterate_succ_apply' ..).symm
  rw [← hlen, ← h3]
  clear_value s3
  split
  · exact streamView_freeBuffer _ (s3.setFill st none)
  · rfl

/-- Step 2 of an abandonment, for its stream (R50, R127). -/
theorem streamView_faultStream (s : State) : streamView st (faultStream st s) =
    { streamView st s with run := { (streamView st s).run with
        state := .faulted, endCause := if (s.stream st).state = .capturing then some .fault else (s.stream st).endCause } } := by
  unfold faultStream
  split
  · unfold endRunFault leaveRun recordCause
    dsimp only
    rw [streamView_raise, streamView_setStream]
    rw [show ∀ (x : State) (l : List StreamId), (x.setBufWaits l).stream st = x.stream st from fun _ _ => rfl, stream_setStream, if_pos rfl]
    change ({ streamView st (s.setStream st _) with run := _ } : StreamView) = _
    rw [streamView_setStream]
    rfl
  · rw [streamView_setStream]
    rfl

theorem streamView_insertFree (u : UnitId) (s : State) : streamView st (insertFree u s) = streamView st s := rfl

theorem streamView_insertFrees (l : List UnitId) : ∀ s : State, streamView st (l.foldl (fun s v => insertFree v s) s) = streamView st s := by
  induction l with
  | nil => exact fun s => rfl
  | cons x l ih => exact fun s => (ih (insertFree x s)).trans (streamView_insertFree x s)

/-- A retirement short of WORN entry. -/
theorem streamView_retire {u : UnitId} (h : s.map.retiredCount ≠ 47 ∨ s.ctl.device ≠ .ready) :
    streamView st (retire u s) = { streamView st s with retiredCount := s.map.retiredCount + 1 } := by
  rw [retire_plain h]
  rfl

theorem streamView_takeFree (u : UnitId) (rest : List UnitId) (us : UnitState) (owner : StreamId) (first : Nat) (s : State) :
    streamView st (takeFree u rest us owner first s) = streamView st s := by
  unfold takeFree
  dsimp only
  split <;> rfl

theorem streamView_setChain_ne {f : StreamId} (h : f ≠ st) (l : List UnitId) (s : State) :
    streamView st (s.setChain f l) = streamView st s :=
  streamView_congr (.refl _) (hc := vget_vset_ne _ _ h)

theorem streamView_allocate {f : StreamId} {x : Nat} {u : UnitId} (h : f ≠ st) (ha : allocateForCapture f x s = some (u, t)) :
    streamView st t = streamView st s := by
  unfold allocateForCapture at ha
  split at ha
  · cases ha
  · split at ha
    · cases ha
      rw [streamView_setChain_ne h, streamView_takeFree]
    · cases ha

theorem streamView_assignSlot (u : UnitId) (s : State) : streamView st (assignSlot u s) = streamView st s := rfl

theorem streamView_enqueuePage {f : StreamId} (h : f ≠ st) (b : BufId) (u : UnitId) (k x : Nat) (s : State) :
    streamView st (enqueuePage f b u k x s) = streamView st s :=
  streamView_congr (.refl _) (hq := by simp [enqueuePage, State.setQueue, State.setBuf, h])

theorem streamView_setHeld_ne {f : StreamId} (h : f ≠ st) (b : Option BufId) (s : State) :
    streamView st (s.setHeld f b) = streamView st s := streamView_congr (.refl _) (hh := vget_vset_ne _ _ h)

theorem streamView_askBuffer {f : StreamId} (h : f ≠ st) (s : State) : streamView st (askBuffer f s) = streamView st s := by
  unfold askBuffer takeFill
  split
  · exact streamView_congr (.refl _)
  · exact streamView_setStream_ne h _ _

/-- The relief of another stream (R106). -/
theorem streamView_relieveOne {f : StreamId} (h : f ≠ st) (s : State) : streamView st (relieveOne f s) = streamView st s := by
  unfold relieveOne
  extract_lets s1
  have h1 : streamView st s1 = streamView st s := streamView_congr (.refl _) (hs := by simp [s1, State.setStarvedList, h.symm])
  clear_value s1
  rw [← h1]
  split
  · rfl
  · extract_lets x
    split
    · rfl
    · next ha =>
      extract_lets s3 src s4
      have h3 : streamView st s3 = streamView st s1 := by
        refine (streamView_enqueuePage h ..).trans ((streamView_setHeld_ne h ..).trans ?_)
        exact (streamView_assignSlot ..).trans (streamView_allocate h ha)
      have h4 : streamView st s4 = streamView st s1 := (streamView_setStream_ne h ..).trans h3
      clear_value s4
      rw [← h4]
      split
      · exact streamView_askBuffer h _
      · rfl

theorem streamView_relieveList (l : List StreamId) : ∀ s : State, st ∉ l → streamView st (relieveList l s) = streamView st s := by
  induction l with
  | nil => exact fun s _ => rfl
  | cons x l ih =>
    intro s h
    obtain ⟨hx, hl⟩ := List.ne_and_not_mem_of_not_mem_cons h
    unfold relieveList
    split
    · exact (ih _ hl).trans (streamView_relieveOne (Ne.symm hx) s)
    · rfl

/-- Starved relief leaves a stream that is not STARVED alone (R36). -/
theorem streamView_relieve (h : (streamView st s).starved = false) : streamView st (relieve s) = streamView st s :=
  streamView_relieveList _ s (of_decide_eq_false h)

/-- The chain that an abandonment leaves (R39). -/
theorem chainUpTo_filter (u : UnitId) (l : List UnitId) : (chainUpTo u l).filter (· ≠ u) = l.takeWhile (· ≠ u) := by
  have h : (l.takeWhile (· ≠ u)).filter (· ≠ u) = l.takeWhile (· ≠ u) :=
    List.filter_eq_self.2 fun _ hx => by simpa using List.mem_takeWhile_imp hx
  unfold chainUpTo
  rw [List.filter_append, h]
  simp

theorem streamView_setChain (l : List UnitId) (s : State) :
    streamView st (s.setChain st l) = { streamView st s with chain := l } := by
  unfold streamView
  congr 1
  exact vget_vset_self ..

/-- The unit map's part of an abandonment, for its stream, short of WORN entry (R39). -/
theorem streamView_truncateChain {u : UnitId} {p : Nat} (h : (streamView st s).retiredCount ≠ 47 ∨ p ≠ 0)
    (hs : (streamView st s).starved = false) :
    streamView st (truncateChain st u p s) = { streamView st s with
      chain := (streamView st s).chain.takeWhile (· ≠ u) ++ if p = 0 then [] else [u]
      retiredCount := (streamView st s).retiredCount + if p = 0 then 1 else 0 } := by
  unfold truncateChain
  extract_lets later s1 s2 src s3
  have h2 : streamView st s2 = { streamView st s with chain := chainUpTo u (s.chain st) } :=
    (streamView_insertFrees later s1).trans (streamView_setChain ..)
  have hcount : s2.map.retiredCount = (streamView st s).retiredCount := (congrArg StreamView.retiredCount h2 :)
  have hchain : s2.chain st = chainUpTo u (s.chain st) := (congrArg StreamView.chain h2 :)
  have h3 : streamView st s3 = { streamView st s with
      chain := (streamView st s).chain.takeWhile (· ≠ u) ++ if p = 0 then [] else [u]
      retiredCount := (streamView st s).retiredCount + if p = 0 then 1 else 0 } := by
    unfold s3
    clear_value s2
    by_cases hp : p = 0
    · have hr : (s2.setChain st ((s2.chain st).filter (· ≠ u))).map.retiredCount = (streamView st s).retiredCount := hcount
      rw [if_pos hp, if_pos hp, if_pos hp, streamView_retire (.inl (hr ▸ h.resolve_right fun hne => hne hp)), hr, streamView_setChain, h2,
        hchain, chainUpTo_filter, List.append_nil]
      rfl
    · rw [if_neg hp, if_neg hp, if_neg hp]
      exact h2
  clear_value s3
  rw [streamView_relieve ((congrArg StreamView.starved h3).trans hs), h3]

/-- Pages lost one by one (R107, R127). -/
theorem losePage_iterate (n : Nat) (r : StreamRec) (h : n ≠ 0) : StreamRec.losePage^[n] r =
    { r with inFlight := r.inFlight - n, lostTotal := min (r.lostTotal + n) 0xFFFFFFFF } := by
  induction n with
  | zero => exact absurd rfl h
  | succ n ih =>
    rw [Function.iterate_succ_apply']
    by_cases hn : n = 0
    · subst hn
      rfl
    · rw [ih hn]
      unfold StreamRec.losePage satInc max32
      dsimp only
      rw [Nat.sub_sub]
      congr 1
      omega

theorem streamView_completeFlushes (status : Status) (s : State) : streamView st (completeFlushes st status s) =
    { streamView st s with
      flushWaiters := s.bufs.flushWaiters.filter fun w => w.stream ≠ st
      replies := s.link.replies ++ (s.bufs.flushWaiters.filter fun w => w.stream = st).map fun w => replyOf .flush w.tag status
        (n8 st.val ++ [streamStateCode (s.stream st).state] ++ b8 w.sealed ++ n32 (s.stream st).endPage) } := by
  obtain ⟨rq, h⟩ := completeFlushes_eq st status s
  rw [h, flushReplies_eq]
  rfl

/-- An abandonment, for its stream, short of WORN entry (R39, R127). -/
theorem streamView_abandonBody {u : UnitId} {p : Nat} (b : BufId) (h : s.map.retiredCount ≠ 47 ∨ p ≠ 0) :
    let v := streamView st s
    let lost := 1 + v.queue.length + v.held.toList.length
    let x := (s.unit u).firstPage.getD 0 + p
    streamView st (abandonBody st u p b s) = { v with
      run := { v.run with
        state := .faulted, starved := false, relocating := false, endPage := x
        inFlight := v.run.inFlight - lost, lostTotal := min (v.run.lostTotal + lost) 0xFFFFFFFF
        endCause := if (s.stream st).state = .capturing then some .fault else (s.stream st).endCause }
      queue := [], held := none, starved := false
      chain := v.chain.takeWhile (· ≠ u) ++ if p = 0 then [] else [u]
      retiredCount := v.retiredCount + if p = 0 then 1 else 0
      flushWaiters := s.bufs.flushWaiters.filter fun w => w.stream ≠ st
      replies := s.link.replies ++ (s.bufs.flushWaiters.filter fun w => w.stream = st).map fun w => replyOf .flush w.tag .fault
        (n8 st.val ++ [5] ++ b8 w.sealed ++ n32 x) } := by
  intro v lost x
  unfold abandonBody
  extract_lets first s1 src1 s2 s3 src3 s4 s5 s6 src6 s7
  have h2 : streamView st s2 = { v with run := { v.run with starved := false }, starved := false } := by
    have h1 : streamView st s1 = { v with starved := false } := by
      unfold v streamView
      congr 1
      simp [s1, State.setStarvedList]
    refine (streamView_setStream ..).trans ?_
    rw [h1]
    rfl
  have hcause : (if (s2.stream st).state = .capturing then some EndCause.fault else (s2.stream st).endCause) =
      if (s.stream st).state = .capturing then some .fault else (s.stream st).endCause := by
    have hs2 : s2.stream st = { s.stream st with starved := false } := by
      unfold s2
      rw [stream_setStream, if_pos rfl]
      rfl
    rw [hs2]
  have h3 : streamView st s3 = { v with
      run := { v.run with
        state := .faulted, starved := false
        inFlight := v.run.inFlight - lost, lostTotal := min (v.run.lostTotal + lost) 0xFFFFFFFF
        endCause := if (s.stream st).state = .capturing then some .fault else (s.stream st).endCause }
      queue := [], held := none, starved := false } := by
    refine (streamView_discardStreamPages ..).trans ?_
    rw [streamView_faultStream, hcause, h2]
    dsimp only
    rw [losePage_iterate _ _ (by omega)]
  clear_value s3
  have h4 : streamView st s4 = { streamView st s3 with run := { (streamView st s3).run with endPage := x } } := streamView_setStream ..
  have h5 : streamView st s5 = streamView st s4 := rfl
  have h7 : streamView st s7 = { v with
      run := { v.run with
        state := .faulted, starved := false, relocating := false, endPage := x
        inFlight := v.run.inFlight - lost, lostTotal := min (v.run.lostTotal + lost) 0xFFFFFFFF
        endCause := if (s.stream st).state = .capturing then some .fault else (s.stream st).endCause }
      queue := [], held := none, starved := false
      flushWaiters := s.bufs.flushWaiters.filter fun w => w.stream ≠ st
      replies := s.link.replies ++ (s.bufs.flushWaiters.filter fun w => w.stream = st).map fun w => replyOf .flush w.tag .fault
        (n8 st.val ++ [5] ++ b8 w.sealed ++ n32 x) } := by
    clear_value s4
    rw [h3] at h4
    rw [h4] at h5
    have hstate : (s5.stream st).state = .faulted := (congrArg (fun y => y.run.state) h5 :)
    have hpage : (s5.stream st).endPage = x := (congrArg (fun y => y.run.endPage) h5 :)
    have hfw : s5.bufs.flushWaiters = s.bufs.flushWaiters := (congrArg StreamView.flushWaiters h5 :)
    have hrep : s5.link.replies = s.link.replies := (congrArg StreamView.replies h5 :)
    have h6 : streamView st s6 = _ := streamView_completeFlushes .fault s5
    rw [hstate, hpage, hfw, hrep, h5] at h6
    clear_value s6
    have h : streamView st s7 = { streamView st s6 with run := { (streamView st s6).run with relocating := false } } :=
      streamView_setStream ..
    rw [h, h6]
    rfl
  clear_value s7
  rw [streamView_truncateChain (h.imp (fun hn => ?_) id) (congrArg StreamView.starved h7), h7]
  rw [h7]
  exact hn

/-- The notices of an abandonment (R127): STREAM_FAULT and PAGE_LOST, and RUN_END when the stream was CAPTURING. -/
theorem abandonBody_bits (st : StreamId) (u : UnitId) (p : Nat) (b : BufId) (s : State) :
    (abandonBody st u p b s).notices.pendingSet.getLsbD 12 = true ∧ (abandonBody st u p b s).notices.pendingSet.getLsbD 5 = true ∧
      ((s.stream st).state = .capturing → (abandonBody st u p b s).notices.pendingSet.getLsbD 2 = true) := by
  unfold abandonBody
  extract_lets first s1 src1 s2 s3 src3 s4 s5 s6 src6 s7
  have h3 : (s.stream st).state = .capturing → s3.notices.pendingSet.getLsbD 2 = true := fun hc => by
    have hs2 : (s2.stream st).state = .capturing := by
      unfold s2
      rw [stream_setStream, if_pos rfl]
      exact hc
    have hf : (faultStream st s2).notices.pendingSet.getLsbD 2 = true := by
      unfold faultStream
      rw [if_pos hs2]
      exact raise_bit .runEnd _ _
    have hk : Kept (faultStream st s2) s3 := (Kept.refl _).discardStreamPages st b
    exact hk.pendingSet hf
  clear_value s3
  have h4 : Kept s3 s4 := (Kept.refl s3).next
  clear_value s4
  have h5 : Kept s4 s5 := ((Kept.refl s4).raise ..).raise ..
  have h12 : s5.notices.pendingSet.getLsbD 12 = true := ((Kept.refl _).raise ..).pendingSet (raise_bit .streamFault st.val s4)
  have h5' : s5.notices.pendingSet.getLsbD 5 = true := raise_bit .pageLost st.val _
  clear_value s5
  have h6 : Kept s5 s6 := (Kept.refl s5).completeFlushes st .fault
  clear_value s6
  have h7 : Kept s6 s7 := (Kept.refl s6).next
  have h8 : Kept s5 (truncateChain st u p s7) := h6.trans (h7.truncateChain st u p)
  exact ⟨h8.pendingSet h12, h8.pendingSet h5', fun hc => h8.pendingSet (h5.pendingSet (h4.pendingSet (h3 hc)))⟩

/-- The end of a happening that does not enter WORN leaves a stream as an abandonment sees it. -/
theorem streamView_settle {a : State} (h : ¬(a.ctl.device = .ready ∧ s.ctl.device = .worn)) :
    streamView st (settle a s) = streamView st s := by
  obtain ⟨hc, hr, -, -⟩ := settle_settled h
  generalize settle a s = t at hc hr
  unfold streamView
  congr 1
  · exact (congrArg (fun x : State => { x.stream st with overrun := false }) hc :)
  · exact (congrArg (fun x : State => x.bufs.queue.filter fun e => e.stream = st) hc :)
  · exact (congrArg (fun x : State => x.heldBuf st) hc :)
  · exact (congrArg (fun x : State => decide (st ∈ x.bufs.starvedList)) hc :)
  · exact (congrArg (fun x : State => x.chain st) hc :)
  · exact (congrArg (fun x : State => x.bufs.flushWaiters) hc :)
  · exact (congrArg (fun x : State => x.ctl.device) hc :)
  · exact (congrArg (fun x : State => x.map.retiredCount) hc :)
  · exact (congrArg (fun x : State => (x.reloc.current, x.reloc.waitList)) hc :)

end

/-! ## FAIL -/

/-- The state of a program that failed, before its relocation begins (R117, steps 1 to 3). -/
def programFailed (e : QueueEntry) (s : State) : State :=
  (((dropEntry e.buf s).setBuf e.buf { s.buf e.buf with place := .failed }).setUnit e.unit { s.unit e.unit with state := .frozen }).setStream
    e.stream { s.stream e.stream with relocating := true }

/-- The relocation that the failure of an entry asks for (R117, step 4). -/
def waitOf (e : QueueEntry) : RelocWait := ⟨e.stream, e.unit, e.slot, e.buf⟩

theorem queueFail_eq (e : QueueEntry) (s : State) : queueFail e s = beginRelocation (waitOf e) (programFailed e s) := rfl

/-- With a relocation in progress the new one waits (R118). -/
theorem queueFail_waits {e : QueueEntry} {s : State} {x : Reloc} (h : s.reloc.current = some x) :
    queueFail e s = (programFailed e s).setRelocWaits (s.reloc.waitList ++ [waitOf e]) := by
  rw [queueFail_eq]
  unfold beginRelocation
  rw [show (programFailed e s).reloc.current = some x from h]
  rfl

/-- With none in progress and none waiting, it takes the first free unit as its target (R119). -/
theorem queueFail_target {e : QueueEntry} {s : State} {v : UnitId} {free : List UnitId} (hc : s.reloc.current = none)
    (hw : s.reloc.waitList = []) (hf : s.map.freeList = v :: free) :
    queueFail e s = takeTarget (relocOf (waitOf e)) v free ((programFailed e s).setRelocWaits []) := by
  rw [queueFail_eq]
  unfold beginRelocation
  rw [show (programFailed e s).reloc.current = none from hc, show (programFailed e s).reloc.waitList = [] from hw]
  unfold startWaiting
  dsimp only
  rw [show ((programFailed e s).setRelocWaits []).map.freeList = v :: free from hf]

/-- With no free unit it is abandoned at once (R119, R127). -/
theorem queueFail_abandons {e : QueueEntry} {s : State} (hc : s.reloc.current = none) (hw : s.reloc.waitList = [])
    (hf : s.map.freeList = []) : queueFail e s =
      (abandonBody e.stream e.unit e.slot e.buf ((programFailed e s).setRelocWaits [])).setRelocWaits [] := by
  rw [queueFail_eq]
  unfold beginRelocation
  rw [show (programFailed e s).reloc.current = none from hc, show (programFailed e s).reloc.waitList = [] from hw]
  unfold startWaiting
  dsimp only
  rw [show ((programFailed e s).setRelocWaits []).map.freeList = [] from hf]
  rfl

/-- What a relocation that takes a target moves (R37, R119). -/
theorem takeTarget_facts (r : Reloc) (v : UnitId) (rest : List UnitId) (s : State) :
    (takeTarget r v rest s).bufs = s.bufs ∧ (takeTarget r v rest s).streams = s.streams ∧ (takeTarget r v rest s).ctl = s.ctl ∧
      (takeTarget r v rest s).link = s.link ∧ (takeTarget r v rest s).map.freeList = rest ∧
      (takeTarget r v rest s).map.units = vset s.map.units v
        ⟨.target, (s.unit v).eraseCount, some r.stream, some ((s.unit r.source).firstPage.getD 0), 0, 0, false⟩ ∧
      (takeTarget r v rest s).reloc.current = some { r with target := some v, copyPos := 0, phase := firstPhase r.slot } ∧
      (takeTarget r v rest s).reloc.waitList = s.reloc.waitList ∧
      (rest.length = 24 → (takeTarget r v rest s).notices.pendingSet.getLsbD 8 = true) := by
  have hbit : rest.length = 24 → (takeTarget r v rest s).notices.pendingSet.getLsbD 8 = true := fun h => by
    unfold takeTarget takeFree
    dsimp only
    rw [if_pos (show rest.length = reserveUnits from h)]
    exact raise_bit .reserveLow _ _
  refine ⟨?_, ?_, ?_, ?_, ?_, ?_, rfl, ?_, hbit⟩
  all_goals
    unfold takeTarget takeFree
    dsimp only
    split <;> rfl

theorem programFailed_buf (e : QueueEntry) (s : State) : (programFailed e s).buf e.buf = { s.buf e.buf with place := .failed } :=
  vget_vset_self ..

theorem programFailed_unit_eraseCount (e : QueueEntry) (s : State) (v : UnitId) :
    ((programFailed e s).unit v).eraseCount = (s.unit v).eraseCount := by
  change (((s.setUnit e.unit { s.unit e.unit with state := .frozen }).unit v).eraseCount) = _
  rw [State.setUnit_unit_ite]
  split
  · next h => rw [← h]
  · rfl

theorem programFailed_firstPage (e : QueueEntry) (s : State) :
    ((programFailed e s).unit e.unit).firstPage = (s.unit e.unit).firstPage := by
  change (((s.setUnit e.unit { s.unit e.unit with state := .frozen }).unit e.unit).firstPage) = _
  rw [State.setUnit_unit]

/-- The stream of a failed program, as an abandonment sees it. -/
theorem streamView_programFailed (e : QueueEntry) (s : State) : streamView e.stream (programFailed e s) =
    { streamView e.stream s with
      run := { s.stream e.stream with relocating := true, overrun := false }
      queue := (s.bufs.queue.filter (fun x => x.buf ≠ e.buf)).filter fun x => x.stream = e.stream } := by
  refine (streamView_setStream ..).trans ?_
  rfl

/-! ## The ends of programs -/

section

variable {e : QueueEntry} {a s : State} (hd : a.ctl.device = s.ctl.device)
include hd

/-- An outcome that leaves the device state alone does not enter WORN. -/
theorem not_worn_entry {x : State} (hx : x.ctl.device = s.ctl.device) : ¬(a.ctl.device = .ready ∧ x.ctl.device = .worn) :=
  fun ⟨hr, hw⟩ => absurd (hr.symm.trans (hd.trans (hx.symm.trans hw))) (by decide)

/-- A failed program whose relocation waits, at the end of its happening (R117, R118). -/
theorem settle_queueFail_waits {x : Reloc} (h : s.reloc.current = some x) :
    let t := settle a ((queueFail e s).setOp none)
    t.bufs.queue = s.bufs.queue.filter (fun y => y.buf ≠ e.buf) ∧ t.buf e.buf = { s.buf e.buf with place := .failed } ∧
      t.streams = vset s.streams e.stream { s.stream e.stream with relocating := true } ∧
      t.map = { s.map with units := vset s.map.units e.unit { s.unit e.unit with state := .frozen } } ∧
      t.reloc.current = some x ∧ t.reloc.waitList = s.reloc.waitList ++ [waitOf e] ∧ t.link.replies = s.link.replies := by
  intro t
  have hs : Settled _ t := settle_settled (not_worn_entry hd (x := (queueFail e s).setOp none) (by rw [queueFail_waits h]; rfl))
  rw [queueFail_waits h] at hs
  clear_value t
  obtain ⟨hc, hr, -, -⟩ := hs
  exact ⟨(congrArg (fun y : State => y.bufs.queue) hc :), (congrArg (fun y : State => y.buf e.buf) hc :).trans (programFailed_buf e s),
    (congrArg State.streams hc :), (congrArg State.map hc :), (congrArg (fun y : State => y.reloc.current) hc :).trans h,
    (congrArg (fun y : State => y.reloc.waitList) hc :), hr⟩

/-- A failed program whose relocation takes a target, at the end of its happening (R117, R119). -/
theorem settle_queueFail_target {v : UnitId} {free : List UnitId} (hc : s.reloc.current = none) (hw : s.reloc.waitList = [])
    (hf : s.map.freeList = v :: free) :
    let t := settle a ((queueFail e s).setOp none)
    t.bufs.queue = s.bufs.queue.filter (fun y => y.buf ≠ e.buf) ∧ t.buf e.buf = { s.buf e.buf with place := .failed } ∧
      t.streams = vset s.streams e.stream { s.stream e.stream with relocating := true } ∧ t.map.freeList = free ∧
      t.map.units = vset (vset s.map.units e.unit { s.unit e.unit with state := .frozen }) v
        ⟨.target, (s.unit v).eraseCount, some e.stream, some ((s.unit e.unit).firstPage.getD 0), 0, 0, false⟩ ∧
      t.reloc.current = some ⟨e.stream, e.unit, e.slot, e.buf, some v, 1, 0, copyBegins e.slot⟩ ∧ t.reloc.waitList = [] ∧
      (free.length = 24 → t.notices.pendingSet.getLsbD 8 = true) ∧ t.link.replies = s.link.replies := by
  have hq := queueFail_target (e := e) hc hw hf
  obtain ⟨hb, hs, hctl, hl, hfl, hun, hcur, hwl, hbit⟩ :=
    takeTarget_facts (relocOf (waitOf e)) v free ((programFailed e s).setRelocWaits [])
  rw [← hq] at hb hs hctl hl hfl hun hcur hwl hbit
  have hdev : (queueFail e s).ctl.device = s.ctl.device := (congrArg Ctl.device hctl).trans (by simp [programFailed, dropEntry])
  have hlink : (queueFail e s).link = s.link := hl.trans (by simp [programFailed, dropEntry])
  generalize queueFail e s = y at hb hs hlink hfl hun hcur hwl hbit hdev ⊢
  intro t
  have hk : Kept (y.setOp none) t := (Kept.refl _).settle a
  have hset : Settled (y.setOp none) t := settle_settled (not_worn_entry hd (x := y.setOp none) hdev)
  clear_value t
  obtain ⟨hcore, hr, -, -⟩ := hset
  have hbufs : t.bufs = (programFailed e s).bufs := (congrArg State.bufs hcore :).trans hb
  refine ⟨congrArg BufMgr.queue hbufs, (congrArg (fun m : BufMgr => vget m.bufs e.buf) hbufs).trans (programFailed_buf e s),
    (congrArg State.streams hcore :).trans hs, (congrArg (fun z : State => z.map.freeList) hcore :).trans hfl,
    (congrArg (fun z : State => z.map.units) hcore :).trans (hun.trans ?_), (congrArg (fun z : State => z.reloc.current) hcore :).trans hcur,
    (congrArg (fun z : State => z.reloc.waitList) hcore :).trans hwl, fun h => hk.pendingSet (hbit h), hr.trans (congrArg Link.replies hlink)⟩
  have h1 : (((programFailed e s).setRelocWaits []).unit v).eraseCount = (s.unit v).eraseCount := programFailed_unit_eraseCount e s v
  have h2 : (((programFailed e s).setRelocWaits []).unit (relocOf (waitOf e)).source).firstPage = (s.unit e.unit).firstPage :=
    programFailed_firstPage e s
  rw [h1, h2]
  rfl

/-- A failed program whose relocation is abandoned, as its stream sees it at the end of its happening (R117, R119, R127). -/
theorem settle_queueFail_abandons (hc : s.reloc.current = none) (hw : s.reloc.waitList = []) (hf : s.map.freeList = [])
    (hn : s.map.retiredCount < 47 ∨ e.slot ≠ 0) :
    let t := settle a ((queueFail e s).setOp none)
    let rest := s.bufs.queue.filter (fun y => y.buf ≠ e.buf)
    let lost := 1 + rest.countP (fun y => y.stream = e.stream) + (s.heldBuf e.stream).toList.length
    let x := (s.unit e.unit).firstPage.getD 0 + e.slot
    let r := s.stream e.stream
    streamView e.stream t =
      { run := { r with
          state := .faulted, overrun := false, starved := false, relocating := false, endPage := x
          inFlight := r.inFlight - lost, lostTotal := min (r.lostTotal + lost) 0xFFFFFFFF
          endCause := if r.state = .capturing then some .fault else r.endCause }
        queue := [], held := none, starved := false
        chain := (s.chain e.stream).takeWhile (· ≠ e.unit) ++ if e.slot = 0 then [] else [e.unit]
        flushWaiters := s.bufs.flushWaiters.filter fun w => w.stream ≠ e.stream
        replies := s.link.replies ++ (s.bufs.flushWaiters.filter fun w => w.stream = e.stream).map fun w => replyOf .flush w.tag .fault
          (n8 e.stream.val ++ [5] ++ b8 w.sealed ++ n32 x)
        device := s.ctl.device
        retiredCount := s.map.retiredCount + if e.slot = 0 then 1 else 0
        relocations := (none, []) } ∧
      (r.state = .capturing → t.notices.pendingSet.getLsbD 2 = true) ∧ t.notices.pendingSet.getLsbD 12 = true ∧
      t.notices.pendingSet.getLsbD 5 = true := by
  intro t rest lost x r
  have hk : Kept ((queueFail e s).setOp none) t := (Kept.refl _).settle a
  have hq := queueFail_abandons (e := e) hc hw hf
  have hzv : streamView e.stream ((programFailed e s).setRelocWaits []) =
      { streamView e.stream s with
        run := { r with relocating := true, overrun := false }
        queue := rest.filter fun x => x.stream = e.stream, relocations := (none, []) } := by
    rw [← hc]
    exact congrArg (fun v => ({ v with relocations := (s.reloc.current, []) } : StreamView)) (streamView_programFailed e s)
  have hzr : ((programFailed e s).setRelocWaits []).stream e.stream = { r with relocating := true } :=
    (stream_setStream ..).trans (if_pos rfl)
  have hzp : (((programFailed e s).setRelocWaits []).unit e.unit).firstPage = (s.unit e.unit).firstPage := programFailed_firstPage e s
  have hzn : ((programFailed e s).setRelocWaits []).map.retiredCount ≠ 47 ∨ e.slot ≠ 0 := hn.imp Nat.ne_of_lt id
  have hzf : ((programFailed e s).setRelocWaits []).bufs.flushWaiters = s.bufs.flushWaiters := rfl
  have hzl : ((programFailed e s).setRelocWaits []).link.replies = s.link.replies := rfl
  generalize (programFailed e s).setRelocWaits [] = z at hq hzv hzr hzp hzn hzf hzl
  obtain ⟨hb12, hb5, hb2⟩ := abandonBody_bits e.stream e.unit e.slot e.buf z
  have hbody := streamView_abandonBody (st := e.stream) (u := e.unit) e.buf hzn
  dsimp only at hbody
  rw [hzv, hzr, hzp, hzf, hzl] at hbody
  generalize abandonBody e.stream e.unit e.slot e.buf z = y at hq hb12 hb5 hb2 hbody
  rw [hzr] at hb2
  have hview : streamView e.stream ((queueFail e s).setOp none) = streamView e.stream y := by
    rw [hq]
    have hwaits : y.reloc.waitList = [] := (congrArg (fun v => v.relocations.2) hbody :)
    unfold streamView
    congr 1
    rw [hwaits]
    rfl
  have hdev : y.ctl.device = s.ctl.device := (congrArg StreamView.device hbody :)
  have ht : streamView e.stream t = streamView e.stream y :=
    (streamView_settle (not_worn_entry hd (x := (queueFail e s).setOp none) (by rw [hq]; exact hdev))).trans hview
  rw [hq] at hk
  refine ⟨ht.trans (hbody.trans ?_), fun h => hk.pendingSet (hb2 h), hk.pendingSet hb12, hk.pendingSet hb5⟩
  have hlen : lost = 1 + (rest.filter fun x => x.stream = e.stream).length + (s.heldBuf e.stream).toList.length := by
    unfold lost
    rw [List.countP_eq_length_filter]
  rw [hlen]
  rfl

end

/-! ## The obligation -/

/-- The tag of a page that leaves its buffer for the program queue's program (R100, R215). -/
theorem programmedTag (pb : PageBuf) (k : Nat) {st : StreamId} {i : SealInfo} (hst : pb.stream = some st) (hi : pb.sealed = some i) :
    let g := (programmedPage .compute (bufferPage pb false 0xFFFF k)).tag
    g.stream = BitVec.ofNat 8 st.val ∧ g.slot = BitVec.ofNat 8 k ∧ g.wordCount = BitVec.ofNat 16 i.wordCount ∧
      g.pageNumber = BitVec.ofNat 32 i.pageNumber ∧ g.runNumber = i.runNumber ∧ g.droppedBefore = BitVec.ofNat 16 i.droppedBefore ∧
      g.firstWordTime = pb.firstWordTime ∧ g.origin = 0xFFFF ∧ g.flags = BitVec.ofNat 8 (i.runStart.toNat + 2 * i.gap.toNat) := by
  unfold bufferPage
  rw [hst, hi]
  exact ⟨rfl, rfl, rfl, rfl, rfl, rfl, rfl, rfl, tagFlags_byte _ _⟩

/-- Settles O47, outcome by outcome: PASS, FAIL with a target, FAIL without one, FAIL while another relocation is in progress. -/
theorem queueProgramsEnd : Obligations.QueueProgramsEnd := by
  intro s u k b t0 e hr ho hfind r ru rest mine
  have heb : e.buf = b := by simpa using List.find?_some hfind
  subst heb
  have hfail : programEnd false ⟨.program, u, some k, .programQueue, some (.pageBuffer e.buf), some .compute, t0⟩ s =
      (queueFail e (spoilSlot u k s)).setOp none := programEnd_queue rfl rfl hfind false
  have hspoil := slotSpoiled_programEnd (op := ⟨.program, u, some k, .programQueue, some (.pageBuffer e.buf), some .compute, t0⟩) rfl s
  have heng := programEnd_engine false ⟨.program, u, some k, .programQueue, some (.pageBuffer e.buf), some .compute, t0⟩ s
  have hex := exec_programDone hr ho rfl false
  rw [hfail] at heng hex
  refine ⟨?_, ⟨_, exec_programDone hr ho rfl false, hspoil⟩, fun v free hc hw hf => ?_, fun hc hw hf hn => ?_, fun x hx => ?_⟩
  · have hprog : pageToProgram ⟨.program, u, some k, .programQueue, some (.pageBuffer e.buf), some .compute, t0⟩ s =
        bufferPage (s.buf e.buf) false 0xFFFF k := rfl
    obtain ⟨hslot, hread⟩ := slotProgrammed_programEnd
      (op := ⟨.program, u, some k, .programQueue, some (.pageBuffer e.buf), some .compute, t0⟩) rfl rfl s
    have hengp := programEnd_engine true ⟨.program, u, some k, .programQueue, some (.pageBuffer e.buf), some .compute, t0⟩ s
    rw [hprog] at hslot hread
    have hpass := programEnd_queue (op := ⟨.program, u, some k, .programQueue, some (.pageBuffer e.buf), some .compute, t0⟩) rfl rfl hfind true
    rw [if_pos rfl] at hpass
    have hz : slotEnded true ⟨.program, u, some k, .programQueue, some (.pageBuffer e.buf), some .compute, t0⟩ s =
        s.writeSlot u k (programmedPage .compute (bufferPage (s.buf e.buf) false 0xFFFF k)) := rfl
    rw [hz] at hpass
    generalize programmedPage .compute (bufferPage (s.buf e.buf) false 0xFFFF k) = page at hpass
    obtain ⟨hm, hq, hrun, hpool, hgrant, hfw, hrep⟩ := settle_queuePass e (a := s) (s := s.writeSlot u k page) rfl _ rfl
    rw [← hpass] at hm hq hrun hpool hgrant hfw hrep
    refine ⟨_, exec_programDone hr ho rfl true, hslot, fun st i hst hi => ?_, hengp, (congrArg UnitMap.units hm :), hq, ?_, fun f hf => ?_,
      hpool, hgrant, hfw, hrep⟩
    · intro g
      have hg : g = (programmedPage .compute (bufferPage (s.buf e.buf) false 0xFFFF k)).tag := congrArg Page.tag hread
      rw [hg]
      exact programmedTag _ k hst hi
    · have h := hrun e.stream
      unfold passed at h
      rw [stream_setStream, if_pos rfl] at h
      exact h
    · have h := hrun f
      unfold passed at h
      rw [stream_setStream, if_neg (Ne.symm hf)] at h
      exact h
  · obtain ⟨h1, h2, h3, h4, h5, h6, h7, h8, h9⟩ := settle_queueFail_target (e := e) (a := s) (s := spoilSlot u k s) rfl hc hw hf
    exact ⟨_, hex, heng, h1, h2, h3, h4, h5, h6, h7, h8, h9⟩
  · intro x lost
    obtain ⟨hv, hb2, hb12, hb5⟩ := settle_queueFail_abandons (e := e) (a := s) (s := spoilSlot u k s) rfl hc hw hf hn
    generalize settle s ((queueFail e (spoilSlot u k s)).setOp none) = t at *
    have hrun : ({ t.stream e.stream with overrun := false } : StreamRec) = _ := congrArg StreamView.run hv
    have hq : (t.bufs.queue.filter fun y => y.stream = e.stream) = [] := (congrArg StreamView.queue hv :)
    have hst : decide (e.stream ∈ t.bufs.starvedList) = false := (congrArg StreamView.starved hv :)
    have hreloc : (t.reloc.current, t.reloc.waitList) = (none, []) := (congrArg StreamView.relocations hv :)
    exact ⟨t, hex, heng, (congrArg Prod.fst hreloc :), (congrArg Prod.snd hreloc :), (congrArg StreamRec.state hrun :),
      (congrArg StreamRec.endPage hrun :), (congrArg StreamRec.starved hrun :), (congrArg StreamRec.relocating hrun :),
      (congrArg StreamRec.inFlight hrun :), (congrArg StreamRec.lostTotal hrun :), (congrArg StreamRec.endCause hrun :), hb2, hb12, hb5,
      fun y hy => by simpa using List.filter_eq_nil_iff.1 hq y hy, (congrArg StreamView.held hv :), of_decide_eq_false hst,
      (congrArg StreamView.chain hv :), (congrArg StreamView.flushWaiters hv :), (congrArg StreamView.replies hv :)⟩
  · obtain ⟨h1, h2, h3, h4, h5, h6, h7⟩ := settle_queueFail_waits (e := e) (a := s) (s := spoilSlot u k s) rfl hx
    exact ⟨_, hex, heng, h1, h2, h3, h4, h5, h6, h7⟩

end Sys2Proof.Machine
end

section
/-!
PROOFS. The reads of the mount scan (R167, R174 to R177): the tests on the pages as read, the choice of the copy, and the next position.
-/
-- The theorems of this file are elaborated one after another: in parallel their waiting threads exceed the memory limit of the check.
set_option Elab.async false

namespace Sys2Proof.Machine

/-! ## Words of a page -/

theorem word32_toNat (lo hi : Word) : (word32 lo hi).toNat = lo.toNat + 65536 * hi.toNat := by
  unfold word32
  rw [BitVec.toNat_append, ← Nat.shiftLeft_add_eq_or_of_lt lo.isLt, Nat.shiftLeft_eq]
  omega

theorem word32_inj {lo hi lo' hi' : Word} : word32 lo hi = word32 lo' hi' ↔ lo = lo' ∧ hi = hi' := by
  refine ⟨fun h => ?_, fun ⟨h1, h2⟩ => by rw [h1, h2]⟩
  have h := congrArg BitVec.toNat h
  rw [word32_toNat, word32_toNat] at h
  have h1 := lo.isLt
  have h2 := lo'.isLt
  exact ⟨BitVec.eq_of_toNat_eq (by omega), BitVec.eq_of_toNat_eq (by omega)⟩

theorem hasCommitMark_iff (r : ReadResult) :
    hasCommitMark r = true ↔ r.cls = .valid ∧ wordAt r.page 0 = 0xC0A5 ∧ wordAt r.page 1 = 0xC0A5 := by
  have h : (0xC0A5C0A5 : BitVec 32) = word32 0xC0A5 0xC0A5 := by decide
  unfold hasCommitMark longAt
  rw [Bool.and_eq_true, beq_iff_eq, beq_iff_eq, h, word32_inj]

/-- The test on a copy is the four lines of R167. -/
theorem copyValid_eq (hdr cmt : ReadResult) (es : List ReadResult) : copyValid hdr cmt es = copyHolds hdr cmt es := by
  have hcrc : copyBytes hdr.page.data (es.map fun r => r.page.data) =
      dataBytes hdr.page.data ++ es.flatMap fun e => dataBytes e.page.data := by
    unfold copyBytes
    rw [List.flatMap_map]
  have hmark : hasCommitMark cmt = (cmt.cls == .valid && wordAt cmt.page 0 == 0xC0A5 && wordAt cmt.page 1 == 0xC0A5) := by
    rw [Bool.eq_iff_iff, hasCommitMark_iff]
    simp [and_assoc]
  have hlong : (longAt hdr.page 0 == longAt cmt.page 2) =
      (wordAt hdr.page 0 == wordAt cmt.page 2 && wordAt hdr.page 1 == wordAt cmt.page 3) := by
    rw [Bool.eq_iff_iff, beq_iff_eq, Bool.and_eq_true, beq_iff_eq, beq_iff_eq]
    exact word32_inj
  have hall : es.all soundPage = es.all fun e => e.cls == .valid && e.dataGood := rfl
  unfold copyValid copyHolds
  rw [hcrc, hmark, hlong, hall]
  unfold soundPage
  generalize es.all _ = a
  generalize crc32 _ = x
  rw [show longAt cmt.page 4 = wordAt cmt.page 5 ++ wordAt cmt.page 4 from rfl, Bool.eq_iff_iff]
  simp only [Bool.and_eq_true]
  tauto

theorem betterCopy_eq (best : Option TableCopy) (copy : TableCopy) :
    some (betterCopy best copy) = if best.all (fun c => decide (c.seqNo < copy.seqNo)) then some copy else best := by
  cases best with
  | none => rfl
  | some c =>
    unfold betterCopy
    by_cases h : c.seqNo < copy.seqNo <;> simp [h]

/-- What the scan remembers of a table slot (R167, R175). -/
theorem noteTableSlot_eq (k : Fin 16) (hdr cmt : ReadResult) (es : List ReadResult) (sc : Scan) : noteTableSlot k hdr cmt es sc =
    { sc with
      best := chosenAfter sc.best k hdr cmt es
      highUsed := if hdr.cls = .blank ∧ cmt.cls = .blank then sc.highUsed
        else vset sc.highUsed (if k.val < 8 then 0 else 1) (some (k.val % 8)) } := by
  have hused : slotUsed hdr cmt = true ↔ ¬(hdr.cls = .blank ∧ cmt.cls = .blank) := by
    simp [slotUsed]
    tauto
  have hseq : (longAt hdr.page 0).toNat = (wordAt hdr.page 0).toNat + 65536 * (wordAt hdr.page 1).toNat := word32_toNat _ _
  unfold noteTableSlot chosenAfter
  simp only [hused, copyValid_eq, hseq, betterCopy_eq, ite_not]
  by_cases hb : hdr.cls = .blank ∧ cmt.cls = .blank <;> by_cases hh : copyHolds hdr cmt es = true <;>
    simp only [hb, hh, if_true, if_false, Bool.true_and, Bool.false_and] <;> rfl

/-! ## The next data unit -/

theorem find?_first {n : Nat} {p : Fin n → Bool} {v : Fin n} : ∀ {l : List (Fin n)}, l.Pairwise (· < ·) → v ∈ l → p v = true →
    (∀ u ∈ l, u < v → p u = false) → l.find? p = some v := by
  intro l
  induction l with
  | nil => exact fun _ h => nomatch h
  | cons x l ih =>
    intro hs hv hp hb
    obtain ⟨hx, hl⟩ := List.pairwise_cons.1 hs
    rcases List.mem_cons.1 hv with e | hv
    · rw [← e, List.find?_cons_of_pos hp]
    · rw [List.find?_cons_of_neg (by simp [hb x List.mem_cons_self (hx v hv)])]
      exact ih hl hv hp fun u hu => hb u (List.mem_cons_of_mem _ hu)

theorem dataUnits_sorted : dataUnits.Pairwise (· < ·) := (List.pairwise_lt_finRange 1024).filter _

theorem mem_dataUnits (u : UnitId) : u ∈ dataUnits ↔ 2 ≤ u.val := by
  unfold dataUnits
  rw [List.mem_filter, decide_eq_true_iff]
  exact and_iff_right (List.mem_finRange u)

theorem nextDataUnit_first {s : State} {n : Nat} {v : UnitId} (h : firstToScan s.map n v) : nextDataUnit s n = some v := by
  obtain ⟨h2, hn, hv, hb⟩ := h
  refine find?_first dataUnits_sorted ((mem_dataUnits v).2 h2) ?_ fun u hu hlt => ?_
  · rw [Bool.and_eq_true, decide_eq_true_iff, bne_iff_ne]
    exact ⟨hn, hv⟩
  · by_cases hun : n ≤ u.val
    · have h : (s.unit u).state = .retired := hb u ((mem_dataUnits u).1 hu) hun hlt
      simp [h]
    · simp [hun]

theorem nextDataUnit_none {s : State} {n : Nat} (h : nothingToScan s.map n) : nextDataUnit s n = none := by
  refine List.find?_eq_none.2 fun u hu hp => ?_
  rw [Bool.and_eq_true, decide_eq_true_iff, bne_iff_ne] at hp
  exact hp.2 (h u ((mem_dataUnits u).1 hu) hp.1)

/-! ## The chosen copy -/

theorem vget_ext {α : Type} {n : Nat} {v w : Vector α n} (h : ∀ i, vget v i = vget w i) : v = w :=
  Vector.ext fun i hi => h ⟨i, hi⟩

theorem vget_ofFn {α : Type} {n : Nat} (f : Fin n → α) (i : Fin n) : vget (Vector.ofFn f) i = f i := Vector.getElem_ofFn ..

/-- Unit records set one by one, each once. -/
theorem setUnits_eq (g : UnitId → UnitRec → UnitRec) : ∀ (l : List UnitId) (s : State), l.Nodup →
    ∃ U, l.foldl (fun s u => s.setUnit u (g u (s.unit u))) s = { s with map := { s.map with units := U } } ∧
      ∀ u, vget U u = if u ∈ l then g u (s.unit u) else s.unit u := by
  intro l
  induction l with
  | nil => exact fun s _ => ⟨s.map.units, rfl, fun u => rfl⟩
  | cons x l ih =>
    intro s hn
    obtain ⟨hx, hl⟩ := List.nodup_cons.1 hn
    obtain ⟨U, he, hU⟩ := ih (s.setUnit x (g x (s.unit x))) hl
    refine ⟨U, he, fun u => ?_⟩
    rw [hU, State.setUnit_unit_ite]
    by_cases hu : u ∈ l
    · rw [if_pos hu, if_neg fun e : x = u => hx (e ▸ hu), if_pos (List.mem_cons_of_mem _ hu)]
    · by_cases e : x = u
      · subst e
        rw [if_neg hu, if_pos rfl, if_pos List.mem_cons_self]
      · rw [if_neg hu, if_neg e, if_neg fun h => (List.mem_cons.1 h).elim (Ne.symm e) hu]

theorem applyEntries_eq (entries : List Word) (s : State) :
    applyEntries entries s = { s with map := { s.map with units := (mapFromCopy s.map entries).units } } := by
  obtain ⟨U, he, hU⟩ := setUnits_eq (fun u r => recordOfEntry (u.val < 2) r (entries.getD u.val 0)) (List.finRange 1024) s
    (List.nodup_finRange 1024)
  have h : U = (mapFromCopy s.map entries).units := vget_ext fun u => by
    rw [hU, if_pos (List.mem_finRange u)]
    refine Eq.trans ?_ (vget_ofFn _ u).symm
    rw [show vget s.map.units u = s.unit u from rfl]
    unfold recordOfEntry
    simp only [Bool.and_eq_true, Bool.not_eq_true', decide_eq_false_iff_not, Nat.not_lt]
  rw [← h]
  exact he

theorem slotAbove_eq (o : Option Nat) : slotAbove o =
    match o with
    | some k => if k < 7 then some (k + 1) else none
    | none => some 0 := by
  cases o with
  | none => rfl
  | some k => exact nextTableSlot_eq k

/-- The data units that a table of unit records holds RETIRED. -/
def retiredUnits (units : Vector UnitRec 1024) : List UnitId :=
  (List.finRange 1024).filter fun u => decide (2 ≤ u.val ∧ (vget units u).state = .retired)

theorem retiredUnits_eq (units : Vector UnitRec 1024) :
    dataUnits.filter (fun u => decide ((vget units u).state = .retired)) = retiredUnits units := by
  unfold dataUnits retiredUnits
  rw [List.filter_filter]
  exact List.filter_congr fun u _ => by rw [Bool.and_comm, Bool.decide_and]

theorem collectRetired_eq (s : State) : collectRetired s =
    { s with map := { s.map with retiredSet := retiredUnits s.map.units, retiredCount := (retiredUnits s.map.units).length } } := by
  rw [← retiredUnits_eq]
  rfl

theorem mapFromCopy_eq (m : UnitMap) (entries : List Word) : mapFromCopy m entries =
    { m with
      units := (mapFromCopy m entries).units
      retiredSet := retiredUnits (mapFromCopy m entries).units
      retiredCount := (retiredUnits (mapFromCopy m entries).units).length } := rfl

theorem collectRetired_applyEntries (entries : List Word) (s : State) :
    collectRetired (applyEntries entries s) = { s with map := mapFromCopy s.map entries } := by
  rw [applyEntries_eq, collectRetired_eq]
  exact congrArg (fun m => ({ s with map := m } : State)) (mapFromCopy_eq s.map entries).symm

/-- The end of step 1 takes the chosen copy (R175). -/
theorem chooseCopy_eq (sc : Scan) (s : State) : chooseCopy sc s = withCopy sc.best sc.highUsed s := by
  unfold chooseCopy withCopy
  cases sc.best with
  | none => rfl
  | some c =>
    have hm := collectRetired_applyEntries c.entries s
    have hn := slotAbove_eq (vget sc.highUsed c.tableUnit)
    dsimp only
    rw [hm, hn]
    generalize mapFromCopy s.map c.entries = m
    rfl

/-! ## One read of the scan -/

/-- A read of the mount scan ends as its result says, in a done report or at its timeout (R8, R174). -/
theorem exec_scanRead {c : Instr} {res : ReadResult} {s : State} {op : Operation} (hr : s.running = true) (ho : s.engine.op = some op)
    (hk : op.kind = .read) (hq : op.requester = .mountStep) (h : scanRead c op s res) :
    exec c s = .next (settle s ((scanReadEnd res s).setOp none)) := by
  have hend : ∀ done, readEnd done res op s = (scanReadEnd res s).setOp none := fun done => by
    unfold readEnd handleRead
    rw [hq]
  rcases h with ⟨asRead, rfl, hres⟩ | ⟨rfl, hd, hres⟩
  · rw [exec_readDone hr ho hk asRead, ← hend true, hres]
    rfl
  · rw [exec_readTimeout hr ho hk hd, ← hend false, hres]
    rfl

/-- The scan after a read, before it goes on: the buffer holds the page. -/
def scanned (sc : Scan) (res : ReadResult) : Scan := { sc with buffer := some res.page }

section

variable {res : ReadResult} {s : State} {sc : Scan} (hs : s.ctl.scan = some sc)
include hs

theorem scanReadEnd_header {k : Fin 16} (hp : sc.pos = .header k) : scanReadEnd res s = setScan (scanned sc res) (.commit k res) s := by
  unfold scanReadEnd
  rw [hs]
  dsimp only [scanned]
  rw [hp]

theorem scanReadEnd_commit {k : Fin 16} {hdr : ReadResult} (hp : sc.pos = .commit k hdr) : scanReadEnd res s =
    if hasCommitMark res then setScan (scanned sc res) (.entry k hdr res []) s else finishTableSlot (scanned sc res) k hdr res [] s := by
  unfold scanReadEnd
  rw [hs]
  dsimp only [scanned]
  rw [hp]

theorem scanReadEnd_entry {k : Fin 16} {hdr cmt : ReadResult} {got : List ReadResult} (hp : sc.pos = .entry k hdr cmt got) :
    scanReadEnd res s = if got.length < 3 then setScan (scanned sc res) (.entry k hdr cmt (got ++ [res])) s
      else finishTableSlot (scanned sc res) k hdr cmt (got ++ [res]) s := by
  have hlen : (got ++ [res]).length < 4 ↔ got.length < 3 := by
    rw [List.length_append, List.length_singleton]
    omega
  unfold scanReadEnd
  rw [hs]
  dsimp only
  rw [hp]
  simp only [hlen, scanned, hp]

theorem scanReadEnd_slot0 {u : UnitId} (hp : sc.pos = .slot0 u) : scanReadEnd res s = setScan (scanned sc res) (.slot63 u res) s := by
  unfold scanReadEnd
  rw [hs]
  dsimp only [scanned]
  rw [hp]

theorem scanReadEnd_slot63 {u : UnitId} {r0 : ReadResult} (hp : sc.pos = .slot63 u r0) :
    scanReadEnd res s = classifyUnit (scanned sc res) u r0 res s := by
  unfold scanReadEnd
  rw [hs]
  dsimp only [scanned]
  rw [hp]

theorem scanReadEnd_count {u : UnitId} {r0 r63 : ReadResult} {k : Nat} {run : Word} (hp : sc.pos = .count u r0 r63 k run) :
    scanReadEnd res s = countSlot (scanned sc res) u r0 r63 k run res s := by
  unfold scanReadEnd
  rw [hs]
  dsimp only [scanned]
  rw [hp]

theorem scanReadEnd_blank {u : UnitId} {k : Nat} (hp : sc.pos = .blank u k) :
    scanReadEnd res s = blankSlot (scanned sc res) u k res s := by
  unfold scanReadEnd
  rw [hs]
  dsimp only [scanned]
  rw [hp]

end

/-! ## What a read settles about its unit -/

theorem ownerOf_eq (r0 : ReadResult) : ownerOf r0 0 = ownerIn r0 := by
  have h : r0.page.tag.slot.toNat = 0 ↔ r0.page.tag.slot = 0 :=
    ⟨fun h => BitVec.eq_of_toNat_eq h, fun h => congrArg BitVec.toNat h⟩
  unfold ownerOf ownerIn
  simp only [h]

theorem countsAsValid_eq (r0 r : ReadResult) (k : Nat) : countsAsValid r0 r k = countsAs r0 r k := by
  rw [Bool.eq_iff_iff]
  simp [countsAsValid, countsAs, and_assoc]

theorem classifyUnit_owned {sc : Scan} {u : UnitId} {r0 r63 : ReadResult} {s : State} (h : (ownerIn r0).isSome = true) :
    classifyUnit sc u r0 r63 s = setScan sc (.count u r0 r63 1 r0.page.tag.runNumber) s := by
  obtain ⟨st, h⟩ := Option.isSome_iff_exists.1 h
  unfold classifyUnit
  rw [ownerOf_eq, h]

theorem classifyUnit_none {sc : Scan} {u : UnitId} {r0 r63 : ReadResult} {s : State} (h : ¬(ownerIn r0).isSome = true) :
    classifyUnit sc u r0 r63 s =
      if r0.cls = .blank ∧ r63.cls = .blank then setScan sc (.blank u 1) s else finishUnit sc u (.dirty u) s := by
  unfold classifyUnit
  rw [ownerOf_eq, Option.not_isSome_iff_eq_none.1 h]

/-- A read that settles its unit records the result, and the scan goes on behind the unit (R176, R177). -/
theorem scanReadEnd_found {res : ReadResult} {s : State} {sc : Scan} {u : UnitId} {x : ScanResult} (hs : s.ctl.scan = some sc)
    (hf : foundBy sc.pos res = some (u, x)) : scanReadEnd res s = finishUnit (scanned sc res) u x s := by
  cases hp : sc.pos with
  | header k => rw [hp] at hf; cases hf
  | commit k hdr => rw [hp] at hf; cases hf
  | entry k hdr cmt got => rw [hp] at hf; cases hf
  | slot0 v => rw [hp] at hf; cases hf
  | slot63 v r0 =>
    rw [scanReadEnd_slot63 hs hp]
    rw [hp] at hf
    unfold foundBy at hf
    dsimp only at hf
    split at hf
    · cases hf
    · next h =>
      obtain ⟨ho, hb⟩ := not_or.1 h
      cases hf
      rw [classifyUnit_none ho, if_neg hb]
  | count v r0 r63 k run =>
    rw [scanReadEnd_count hs hp]
    rw [hp] at hf
    unfold foundBy at hf
    dsimp only at hf
    cases ho : ownerIn r0 with
    | none => rw [ho] at hf; cases hf
    | some st =>
      rw [ho] at hf
      dsimp only at hf
      have hc : ∀ n e last, finishCount (scanned sc res) v r0 r63 n e last s =
          finishUnit (scanned sc res) v (ownedResult v st r0 r63 n e last) s := fun n e last => by
        unfold finishCount
        rw [ownerOf_eq, ho]
      have hk : k + 1 < 63 ↔ k < 62 := by omega
      unfold countSlot
      simp only [countsAsValid_eq, hc, hk]
      split at hf
      · next h1 =>
        rw [if_pos h1]
        split at hf
        · cases hf
        · next h2 =>
          rw [if_neg h2]
          split at hf
          · next h3 => cases hf; rw [if_pos h3]; rfl
          · next h3 => cases hf; rw [if_neg h3]; rfl
      · next h1 => cases hf; rw [if_neg h1]; rfl
  | blank v k =>
    rw [scanReadEnd_blank hs hp]
    rw [hp] at hf
    unfold foundBy at hf
    unfold blankSlot
    dsimp only at hf
    split at hf
    · next h => cases hf; rw [if_neg h]
    · next h =>
      rw [if_pos (not_not.1 h)]
      split at hf
      · cases hf
      · next hk => cases hf; rw [if_neg hk]

/-! ## Where the scan goes on -/

/-- The scan goes on at the first unit that is not RETIRED (R174). -/
theorem scanFrom_first {sc : Scan} {n : Nat} {s : State} {v : UnitId} (h : firstToScan s.map n v) :
    scanFrom sc n s = setScan sc (.slot0 v) s := by
  unfold scanFrom
  rw [nextDataUnit_first h]

theorem scanFrom_nothing {sc : Scan} {n : Nat} {s : State} (h : nothingToScan s.map n) : scanFrom sc n s = settleMount sc.results s := by
  unfold scanFrom
  rw [nextDataUnit_none h]

theorem finishTableSlot_next {sc : Scan} {k next : Fin 16} {hdr cmt : ReadResult} {es : List ReadResult} {s : State}
    (h : next.val = k.val + 1) : finishTableSlot sc k hdr cmt es s = setScan (noteTableSlot k hdr cmt es sc) (.header next) s := by
  have hlt : k.val + 1 < 16 := h ▸ next.isLt
  unfold finishTableSlot
  rw [dif_pos hlt, show (⟨k.val + 1, hlt⟩ : Fin 16) = next from Fin.ext h.symm]

theorem finishTableSlot_last {sc : Scan} {k : Fin 16} {hdr cmt : ReadResult} {es : List ReadResult} {s : State} (h : k.val = 15) :
    finishTableSlot sc k hdr cmt es s = scanFrom (noteTableSlot k hdr cmt es sc) 2 (chooseCopy (noteTableSlot k hdr cmt es sc) s) := by
  unfold finishTableSlot
  rw [dif_neg (by omega)]

theorem withCopy_engine (best : Option TableCopy) (used : Vector (Option Nat) 2) (s : State) :
    (withCopy best used s).engine = s.engine := by
  unfold withCopy
  cases best <;> rfl

/-- The end of the mount, whatever the scan has found (R165, R181). -/
theorem settle_settleMount (results : List ScanResult) (a s : State) :
    let t := settle a ((settleMount results s).setOp none)
    t.ctl.scan = none ∧ (t.ctl.device = .ready ∨ t.ctl.device = .worn) ∧ t.notices.pendingSet.getLsbD 0 = true := by
  intro t
  have hm : ∃ v, settleMount results s = leaveMounting v := ⟨_, rfl⟩
  obtain ⟨v, hv⟩ := hm
  have hk : Kept ((leaveMounting v).setOp none) t := by
    rw [← hv]
    exact (Kept.refl _).settle a
  have hout : t.outside = ((leaveMounting v).setOp none).outside := by
    rw [← hv]
    exact settle_outside a _
  refine ⟨(congrArg (fun x : State => x.ctl.scan) hout :), ?_, hk.pendingSet (raise_bit .mountDone _ _)⟩
  have hdev : t.ctl.device = if wornLimit ≤ v.map.retiredCount then .worn else .ready := (congrArg (fun x : State => x.ctl.device) hout :)
  rw [hdev]
  split
  · exact .inr rfl
  · exact .inl rfl

/-- Settles O56, position by position of the scan. -/
theorem mountScanGoesOn : Obligations.MountScanGoesOn := by
  intro c res s op sc hr ho hk hq hs hscan goes on slotEnds
  have hex := exec_scanRead hr ho hk hq hscan
  have hgoes : ∀ {u : State} {sc' : Scan} {pos : ScanPos}, u.engine = s.engine → sc'.buffer = some res.page →
      scanReadEnd res s = setScan sc' pos u → goes u sc'.best sc'.highUsed sc'.results pos := fun he hb h => by
    refine hex.trans (congrArg (fun t => Host.Outcome.next (settle s t)) ?_)
    rw [h, ← he, ← hb]
    rfl
  have hslot : ∀ {k hdr cmt es}, scanReadEnd res s = finishTableSlot (scanned sc res) k hdr cmt es s → slotEnds k hdr cmt es := by
    intro k hdr cmt es h
    unfold slotEnds
    intro best used
    have hnote : noteTableSlot k hdr cmt es (scanned sc res) = { scanned sc res with best := best, highUsed := used } :=
      noteTableSlot_eq ..
    clear_value best used
    refine ⟨fun next hn => ?_, fun hlast => ⟨fun v hv => ?_, fun hnone => ?_⟩⟩
    · rw [finishTableSlot_next hn, hnote] at h
      exact hgoes (sc' := { scanned sc res with best := best, highUsed := used }) rfl rfl h
    · rw [finishTableSlot_last hlast, chooseCopy_eq, hnote, scanFrom_first hv] at h
      exact hgoes (sc' := { scanned sc res with best := best, highUsed := used }) (withCopy_engine ..) rfl h
    · rw [finishTableSlot_last hlast, chooseCopy_eq, hnote, scanFrom_nothing hnone] at h
      rw [h] at hex
      exact ⟨_, hex, settle_settleMount ..⟩
  have hon : ∀ {pos : ScanPos}, scanReadEnd res s = setScan (scanned sc res) pos s → on pos := fun h =>
    hgoes (sc' := scanned sc res) rfl rfl h
  refine ⟨fun k hp => hon (scanReadEnd_header hs hp), fun k hdr hp => ?_, fun k hdr cmt got hp => ⟨fun hl => ?_, fun hl => ?_⟩,
    fun u hp => hon (scanReadEnd_slot0 hs hp), fun u r0 hp => ⟨fun h => ?_, fun h0 h63 => ?_⟩,
    fun u r0 r63 k run hp hlt hc => ?_, fun u k hp hb hlt => ?_, fun u x v hf hv => ?_⟩
  · intro mark
    exact ⟨fun h => hon ((scanReadEnd_commit hs hp).trans (if_pos ((hasCommitMark_iff res).2 h))),
      fun h => hslot ((scanReadEnd_commit hs hp).trans (if_neg fun h' => h ((hasCommitMark_iff res).1 h')))⟩
  · exact hon ((scanReadEnd_entry hs hp).trans (if_pos hl))
  · exact hslot ((scanReadEnd_entry hs hp).trans (if_neg (by omega)))
  · exact hon ((scanReadEnd_slot63 hs hp).trans (classifyUnit_owned h))
  · have hno : ¬(ownerIn r0).isSome = true := by simp [ownerIn, h0]
    exact hon ((scanReadEnd_slot63 hs hp).trans ((classifyUnit_none hno).trans (if_pos ⟨h0, h63⟩)))
  · refine hon ((scanReadEnd_count hs hp).trans ?_)
    exact (if_pos ((countsAsValid_eq r0 res k).trans hc)).trans (if_pos (by omega))
  · exact hon ((scanReadEnd_blank hs hp).trans ((if_pos hb).trans (if_pos hlt)))
  · exact hgoes (sc' := { scanned sc res with results := sc.results ++ [x] }) rfl rfl ((scanReadEnd_found hs hf).trans (scanFrom_first hv))

end Sys2Proof.Machine
end

section
/-!
PROOFS. The requests on the map, UNIT INFO and MAP SUMMARY (R44, R45): the relocation role and the list position of a unit, the heads of the
lists, and the lowest and highest erase count of the data units in use.
-/
-- The theorems of this file are elaborated one after another: in parallel their waiting threads exceed the memory limit of the check.
set_option Elab.async false

namespace Sys2Proof.Machine

/-! ## Requests that change nothing but their own entry -/

/-- An accepted request whose owning block completes it at once, with nothing changed beside it. -/
theorem exec_answered {k : ReqKind} {tag : Byte} {p : List Byte} {s : State} {st : Status} {contents : List Byte} (h : accepted k tag p s = true)
    (ho : ownRequest k tag p (waiting k tag p s) = finishRequest k tag st contents none (waiting k tag p s)) :
    exec (commandOf k tag p) s = .next (settle s (answered k tag p st contents s)) := by
  rw [exec_accepted h, ho, finishRequest_waiting _ _ (accepted_fresh h)]

/-- An accepted request that its owning block refuses. -/
theorem exec_refused {k : ReqKind} {tag : Byte} {p : List Byte} {s : State} {st : Status} (h : accepted k tag p s = true)
    (ho : ownRequest k tag p (waiting k tag p s) = refuse k tag st (waiting k tag p s)) :
    exec (commandOf k tag p) s = .next (settle s (answered k tag p st [] s)) := exec_answered h ho

/-! ## UNIT INFO -/

section

variable {s : State} {u : UnitId}

theorem relocationRole_source {x : Reloc} (hx : s.reloc.current = some x) (hu : x.source = u) : relocationRole s u = 1 := by
  unfold relocationRole
  rw [hx]
  exact if_pos hu

theorem relocationRole_waits (hx : ∀ x, s.reloc.current = some x → x.source ≠ u) (hw : ∃ w ∈ s.reloc.waitList, w.source = u) :
    relocationRole s u = 2 := by
  have hany : (s.reloc.waitList.any fun w => w.source == u) = true := by simpa using hw
  unfold relocationRole
  split
  · next r hr => rw [if_neg (hx r hr), if_pos hany]
  · exact if_pos hany

theorem no_wait_at (hw : ∀ w ∈ s.reloc.waitList, w.source ≠ u) : ¬(s.reloc.waitList.any fun w => w.source == u) = true := by
  simpa using hw

theorem relocationRole_target {x : Reloc} (hx : s.reloc.current = some x) (hs : x.source ≠ u) (hw : ∀ w ∈ s.reloc.waitList, w.source ≠ u)
    (ht : x.target = some u) : relocationRole s u = 3 := by
  unfold relocationRole
  rw [hx]
  exact (if_neg hs).trans ((if_neg (no_wait_at hw)).trans (if_pos ht))

theorem relocationRole_none (hx : ∀ x, s.reloc.current = some x → x.source ≠ u ∧ x.target ≠ some u)
    (hw : ∀ w ∈ s.reloc.waitList, w.source ≠ u) : relocationRole s u = 0 := by
  unfold relocationRole
  split
  · next r hr => rw [if_neg (hx r hr).1, if_neg (no_wait_at hw), if_neg (hx r hr).2]
  · exact if_neg (no_wait_at hw)

theorem listPosition_free {i : Nat} (h : s.map.freeList.idxOf? u = some i) : listPosition s u = BitVec.ofNat 16 i := by
  unfold listPosition
  rw [h]

theorem listPosition_dirty {i : Nat} (hf : u ∉ s.map.freeList) (h : s.map.dirtyList.idxOf? u = some i) :
    listPosition s u = BitVec.ofNat 16 i := by
  unfold listPosition
  rw [List.idxOf?_eq_none_iff.2 hf, h]

theorem listPosition_none (hf : u ∉ s.map.freeList) (hd : u ∉ s.map.dirtyList) : listPosition s u = 0xFFFF := by
  unfold listPosition
  rw [List.idxOf?_eq_none_iff.2 hf, List.idxOf?_eq_none_iff.2 hd]

end

/-! ## MAP SUMMARY -/

/-- The head of a list as MAP SUMMARY reports it (R45). -/
theorem headField_eq (l : List UnitId) : headField l.head? = match l with
    | [] => le16 0xFFFF
    | u :: _ => n16 u.val := by
  cases l <;> rfl

theorem headCount_eq (s : State) (l : List UnitId) : (l.head?.map fun u => (s.unit u).eraseCount).getD 0 = match l with
    | [] => 0
    | u :: _ => (s.unit u).eraseCount := by
  cases l <;> rfl

theorem n16_toNat (w : Word) : n16 w.toNat = le16 w := by
  unfold n16
  rw [BitVec.ofNat_toNat, BitVec.setWidth_eq]

theorem mem_liveCounts (s : State) (n : Nat) :
    n ∈ liveCounts s ↔ ∃ u : UnitId, (2 ≤ u.val ∧ (s.unit u).state ≠ .retired) ∧ (s.unit u).eraseCount = n := by
  simp [liveCounts, mem_dataUnits]

/-- The lowest and the highest erase count of the data units in use (R45). -/
theorem liveCounts_bounds {s : State} {c : Nat} {l : List Nat} (h : liveCounts s = c :: l) :
    let live := fun u : UnitId => 2 ≤ u.val ∧ (s.unit u).state ≠ .retired
    (∀ u, live u → l.foldl min c ≤ (s.unit u).eraseCount ∧ (s.unit u).eraseCount ≤ l.foldl max c) ∧
      (∃ u, live u ∧ (s.unit u).eraseCount = l.foldl min c) ∧ ∃ u, live u ∧ (s.unit u).eraseCount = l.foldl max c := by
  intro live
  have hmem : ∀ n, n ∈ c :: l ↔ ∃ u, live u ∧ (s.unit u).eraseCount = n := fun n => h ▸ mem_liveCounts s n
  obtain ⟨hlo, hmin⟩ := List.min?_eq_some_iff.1 (List.min?_cons' (x := c) (xs := l))
  obtain ⟨hhi, hmax⟩ := List.max?_eq_some_iff.1 (List.max?_cons' (x := c) (xs := l))
  exact ⟨fun u hu => ⟨hmin _ ((hmem _).2 ⟨u, hu, rfl⟩), hmax _ ((hmem _).2 ⟨u, hu, rfl⟩)⟩, (hmem _).1 hlo, (hmem _).1 hhi⟩

/-- The two erase counts that MAP SUMMARY reports, and the free values that it draws for them (R45, assumption 3). -/
theorem wearFields_eq (s : State) :
    let live := fun u : UnitId => 2 ≤ u.val ∧ (s.unit u).state ≠ .retired
    ∃ lo hi n, wearFields s = n16 lo ++ n16 hi ∧ drawWear s = { s with freeUsed := n } ∧
      (∀ u, live u → lo ≤ (s.unit u).eraseCount ∧ (s.unit u).eraseCount ≤ hi) ∧
      ((∃ u, live u) → n = s.freeUsed ∧ (∃ u, live u ∧ (s.unit u).eraseCount = lo) ∧ ∃ u, live u ∧ (s.unit u).eraseCount = hi) := by
  intro live
  unfold wearFields drawWear
  cases h : liveCounts s with
  | nil =>
    have hnone : ∀ u, ¬live u := fun u hu => by
      have hm := (mem_liveCounts s _).2 ⟨u, hu, rfl⟩
      rw [h] at hm
      exact List.not_mem_nil hm
    exact ⟨_, _, s.freeUsed + 2, congrArg₂ (· ++ ·) (n16_toNat _).symm (n16_toNat _).symm, rfl, fun u hu => absurd hu (hnone u),
      fun ⟨u, hu⟩ => absurd hu (hnone u)⟩
  | cons c l =>
    obtain ⟨hb, hlo, hhi⟩ := liveCounts_bounds h
    exact ⟨l.foldl min c, l.foldl max c, s.freeUsed, rfl, if_neg (List.cons_ne_nil c l), hb, fun _ => ⟨rfl, hlo, hhi⟩⟩

theorem drawWear_waiting (k : ReqKind) (tag : Byte) (p : List Byte) (s : State) :
    drawWear (waiting k tag p s) = waiting k tag p (drawWear s) := by
  unfold drawWear
  have h : liveCounts (waiting k tag p s) = liveCounts s := rfl
  rw [h]
  split <;> rfl

theorem summaryContents_waiting (k : ReqKind) (tag : Byte) (p : List Byte) (s : State) :
    summaryContents (waiting k tag p s) = summaryContents s := by
  have hw : wearFields (waiting k tag p s) = wearFields s := by
    unfold wearFields
    have h : liveCounts (waiting k tag p s) = liveCounts s := rfl
    rw [h]
    cases liveCounts s <;> rfl
  unfold summaryContents
  rw [hw]
  rfl

/-- Settles O25: UNIT INFO by the role and the position of its unit, MAP SUMMARY by what `wearFields` reports. -/
theorem mapRequestsReportTheMap : Obligations.MapRequestsReportTheMap := by
  refine ⟨fun tag p s ha => ⟨fun hu => ?_, fun u hu => ?_⟩, fun tag p s ha => ?_⟩
  · refine exec_refused ha ?_
    unfold ownRequest unitInfoRequest
    dsimp only
    rw [hu]
  · have hown : ownRequest .unitInfo tag p (waiting .unitInfo tag p s) =
        finishRequest .unitInfo tag .ok (unitContents u s) none (waiting .unitInfo tag p s) := by
      unfold ownRequest unitInfoRequest
      dsimp only
      rw [hu]
      rfl
    exact ⟨relocationRole s u, listPosition s u, exec_answered ha hown, fun _ => relocationRole_source, relocationRole_waits,
      fun _ => relocationRole_target, relocationRole_none, fun _ => listPosition_free, fun hf _ => listPosition_dirty hf, listPosition_none⟩
  · intro count head live
    obtain ⟨lo, hi, n, hwear, hdraw, hbounds, hlive⟩ := wearFields_eq s
    refine ⟨lo, hi, n, ?_, hbounds, hlive⟩
    have hown : ownRequest .mapSummary tag p (waiting .mapSummary tag p s) =
        finishRequest .mapSummary tag .ok (summaryContents s) none (waiting .mapSummary tag p { s with freeUsed := n }) := by
      rw [← hdraw, ← drawWear_waiting, ← summaryContents_waiting .mapSummary tag p s]
      rfl
    have hex := exec_accepted ha
    rw [hown, finishRequest_waiting (s := { s with freeUsed := n }) _ _ (accepted_fresh ha)] at hex
    refine hex.trans (congrArg (fun c => Host.Outcome.next (settle s (answered .mapSummary tag p .ok c { s with freeUsed := n }))) ?_)
    unfold summaryContents
    rw [hwear, headField_eq, headField_eq, headCount_eq, ← List.append_assoc]
    rfl

end Sys2Proof.Machine
end

section
/-!
PROOFS. What the end of a happening leaves of its command's effect, block by block, and the blocks' own hand-overs: a buffer grant, starved
relief, a relocation's start, a FLUSH's completion and SHUTDOWN's completion (R36, R93, R96, R106, R114, R118, R119, R183).
-/
-- The theorems of this file are elaborated one after another: in parallel their waiting threads exceed the memory limit of the check.
set_option Elab.async false

namespace Sys2Proof.Machine

/-! ## The end of a happening, block by block -/

/-- The effect `s` of a command stands at the end `t` of its happening: but for the stand-aside mark, the transmitter and what it takes, every
block is as the command left it, no pending bit is lost, and checkpoint pending stays when set. -/
structure Stands (s t : State) : Prop where
  array : t.array = s.array
  engine : t.engine = s.engine
  map : t.map = s.map
  streams : t.streams = s.streams
  lanes : t.lanes = s.lanes
  triggers : t.triggers = s.triggers
  bufs : t.bufs = s.bufs
  reads : t.reads = s.reads
  current : t.reloc.current = s.reloc.current
  waits : t.reloc.waitList = s.reloc.waitList
  copyBuffer : t.reloc.copyBuffer = s.reloc.copyBuffer
  device : t.ctl.device = s.ctl.device
  shutdown : t.ctl.shutdown = s.ctl.shutdown
  replies : t.link.replies = s.link.replies
  pendingSet : ∀ {i}, s.notices.pendingSet.getLsbD i = true → t.notices.pendingSet.getLsbD i = true
  ckptPending : s.ctl.ckptPending = true → t.ctl.ckptPending = true

/-- A happening that leaves the device state alone does not enter WORN, so that its effect stands. -/
theorem settle_stands {a s : State} (h : s.ctl.device ≠ .worn ∨ a.ctl.device = s.ctl.device) : Stands s (settle a s) := by
  have hne : ¬(a.ctl.device = .ready ∧ s.ctl.device = .worn) := fun ⟨hr, hw⟩ =>
    h.elim (fun h => h hw) fun h => absurd (hr.symm.trans (h.trans hw)) (by decide)
  obtain ⟨hc, hr, -, -⟩ := settle_settled hne
  have hk : Kept s (settle a s) := (Kept.refl s).settle a
  exact
    { array := (congrArg State.array hc :), engine := (congrArg State.engine hc :), map := (congrArg State.map hc :)
      streams := (congrArg State.streams hc :), lanes := (congrArg State.lanes hc :), triggers := (congrArg State.triggers hc :)
      bufs := (congrArg State.bufs hc :), reads := (congrArg State.reads hc :), current := (congrArg (fun x => x.reloc.current) hc :)
      waits := (congrArg (fun x => x.reloc.waitList) hc :), copyBuffer := (congrArg (fun x => x.reloc.copyBuffer) hc :)
      device := (congrArg (fun x => x.ctl.device) hc :), shutdown := (congrArg (fun x => x.ctl.shutdown) hc :), replies := hr
      pendingSet := hk.pendingSet, ckptPending := hk.ckptPending }

namespace Stands

variable {s t : State} (h : Stands s t)
include h

theorem unit (u : UnitId) : t.unit u = s.unit u := congrArg (fun m : UnitMap => vget m.units u) h.map
theorem chain (st : StreamId) : t.chain st = s.chain st := congrArg (fun m : UnitMap => vget m.chains st) h.map
theorem stream (st : StreamId) : t.stream st = s.stream st := congrArg (fun v => vget v st) h.streams
theorem timer (n : TimerId) : t.timer n = s.timer n := congrArg (fun x : Triggers => vget x.timers n) h.triggers
theorem buf (b : BufId) : t.buf b = s.buf b := congrArg (fun x : BufMgr => vget x.bufs b) h.bufs
theorem heldBuf (st : StreamId) : t.heldBuf st = s.heldBuf st := congrArg (fun x : BufMgr => vget x.held st) h.bufs

end Stands

/-! ## A notice moves the notice unit alone -/

@[simp] theorem raise_stream (k : NoticeKind) (arg : Nat) (s : State) (st : StreamId) : (raise k arg s).stream st = s.stream st := rfl
@[simp] theorem raise_unit (k : NoticeKind) (arg : Nat) (s : State) (u : UnitId) : (raise k arg s).unit u = s.unit u := rfl
@[simp] theorem raise_map (k : NoticeKind) (arg : Nat) (s : State) : (raise k arg s).map = s.map := rfl

/-! ## BUFFER_GRANT -/

theorem grantFromPool_none {s : State} (h : s.bufs.pool = [] ∨ s.bufs.waitList = []) : grantFromPool s = s := by
  unfold grantFromPool
  rcases h with h | h
  · rw [h]
  · rw [h]
    cases s.bufs.pool <;> rfl

theorem grantFromPool_some {s : State} {b : BufId} {pool : List BufId} {st : StreamId} {rest : List StreamId} (hp : s.bufs.pool = b :: pool)
    (hw : s.bufs.waitList = st :: rest) : grantFromPool s = grantBuffer b st rest (s.setPool pool) := by
  unfold grantFromPool
  rw [hp, hw]

/-! ## Allocation for capture -/

/-- A data unit taken from the head of the free list for a stream's pages, with its slot 0 assigned (R26, R34): what it moves. -/
structure TakesUnit (st : StreamId) (u : UnitId) (x : Nat) (rest : List UnitId) (s t : State) : Prop where
  freeList : t.map.freeList = rest
  chain : t.chain st = s.chain st ++ [u]
  otherChains : ∀ f, f ≠ st → t.chain f = s.chain f
  unit : t.unit u = ⟨.opened, (s.unit u).eraseCount, some st, some x, 1, 0, false⟩
  otherUnits : ∀ v, v ≠ u → t.unit v = s.unit v
  reserve : rest.length = 24 → t.notices.pendingSet.getLsbD 8 = true
  streams : t.streams = s.streams
  bufs : t.bufs = s.bufs
  ctl : t.ctl = s.ctl
  link : t.link = s.link
  reloc : t.reloc = s.reloc

/-- What a unit taken from the free list brings with it (R34, R35). -/
theorem takeFree_facts (u : UnitId) (rest : List UnitId) (us : UnitState) (owner : StreamId) (first : Nat) (s : State) :
    (takeFree u rest us owner first s).map = { s.map with
        units := vset s.map.units u ⟨us, (s.unit u).eraseCount, some owner, some first, 0, 0, false⟩, freeList := rest } ∧
      (takeFree u rest us owner first s).streams = s.streams ∧ (takeFree u rest us owner first s).bufs = s.bufs ∧
      (takeFree u rest us owner first s).ctl = s.ctl ∧ (takeFree u rest us owner first s).link = s.link ∧
      (takeFree u rest us owner first s).reloc = s.reloc ∧
      (rest.length = 24 → (takeFree u rest us owner first s).notices.pendingSet.getLsbD 8 = true) := by
  unfold takeFree
  dsimp only
  split
  · exact ⟨rfl, rfl, rfl, rfl, rfl, rfl, fun _ => raise_bit .reserveLow _ _⟩
  · next h => exact ⟨rfl, rfl, rfl, rfl, rfl, rfl, fun h' => absurd h' h⟩

theorem allocateForCapture_some {st : StreamId} {x : Nat} {u : UnitId} {rest : List UnitId} {s : State} (hf : s.map.freeList = u :: rest)
    (hn : 24 < (u :: rest).length) : ∃ t, allocateForCapture st x s = some (u, t) ∧ TakesUnit st u x rest s (assignSlot u t) := by
  obtain ⟨hm, hs, hb, hc, hl, ho, hr⟩ := takeFree_facts u rest .opened st x s
  refine ⟨(takeFree u rest .opened st x s).setChain st ((takeFree u rest .opened st x s).chain st ++ [u]), ?_, ?_⟩
  · unfold allocateForCapture
    rw [hf]
    exact if_pos hn
  · generalize takeFree u rest .opened st x s = t at *
    have hu : t.unit u = ⟨.opened, (s.unit u).eraseCount, some st, some x, 0, 0, false⟩ := by
      unfold State.unit
      rw [hm]
      exact vget_vset_self ..
    have hv : ∀ v, v ≠ u → t.unit v = s.unit v := fun v hv => by
      unfold State.unit
      rw [hm]
      exact vget_vset_ne _ _ (Ne.symm hv)
    have hch : ∀ f, t.chain f = s.chain f := fun f => (congrArg (fun m : UnitMap => vget m.chains f) hm :)
    unfold assignSlot
    exact
      { freeList := congrArg UnitMap.freeList hm
        chain := by simp [hch]
        otherChains := fun f hf => by simp [hch, Ne.symm hf]
        unit := by simp [hu, slotsPerUnit]
        otherUnits := fun v hne => by simp [Ne.symm hne, hv v hne]
        reserve := hr, streams := hs, bufs := hb, ctl := hc, link := hl, reloc := ho }

theorem allocateForCapture_none {st : StreamId} {x : Nat} {s : State} (h : s.map.freeList.length ≤ 24) : allocateForCapture st x s = none := by
  unfold allocateForCapture
  split
  · rfl
  · next hf => exact if_neg (by rw [← hf]; exact Nat.not_lt.2 h)

/-! ## STARVED_RELIEF -/

theorem relieve_reserve {s : State} (h : s.map.freeList.length ≤ 24) : relieve s = s := by
  unfold relieve relieveList
  split
  · rfl
  · exact if_neg (Nat.not_lt.2 h)

/-- What a stream that asks for a fill buffer leaves alone (R94). -/
theorem askBuffer_frame (st : StreamId) (s : State) :
    (askBuffer st s).map = s.map ∧ (askBuffer st s).ctl = s.ctl ∧ (askBuffer st s).link = s.link ∧ (askBuffer st s).reloc = s.reloc ∧
      (askBuffer st s).bufs.queue = s.bufs.queue ∧ (askBuffer st s).bufs.held = s.bufs.held ∧
      (askBuffer st s).bufs.starvedList = s.bufs.starvedList ∧ ((askBuffer st s).stream st).starved = (s.stream st).starved ∧
      ∀ f, f ≠ st → (askBuffer st s).stream f = s.stream f := by
  unfold askBuffer
  split
  · exact ⟨rfl, rfl, rfl, rfl, rfl, rfl, rfl, rfl, fun _ _ => rfl⟩
  · refine ⟨rfl, rfl, rfl, rfl, rfl, rfl, rfl, ?_, fun f hf => ?_⟩
    · simp only [raise_stream, State.setStream_stream]
      rfl
    · exact (stream_setStream ..).trans (if_neg (Ne.symm hf))

/-- The same of a stream that asks for a buffer on a condition. -/
theorem askBuffer_ite_frame (c : Prop) [Decidable c] (st : StreamId) (s : State) :
    let t := if c then askBuffer st s else s
    t.map = s.map ∧ t.ctl = s.ctl ∧ t.link = s.link ∧ t.reloc = s.reloc ∧ t.bufs.queue = s.bufs.queue ∧ t.bufs.held = s.bufs.held ∧
      t.bufs.starvedList = s.bufs.starvedList ∧ (t.stream st).starved = (s.stream st).starved ∧ ∀ f, f ≠ st → t.stream f = s.stream f := by
  intro t
  unfold t
  split
  · exact askBuffer_frame st s
  · exact ⟨rfl, rfl, rfl, rfl, rfl, rfl, rfl, rfl, fun _ _ => rfl⟩

/-- The state of a stream whose held page has been placed by relief, before it asks for its next fill buffer (R106, steps 1 to 3). -/
def relieved (st : StreamId) (b : BufId) (u : UnitId) (x : Nat) (s : State) : State :=
  (enqueuePage st b u 0 x (s.setHeld st none)).setStream st { s.stream st with starved := false }

/-- Relief of a stream that holds a page, with a unit to be had (R106). -/
theorem relieveOne_some {st : StreamId} {b : BufId} {i : SealInfo} {u : UnitId} {rest : List UnitId} {s : State} (hh : s.heldBuf st = some b)
    (hi : (s.buf b).sealed = some i) (hf : s.map.freeList = u :: rest) (hn : 24 < (u :: rest).length) :
    ∃ t, TakesUnit st u i.pageNumber rest (s.setStarvedList (s.bufs.starvedList.filter (· ≠ st))) t ∧
      relieveOne st s = if (s.stream st).state = .capturing then askBuffer st (relieved st b u i.pageNumber t)
        else relieved st b u i.pageNumber t := by
  obtain ⟨a, ha, ht⟩ := allocateForCapture_some (st := st) (x := i.pageNumber) (s := s.setStarvedList (s.bufs.starvedList.filter (· ≠ st))) hf hn
  refine ⟨_, ht, ?_⟩
  have hst : ((relieved st b u i.pageNumber (assignSlot u a)).stream st).state = (s.stream st).state := by
    have h : (relieved st b u i.pageNumber (assignSlot u a)).stream st = { (assignSlot u a).stream st with starved := false } :=
      vget_vset_self ..
    rw [h]
    exact congrArg (fun v => (vget v st).state) ht.streams
  rw [← hst]
  unfold relieveOne
  dsimp only
  rw [show (s.setStarvedList (s.bufs.starvedList.filter (· ≠ st))).heldBuf st = some b from hh]
  dsimp only
  rw [show (s.setStarvedList (s.bufs.starvedList.filter (· ≠ st))).buf b = s.buf b from rfl, hi]
  dsimp only
  rw [ha]
  rfl

theorem relieveList_reserve (l : List StreamId) {s : State} (h : s.map.freeList.length ≤ 24) : relieveList l s = s := by
  unfold relieveList
  split
  · rfl
  · exact if_neg (Nat.not_lt.2 h)

/-- Relief that takes the last unit above the reserve places the page of the stream that waits longest (R36, R106). -/
theorem relieve_head {st : StreamId} {l : List StreamId} {b : BufId} {i : SealInfo} {u : UnitId} {free : List UnitId} {s : State}
    (hl : s.bufs.starvedList = st :: l) (hh : s.heldBuf st = some b) (hi : (s.buf b).sealed = some i) (hf : s.map.freeList = u :: free)
    (hn : free.length = 24) :
    let t := relieve s
    t.map.freeList = free ∧ t.chain st = s.chain st ++ [u] ∧ t.unit u = ⟨.opened, (s.unit u).eraseCount, some st, some i.pageNumber, 1, 0, false⟩ ∧
      (∀ v, v ≠ u → t.unit v = s.unit v) ∧ t.bufs.queue = s.bufs.queue ++ [⟨b, st, u, 0, i.pageNumber⟩] ∧ t.heldBuf st = none ∧
      t.bufs.starvedList = l.filter (· ≠ st) ∧ (t.stream st).starved = false ∧ (∀ f, f ≠ st → t.stream f = s.stream f) ∧
      t.notices.pendingSet.getLsbD 8 = true ∧ t.link.replies = s.link.replies ∧ t.ctl.device = s.ctl.device := by
  obtain ⟨a, ha, he⟩ := relieveOne_some hh hi hf (by rw [List.length_cons]; omega)
  have hone : relieve s = relieveList l (relieveOne st s) := by
    unfold relieve
    rw [hl]
    exact if_pos (show 24 < s.map.freeList.length by rw [hf, List.length_cons]; omega)
  generalize hw : relieved st b u i.pageNumber a = w at he
  have hmap : w.map = a.map := by rw [← hw]; rfl
  have hctl : w.ctl = s.ctl := by rw [← hw]; exact ha.ctl
  have hlink : w.link = s.link := by rw [← hw]; exact ha.link
  have hbit : w.notices.pendingSet.getLsbD 8 = true := by rw [← hw]; exact ha.reserve hn
  have hq : w.bufs.queue = s.bufs.queue ++ [⟨b, st, u, 0, i.pageNumber⟩] := by
    rw [← hw]
    exact (congrArg (fun x : BufMgr => x.queue ++ [⟨b, st, u, 0, i.pageNumber⟩]) ha.bufs :)
  have hheld : w.heldBuf st = none := by rw [← hw]; exact vget_vset_self ..
  have hsl : w.bufs.starvedList = l.filter (· ≠ st) := by
    rw [← hw]
    refine (congrArg BufMgr.starvedList ha.bufs :).trans ?_
    simp [State.setStarvedList, hl]
  have hself : (w.stream st).starved = false := by rw [← hw]; exact congrArg StreamRec.starved (vget_vset_self ..)
  have hother : ∀ f, f ≠ st → w.stream f = s.stream f := fun f hf => by
    rw [← hw]
    exact (vget_vset_ne _ _ (Ne.symm hf)).trans (congrArg (fun v => vget v f) ha.streams)
  obtain ⟨hm, hc, hl', -, hq', hh', hs', hst, ho⟩ := askBuffer_ite_frame ((s.stream st).state = .capturing) st w
  have hk : Kept w (relieveOne st s) := by
    rw [he]
    exact .ite ((Kept.refl w).askBuffer st) (.refl w)
  rw [← he] at hm hc hl' hq' hh' hs' hst ho
  have hfree : (relieveOne st s).map.freeList = free := (congrArg UnitMap.freeList (hm.trans hmap)).trans ha.freeList
  rw [hone, relieveList_reserve l (Nat.le_of_eq ((congrArg List.length hfree).trans hn))]
  have hunit : ∀ v, (relieveOne st s).unit v = a.unit v := fun v => congrArg (fun m : UnitMap => vget m.units v) (hm.trans hmap)
  exact ⟨hfree, (congrArg (fun m : UnitMap => vget m.chains st) (hm.trans hmap)).trans ha.chain, (hunit u).trans ha.unit,
    fun v hv => (hunit v).trans (ha.otherUnits v hv), hq'.trans hq, (congrArg (fun v => vget v st) hh').trans hheld, hs'.trans hsl, hst.trans hself,
    fun f hf => (ho f hf).trans (hother f hf), hk.pendingSet hbit, congrArg Link.replies (hl'.trans hlink),
    congrArg Ctl.device (hc.trans hctl)⟩

/-! ## RELOCATION_START -/

theorem startRelocation_none {s : State} (h : s.reloc.current ≠ none ∨ s.reloc.waitList = []) : startRelocation s = s :=
  if_neg fun ⟨hc, hw⟩ => h.elim (fun h => h hc) hw

/-- The relocation that waits longest takes the first free unit as its target (R118, R119). -/
theorem startNext_target {s : State} {w : RelocWait} {ws : List RelocWait} {v : UnitId} {free : List UnitId} (hw : s.reloc.waitList = w :: ws)
    (hf : s.map.freeList = v :: free) : startNext s = takeTarget (relocOf w) v free ((s.setReloc none).setRelocWaits ws) := by
  unfold startNext
  rw [hw]
  unfold startWaiting
  dsimp only
  rw [show ((s.setReloc none).setRelocWaits ws).map.freeList = v :: free from hf]

theorem startNext_idle {s : State} (hw : s.reloc.waitList = []) : startNext s = (s.setReloc none).setRelocWaits [] := by
  unfold startNext
  rw [hw]
  rfl

/-! ## FLUSH_COMPLETE -/

/-- The waiting FLUSHes of one stream, when they are due (R114): nothing moves but the waiters and the replies. -/
theorem completeDue_facts (st : StreamId) (s : State) : ∃ rq l, completeDue s st =
      joinReplies rq l (s.setFlushWaiters (s.bufs.flushWaiters.filter fun w => w.stream ≠ st ∨ (flushStatus s st).isNone)) ∧
    ∀ w ∈ s.bufs.flushWaiters, w.stream = st → ∀ status, flushStatus s st = some status →
      replyOf .flush w.tag status (flushContents w.stream w.sealed s) ∈ l := by
  unfold completeDue
  cases h : flushStatus s st with
  | none =>
    refine ⟨s.link.requests, [], ?_, fun _ _ _ _ he => nomatch he⟩
    simp [joinReplies, State.setFlushWaiters]
  | some status =>
    obtain ⟨rq, he⟩ := completeFlushes_eq st status s
    refine ⟨rq, flushReplies st status s, he.trans ?_, fun w hw hs status' hst => ?_⟩
    · simp
    · cases hst
      exact List.mem_map.2 ⟨w, List.mem_filter.2 ⟨hw, decide_eq_true hs⟩, rfl⟩

theorem completeDues (l : List StreamId) : ∀ s : State, ∃ rq rs, l.foldl completeDue s =
      joinReplies rq rs (s.setFlushWaiters (s.bufs.flushWaiters.filter fun w => w.stream ∉ l ∨ (flushStatus s w.stream).isNone)) ∧
    ∀ w ∈ s.bufs.flushWaiters, w.stream ∈ l → ∀ status, flushStatus s w.stream = some status →
      replyOf .flush w.tag status (flushContents w.stream w.sealed s) ∈ rs := by
  induction l with
  | nil =>
    intro s
    refine ⟨s.link.requests, [], ?_, fun _ _ h => absurd h List.not_mem_nil⟩
    simp [joinReplies, State.setFlushWaiters]
  | cons st l ih =>
    intro s
    obtain ⟨rq1, rs1, he, h1⟩ := completeDue_facts st s
    obtain ⟨rq2, rs2, hf, h2⟩ := ih (completeDue s st)
    refine ⟨rq2, rs1 ++ rs2, hf.trans ?_, fun w hw hs status hst => ?_⟩
    · have hfilter : ((s.bufs.flushWaiters.filter fun w => w.stream ≠ st ∨ (flushStatus s st).isNone).filter
            fun w => w.stream ∉ l ∨ (flushStatus s w.stream).isNone) =
          s.bufs.flushWaiters.filter fun w => w.stream ∉ st :: l ∨ (flushStatus s w.stream).isNone := by
        rw [List.filter_filter]
        refine List.filter_congr fun w _ => ?_
        by_cases hws : w.stream = st
        · simp [hws]
          tauto
        · simp [hws]
      rw [he]
      exact (congrArg (fun ws => joinReplies rq2 rs2 (joinReplies rq1 rs1 (s.setFlushWaiters ws))) hfilter).trans (joinReplies_joinReplies ..)
    · rw [he] at h2
      by_cases hws : w.stream = st
      · exact List.mem_append_left _ (h1 w hw hws status (hws ▸ hst))
      · refine List.mem_append_right _ (h2 w (List.mem_filter.2 ⟨hw, by simp [hws]⟩) ((List.mem_cons.1 hs).resolve_left hws) status hst)

/-! ## SHUTDOWN_COMPLETE -/

theorem finishShutdown_open {s : State} (h : ∀ x, s.ctl.shutdown = some x → x.outcome = none) : finishShutdown s = s := by
  unfold finishShutdown
  split
  · rfl
  · next x hx => rw [h x hx]

/-- SHUTDOWN completes with the outcome that its record keeps (R183). -/
theorem finishShutdown_outcome {s : State} {x : Shutdown} {ok : Bool} (hx : s.ctl.shutdown = some x) (ho : x.outcome = some ok) :
    ∃ rq tr, finishShutdown s = joinReplies rq [replyOf .shutdown x.tag (if ok then .ok else .fault) (n32 s.ctl.seqNo)]
        { s with ctl := { s.ctl with device := .halted, shutdown := none }, triggers := tr } ∧
      ∀ n, vget tr.timers n = { s.timer n with running := false, remaining := 0 } := by
  have hs : recordFinal true ok s = s := by
    unfold recordFinal
    rw [if_pos rfl, hx, Option.map_some]
    obtain ⟨tag, started, outcome⟩ := x
    cases ho
    unfold State.setCtl
    rw [← hx]
  rw [← hs]
  exact hs ▸ finishShutdown_final hx ok

/-! ## The obligation -/

/-- Settles O55, hand-over by hand-over. -/
theorem handOversTakeTheirCondition : Obligations.HandOversTakeTheirCondition := by
  intro s hr
  have hex : ∀ (c : Instr) (f : State → State), exec c s = .next (happening f s) → exec c s = .next (settle s (f s)) := fun c f h =>
    h.trans (congrArg Host.Outcome.next (happening_running hr))
  have hidle : ∀ (c : Instr) (f : State → State), exec c s = .next (happening f s) → f s = s → exec c s = .next (settle s s) :=
    fun c f h hf => (hex c f h).trans (by rw [hf])
  refine ⟨fun b pool st rest hp hw => ?_, fun h => hidle .bufferGrant _ rfl (grantFromPool_none h), fun st l b i u free hl hh hi hf hn => ?_,
    fun h => hidle .starvedRelief _ rfl (h.elim relieve_none relieve_reserve), fun w rest v free hc hw hf => ?_,
    fun h => hidle .relocationStart _ rfl (startRelocation_none h), ?_, fun x ok hx ho => ?_,
    fun h => hidle .shutdownComplete _ rfl (finishShutdown_open h)⟩
  · exact (hex .bufferGrant _ rfl).trans (by rw [grantFromPool_some hp hw]; rfl)
  · obtain ⟨h1, h2, h3, h4, h5, h6, h7, h8, h9, h10, h11, h12⟩ := relieve_head hl hh hi hf hn
    have hs : Stands (relieve s) (settle s (relieve s)) := settle_stands (.inr h12.symm)
    refine ⟨_, hex .starvedRelief _ rfl, ?_⟩
    rw [hs.map, hs.chain, hs.unit, hs.bufs, hs.heldBuf, hs.stream, hs.replies]
    exact ⟨h1, h2, h3, fun v hv => (hs.unit v).trans (h4 v hv), h5, h6, h7, h8, fun f hf => (hs.stream f).trans (h9 f hf), hs.pendingSet h10, h11⟩
  · have he : startRelocation s = takeTarget (relocOf w) v free ((s.setReloc none).setRelocWaits rest) :=
      (if_pos ⟨hc, by rw [hw]; exact List.cons_ne_nil _ _⟩).trans (startNext_target hw hf)
    obtain ⟨hb, hst, hctl, -, hfl, hun, hcur, hwl, -⟩ := takeTarget_facts (relocOf w) v free ((s.setReloc none).setRelocWaits rest)
    rw [← he] at hb hst hctl hfl hun hcur hwl
    have hs : Stands (startRelocation s) (settle s (startRelocation s)) := settle_stands (.inr (congrArg Ctl.device hctl).symm)
    have hunit : ∀ x, (startRelocation s).unit x = vget (vset s.map.units v _) x := fun x => congrArg (fun us => vget us x) hun
    refine ⟨_, hex .relocationStart _ rfl, hs.waits.trans hwl, (congrArg UnitMap.freeList hs.map).trans hfl, hs.current.trans hcur, ?_,
      fun x hx => ?_, hs.streams.trans hst, hs.bufs.trans hb⟩
    · rw [hs.unit, hunit, vget_vset_self]
      rfl
    · rw [hs.unit, hunit, vget_vset_ne _ _ (Ne.symm hx)]
      rfl
  · intro due
    obtain ⟨rq, rs, he, hdue⟩ := completeDues allStreams s
    have hs : Stands (allStreams.foldl completeDue s) (settle s (allStreams.foldl completeDue s)) := settle_stands (.inr (by rw [he]; rfl))
    rw [he] at hs
    refine ⟨_, hex .flushComplete _ rfl, ?_⟩
    rw [he, hs.bufs, hs.replies, hs.streams, hs.map]
    refine ⟨?_, fun w hw st hst => List.mem_append_right _ (hdue w hw (mem_allStreams _) st hst), rfl, rfl, rfl⟩
    exact List.filter_congr fun w _ => by simp only [mem_allStreams, not_true, false_or, Bool.decide_eq_true]; rfl
  · obtain ⟨rq, tr, he, htime⟩ := finishShutdown_outcome hx ho
    have hs : Stands (finishShutdown s) (settle s (finishShutdown s)) := settle_stands (.inl (by rw [he]; exact nofun))
    rw [he] at hs
    refine ⟨_, hex .shutdownComplete _ rfl, ?_⟩
    rw [he, hs.device, hs.shutdown, hs.replies, hs.streams, hs.map]
    exact ⟨rfl, rfl, fun n => (hs.timer n).trans (htime n), rfl, rfl, rfl⟩

end Sys2Proof.Machine
end

section
/-!
PROOFS. The seal of a fill buffer (R52, R99 to R101, R104): the slot that its page gets, in the accepting unit or in a new one, or the page held
at the reserve.
-/
-- The theorems of this file are elaborated one after another: in parallel their waiting threads exceed the memory limit of the check.
set_option Elab.async false

namespace Sys2Proof.Machine

/-! ## The accepting unit -/

/-- The unit takes one more page (R26). -/
def UnitRec.accepts (r : UnitRec) : Prop := (r.state = .opened ∨ (r.state = .frozen ∧ r.closed = false)) ∧ r.assigned < 64

theorem acceptingUnit_some {s : State} {st : StreamId} {u : UnitId} (h : (s.chain st).getLast? = some u) (ha : (s.unit u).accepts) :
    acceptingUnit s st = some u := by
  unfold acceptingUnit
  rw [h]
  exact if_pos ha

theorem acceptingUnit_none {s : State} {st : StreamId} (h : ∀ u, (s.chain st).getLast? = some u → ¬(s.unit u).accepts) :
    acceptingUnit s st = none := by
  unfold acceptingUnit
  split
  · rfl
  · next u hu => exact if_neg (h u hu)

/-! ## The place of a sealed page -/

section

variable {st : StreamId} {b : BufId} {x : Nat} {s : State}

theorem placeSealed_accepted {u : UnitId} (h : acceptingUnit s st = some u) :
    placeSealed st b x s = enqueuePage st b u (s.unit u).assigned x (assignSlot u s) := by
  unfold placeSealed
  rw [h]

/-- A page that finds no accepting unit goes to slot 0 of a new unit while the free list stands above the reserve (R34, R101). -/
theorem placeSealed_newUnit {u : UnitId} {rest : List UnitId} (h : acceptingUnit s st = none) (hf : s.map.freeList = u :: rest)
    (hn : 24 < (u :: rest).length) : ∃ t, TakesUnit st u x rest s t ∧ placeSealed st b x s = enqueuePage st b u 0 x t := by
  obtain ⟨a, ha, ht⟩ := allocateForCapture_some (st := st) (x := x) hf hn
  refine ⟨_, ht, ?_⟩
  unfold placeSealed
  rw [h]
  dsimp only
  rw [ha]

theorem placeSealed_starves (h : acceptingUnit s st = none) (hf : s.map.freeList.length ≤ 24) : placeSealed st b x s = starve st b s := by
  unfold placeSealed
  rw [h]
  dsimp only
  rw [allocateForCapture_none hf]

/-- The page gets the slot of its entry at the tail of the queue (R101). -/
theorem enqueuePage_facts (st : StreamId) (b : BufId) (u : UnitId) (k x : Nat) (s : State) :
    let t := enqueuePage st b u k x s
    t.map = s.map ∧ t.streams = s.streams ∧ t.bufs.fill = s.bufs.fill ∧ t.notices = s.notices ∧
      t.bufs.queue = s.bufs.queue ++ [⟨b, st, u, k, x⟩] ∧
      t.buf b = { s.buf b with place := .queued, unit := some u, slot := some k } :=
  ⟨rfl, rfl, rfl, rfl, rfl, vget_vset_self ..⟩

/-- FLUSH requests that complete move the waiters, the request table and the replies alone (R114). -/
theorem completeFlushes_frame (st : StreamId) (status : Status) (s : State) :
    let t := completeFlushes st status s
    t.map = s.map ∧ t.streams = s.streams ∧ t.notices = s.notices ∧ t.ctl = s.ctl ∧ t.reloc = s.reloc ∧
      t.bufs = { s.bufs with flushWaiters := s.bufs.flushWaiters.filter fun w => w.stream ≠ st } := by
  intro t
  obtain ⟨rq, he⟩ := completeFlushes_eq st status s
  have ht : t = _ := he
  rw [ht]
  exact ⟨rfl, rfl, rfl, rfl, rfl, rfl⟩

/-- The page is held, before the waiting FLUSHes of its stream are answered (R104). -/
def pageHeld (st : StreamId) (b : BufId) (s : State) : State :=
  let s := (s.setBuf b { s.buf b with place := .held st }).setHeld st (some b)
  let s := s.setStream st { s.stream st with starved := true }
  raise .starved st.val (s.setStarvedList (s.bufs.starvedList ++ [st]))

theorem starve_eq (st : StreamId) (b : BufId) (s : State) : starve st b s = completeFlushes st .noSpace (pageHeld st b s) := rfl

/-- The page is held, its stream is STARVED, and the waiting FLUSHes are answered (R101, R104, R114). -/
theorem starve_facts (st : StreamId) (b : BufId) (s : State) :
    let t := starve st b s
    t.map = s.map ∧ t.streams = vset s.streams st { s.stream st with starved := true } ∧ t.bufs.fill = s.bufs.fill ∧
      t.bufs.queue = s.bufs.queue ∧ t.bufs.starvedList = s.bufs.starvedList ++ [st] ∧ t.heldBuf st = some b ∧
      t.buf b = { s.buf b with place := .held st } ∧ t.notices.pendingSet.getLsbD 4 = true ∧ ∀ w ∈ t.bufs.flushWaiters, w.stream ≠ st := by
  intro t
  have hbit : (pageHeld st b s).notices.pendingSet.getLsbD 4 = true := raise_bit .starved _ _
  have hheld : (pageHeld st b s).heldBuf st = some b := vget_vset_self ..
  have hbuf : (pageHeld st b s).buf b = { s.buf b with place := .held st } := vget_vset_self ..
  obtain ⟨hm, hs, hn, -, -, hb⟩ := completeFlushes_frame st .noSpace (pageHeld st b s)
  rw [← starve_eq] at hm hs hn hb
  refine ⟨hm, hs, (congrArg BufMgr.fill hb :), (congrArg BufMgr.queue hb :), (congrArg BufMgr.starvedList hb :),
    (congrArg (fun m : BufMgr => vget m.held st) hb :).trans hheld, (congrArg (fun m : BufMgr => vget m.bufs b) hb :).trans hbuf,
    (congrArg (fun n : NoticeUnit => n.pendingSet.getLsbD 4) hn :).trans hbit, fun w hw => ?_⟩
  have hfw : t.bufs.flushWaiters = _ := congrArg BufMgr.flushWaiters hb
  rw [hfw] at hw
  simpa using (List.mem_filter.1 hw).2

/-- Wherever the page goes, it keeps its contents, and its stream's record moves in STARVED alone (R101). -/
theorem placeSealed_facts (st : StreamId) (b : BufId) (x : Nat) (s : State) :
    let t := placeSealed st b x s
    (∃ c, t.streams = vset s.streams st { s.stream st with starved := c }) ∧ t.bufs.fill = s.bufs.fill ∧
      (t.buf b).sealed = (s.buf b).sealed ∧ (t.buf b).words = (s.buf b).words := by
  intro t
  have hsame : s.streams = vset s.streams st { s.stream st with starved := (s.stream st).starved } := (Vector.set_getElem_self st.isLt).symm
  cases ha : acceptingUnit s st with
  | some u =>
    have ht : t = enqueuePage st b u (s.unit u).assigned x (assignSlot u s) := placeSealed_accepted ha
    obtain ⟨-, hs, hf, -, -, hb⟩ := enqueuePage_facts st b u (s.unit u).assigned x (assignSlot u s)
    rw [ht, hb]
    exact ⟨⟨_, hs.trans hsame⟩, hf, rfl, rfl⟩
  | none =>
    by_cases hn : s.map.freeList.length ≤ 24
    · have ht : t = starve st b s := placeSealed_starves ha hn
      obtain ⟨-, hs, hf, -, -, -, hb, -⟩ := starve_facts st b s
      rw [ht, hb]
      exact ⟨⟨true, hs⟩, hf, rfl, rfl⟩
    · obtain ⟨u, rest, hfree⟩ := List.exists_cons_of_ne_nil (l := s.map.freeList) fun h => hn (by rw [h]; exact Nat.zero_le _)
      obtain ⟨a, hta, ht⟩ := placeSealed_newUnit (b := b) (x := x) ha hfree (by rw [← hfree]; omega)
      have ht : t = _ := ht
      obtain ⟨-, hs, hf, -, -, hb⟩ := enqueuePage_facts st b u 0 x a
      have hba : a.buf b = s.buf b := congrArg (fun m : BufMgr => vget m.bufs b) hta.bufs
      rw [ht, hb, hba]
      exact ⟨⟨_, hs.trans (hta.streams.trans hsame)⟩, hf.trans (congrArg BufMgr.fill hta.bufs), rfl, rfl⟩

end

/-! ## The seal -/

/-- The page is sealed and has no place yet (R99, R100): steps 1 and 2 of a seal. -/
def pageSealed (st : StreamId) (b : BufId) (s : State) : State :=
  ((s.setStream st (s.stream st).afterSeal).setFill st none).setBuf b
    { s.buf b with sealed := some (sealInfo (s.stream st) (s.buf b)), words := padWords (s.buf b).words }

theorem sealPage_eq (st : StreamId) (b : BufId) (s : State) :
    sealPage st b s = placeSealed st b (s.stream st).endPage (pageSealed st b s) := rfl

/-- With no number left the buffer is freed, and its words with it (R52, assumption 18). -/
theorem sealFill_exhausted {st : StreamId} {s : State} (b : BufId) (h : (s.stream st).endPage = 0xFFFFFFFF) :
    sealFill st b s = freeBuffer b (s.setFill st none) := if_pos (Nat.le_of_eq h.symm)

theorem sealFill_numbered {st : StreamId} {s : State} (b : BufId) (h : (s.stream st).endPage < 0xFFFFFFFF) :
    sealFill st b s = placeSealed st b (s.stream st).endPage (pageSealed st b s) := if_neg (Nat.not_le.2 h)

theorem freeBuffer_notices (b : BufId) (s : State) : (freeBuffer b s).notices = s.notices := by
  unfold freeBuffer
  split <;> rfl

theorem freeBuffer_fill {b : BufId} {s : State} (h : s.bufs.waitList = []) : (freeBuffer b s).bufs.fill = s.bufs.fill := by
  unfold freeBuffer
  rw [h]
  rfl

/-- A page is sealed with its stream's next number, and the stream's record follows (R52, R99, R100). -/
theorem sealFill_record {st : StreamId} {s : State} (b : BufId) (h : (s.stream st).endPage < 0xFFFFFFFF) :
    let t := sealFill st b s
    let r := s.stream st
    (∃ c, t.stream st = { r with
      endPage := r.endPage + 1, runStartPending := false, droppedInRun := 0, inFlight := r.inFlight + 1, starved := c }) ∧
      t.fillBuf st = none ∧ (∀ f, f ≠ st → t.stream f = s.stream f) ∧
      (t.buf b).sealed = some (sealInfo r (s.buf b)) ∧ (t.buf b).words = padWords (s.buf b).words := by
  intro t r
  obtain ⟨⟨c, hs⟩, hf, hsl, hw⟩ := placeSealed_facts st b (s.stream st).endPage (pageSealed st b s)
  rw [← sealFill_numbered b h] at hs hf hsl hw
  have hst : (pageSealed st b s).stream st = (s.stream st).afterSeal := vget_vset_self ..
  have hbuf : (pageSealed st b s).buf b = { s.buf b with sealed := some (sealInfo r (s.buf b)), words := padWords (s.buf b).words } :=
    vget_vset_self ..
  rw [hbuf] at hsl hw
  refine ⟨⟨c, ?_⟩, (congrArg (fun v => vget v st) hf).trans (vget_vset_self ..), fun f hne => ?_, hsl, hw⟩
  · refine (congrArg (fun v => vget v st) hs).trans ((vget_vset_self ..).trans ?_)
    rw [hst]
    unfold StreamRec.afterSeal satInc
    rw [Nat.min_eq_left (show r.endPage + 1 ≤ maxPage from h)]
  · refine (congrArg (fun v => vget v f) hs).trans ((vget_vset_ne _ _ (Ne.symm hne)).trans ?_)
    exact vget_vset_ne _ _ (Ne.symm hne)

/-- Settles O30: no number left, and otherwise the page in the accepting unit, in a new unit, or held. -/
theorem sealsPlaceOrHoldThePage : Obligations.SealsPlaceOrHoldThePage := by
  intro st b s t r pb x
  have hout : t.outside = s.outside := ((RunStep.refl (fun _ => True) s).sealFill st b trivial).outside
  refine ⟨fun hx => ?_, fun hx => ?_⟩
  · have ht : t = freeBuffer b (s.setFill st none) := sealFill_exhausted b hx
    obtain ⟨hm, hl, -, -, hq, hh, -⟩ := freeBuffer_frame b (s.setFill st none)
    rw [ht] at hout ⊢
    refine ⟨hout, freeBuffer_sameRun b (s.setFill st none), hm, hq, hh, hl, freeBuffer_notices .., fun hw => ?_⟩
    obtain ⟨hp, he⟩ := freeBuffer_pool (b := b) (s := s.setFill st none) hw
    exact ⟨(congrArg (fun v => vget v st) (freeBuffer_fill (s := s.setFill st none) hw)).trans (vget_vset_self ..), hp, he⟩
  · have ht : t = placeSealed st b x (pageSealed st b s) := sealFill_numbered b hx
    obtain ⟨⟨c, hst⟩, hfill, hother, hsl, hw⟩ := sealFill_record b hx
    have hstarved : ((pageSealed st b s).stream st).starved = r.starved := (congrArg StreamRec.starved (vget_vset_self ..) :)
    refine ⟨congrArg StreamRec.endPage hst, congrArg StreamRec.runStartPending hst, congrArg StreamRec.droppedInRun hst,
      congrArg StreamRec.inFlight hst, hfill, hother, hout, hsl, hw, fun u hu hlt hacc => ?_, fun hnone => ⟨fun u rest hf hn => ?_, fun hn => ?_⟩⟩
    · have he := placeSealed_accepted (b := b) (x := x) (acceptingUnit_some (s := pageSealed st b s) hu ⟨hacc, hlt⟩)
      obtain ⟨hm, hss, -, -, hq, hb⟩ := enqueuePage_facts st b u (s.unit u).assigned x (assignSlot u (pageSealed st b s))
      have hunit : ∀ v, t.unit v = (assignSlot u (pageSealed st b s)).unit v := fun v =>
        congrArg (fun m : UnitMap => vget m.units v) ((congrArg State.map (ht.trans he)).trans hm)
      rw [ht.trans he]
      refine ⟨congrArg PageBuf.place hb, hq, ?_, fun v hv => ?_, rfl, rfl, ?_⟩
      · rw [← ht.trans he, hunit]
        unfold assignSlot
        rw [State.setUnit_unit]
        have h63 : (s.unit u).assigned + 1 = slotsPerUnit ↔ (s.unit u).assigned = 63 := by unfold slotsPerUnit; omega
        simp only [show (pageSealed st b s).unit u = s.unit u from rfl, h63]
      · rw [← ht.trans he, hunit]
        exact State.setUnit_unit_ne _ _ _ _ (Ne.symm hv)
      · exact (congrArg (fun v => (vget v st).starved) hss).trans hstarved
    · obtain ⟨a, ha, he⟩ := placeSealed_newUnit (b := b) (x := x) (acceptingUnit_none (s := pageSealed st b s) hnone) hf hn
      obtain ⟨hm, hss, -, hno, hq, hb⟩ := enqueuePage_facts st b u 0 x a
      have hmap : t.map = a.map := (congrArg State.map (ht.trans he)).trans hm
      have hunit : ∀ v, t.unit v = a.unit v := fun v => congrArg (fun m : UnitMap => vget m.units v) hmap
      refine ⟨?_, ?_, (congrArg UnitMap.freeList hmap).trans ha.freeList, (congrArg (fun m : UnitMap => vget m.chains st) hmap).trans ha.chain,
        (hunit u).trans ha.unit, fun v hv => (hunit v).trans (ha.otherUnits v hv), fun hr => ?_, ?_⟩
      · rw [ht.trans he]
        exact congrArg PageBuf.place hb
      · rw [ht.trans he]
        exact (congrArg (fun m : BufMgr => m.queue ++ [⟨b, st, u, 0, x⟩]) ha.bufs :)
      · rw [ht.trans he, hno]
        exact ha.reserve hr
      · rw [ht.trans he]
        exact (congrArg (fun v => (vget v st).starved) (hss.trans ha.streams)).trans hstarved
    · have he := placeSealed_starves (b := b) (x := x) (acceptingUnit_none (s := pageSealed st b s) hnone) hn
      obtain ⟨hm, hss, -, hq, hsl, hh, hb, hbit, hfw⟩ := starve_facts st b (pageSealed st b s)
      rw [ht.trans he]
      exact ⟨congrArg PageBuf.place hb, hh, congrArg StreamRec.starved ((congrArg (fun v => vget v st) hss).trans (vget_vset_self ..)), hsl, hq,
        hm, hbit, hfw⟩

end Sys2Proof.Machine
end

section
/-!
PROOFS. RELEASE and DELETE (R33, R53, R152 to R159): the units that leave a chain, base page and the gaps, the lanes of a stream that becomes
UNDEFINED, and the waiting reads that are withdrawn.
-/
-- The theorems of this file are elaborated one after another: in parallel their waiting threads exceed the memory limit of the check.
set_option Elab.async false

namespace Sys2Proof.Machine

/-! ## Units that leave their chain -/

/-- From `s` to `t` nothing has moved but the map, checkpoint pending and the notices, and of the map no chain. -/
def OnlyMap (s t : State) : Prop :=
  t = { s with map := t.map, ctl := { s.ctl with ckptPending := t.ctl.ckptPending }, notices := t.notices } ∧ t.map.chains = s.map.chains

theorem OnlyMap.trans {s t r : State} (h1 : OnlyMap s t) (h2 : OnlyMap t r) : OnlyMap s r := by
  obtain ⟨e1, c1⟩ := h1
  obtain ⟨e2, c2⟩ := h2
  refine ⟨e2.trans ?_, c2.trans c1⟩
  rw [e1]

theorem mem_retiredInsert_of_mem (u : UnitId) {v : UnitId} {l : List UnitId} (h : v ∈ l) : v ∈ retiredInsert u l := by
  induction l with
  | nil => exact absurd h List.not_mem_nil
  | cons w l ih =>
    unfold retiredInsert
    split
    · exact List.mem_cons_of_mem _ h
    · rcases List.mem_cons.1 h with e | h
      · exact e ▸ List.mem_cons_self
      · exact List.mem_cons_of_mem _ (ih h)

/-- One unit leaves its chain short of WORN entry: it is retired when FROZEN, and becomes DIRTY otherwise (R33). -/
theorem removeUnit_facts {u : UnitId} {s : State} (h : s.map.retiredCount ≠ 47 ∨ (s.unit u).state ≠ .frozen) :
    let t := removeUnit u s
    let frozen := (s.unit u).state = .frozen
    OnlyMap s t ∧ t.unit u = unitOut (if frozen then .retired else .dirty) (s.unit u) ∧ (∀ v, v ≠ u → t.unit v = s.unit v) ∧
      t.map.freeList = s.map.freeList ∧ t.map.dirtyList = s.map.dirtyList ++ (if frozen then [] else [u]) ∧
      t.map.retiredCount = s.map.retiredCount + (if frozen then 1 else 0) ∧
      (frozen → u ∈ t.map.retiredSet ∧ t.ctl.ckptPending = true ∧ t.notices.pendingSet.getLsbD 7 = true) ∧
      ∀ v ∈ s.map.retiredSet, v ∈ t.map.retiredSet := by
  intro t frozen
  by_cases hf : frozen
  · have ht : t = retireRecord u s := (if_pos hf).trans (retire_plain (.inl (h.resolve_right fun hne => hne hf)))
    rw [ht]
    simp only [if_pos hf]
    exact ⟨⟨rfl, rfl⟩, vget_vset_self .., fun v hv => vget_vset_ne _ _ (Ne.symm hv), rfl, (List.append_nil _).symm, rfl,
      fun _ => ⟨mem_retiredInsert u _, rfl, retireRecord_pendingSet u s⟩, fun v hv => mem_retiredInsert_of_mem u hv⟩
  · have ht : t = appendDirty u s := if_neg hf
    rw [ht]
    simp only [if_neg hf]
    exact ⟨⟨rfl, rfl⟩, vget_vset_self .., fun v hv => vget_vset_ne _ _ (Ne.symm hv), rfl, rfl, rfl, fun h => absurd h hf, fun _ hv => hv⟩

/-- The first unit of a row leaves, then the rest of the row. -/
theorem unitsLeft_cons {u : UnitId} {gone : List UnitId} {s t r : State} (hu : t.unit u = unitOut (if (s.unit u).state = .frozen then .retired else .dirty) (s.unit u))
    (ho : ∀ v, v ≠ u → t.unit v = s.unit v) (hf : t.map.freeList = s.map.freeList)
    (hd : t.map.dirtyList = s.map.dirtyList ++ (if (s.unit u).state = .frozen then [] else [u]))
    (hn : t.map.retiredCount = s.map.retiredCount + (if (s.unit u).state = .frozen then 1 else 0))
    (hr : (s.unit u).state = .frozen → u ∈ r.map.retiredSet ∧ r.ctl.ckptPending = true ∧ r.notices.pendingSet.getLsbD 7 = true)
    (h : unitsLeft gone t r) : unitsLeft (u :: gone) s r := by
  obtain ⟨⟨d, hd', hsub, hin, hcount⟩, hone, hfrozen, hout, hfree⟩ := h
  refine ⟨?_, fun v hv => ?_, fun v hv hvf => ?_, fun v hv => ?_, hfree.trans hf⟩
  · have hmem : ∀ v ∈ gone, v ≠ u → (s.unit v).state ≠ .frozen → v ∈ d := fun v hv hne hvf => hin v hv (by rw [ho v hne]; exact hvf)
    by_cases hfu : (s.unit u).state = .frozen
    · rw [if_pos hfu, List.append_nil] at hd
      rw [if_pos hfu] at hn
      refine ⟨d, by rw [hd', hd], hsub.cons _, fun v hv hvf => ?_, by rw [List.length_cons]; omega⟩
      have hne : v ≠ u := fun e => hvf (e ▸ hfu)
      exact hmem v ((List.mem_cons.1 hv).resolve_left hne) hne hvf
    · rw [if_neg hfu] at hd hn
      refine ⟨u :: d, by rw [hd', hd, List.append_assoc]; rfl, hsub.cons_cons _, fun v hv hvf => ?_, by rw [List.length_cons, List.length_cons]; omega⟩
      by_cases hne : v = u
      · exact hne ▸ List.mem_cons_self
      · exact List.mem_cons_of_mem _ (hmem v ((List.mem_cons.1 hv).resolve_left hne) hne hvf)
  · by_cases hne : v = u
    · subst hne
      have hnot : v ∉ gone := by simpa [List.count_eq_zero] using hv
      exact (hout v hnot).trans hu
    · rw [List.count_cons_of_ne (Ne.symm hne)] at hv
      rw [hone v hv, ho v hne]
  · by_cases hne : v = u
    · exact hr (hne ▸ hvf) |> fun h => hne ▸ h
    · exact hfrozen v ((List.mem_cons.1 hv).resolve_left hne) (by rw [ho v hne]; exact hvf)
  · obtain ⟨hne, hv⟩ := List.ne_and_not_mem_of_not_mem_cons hv
    exact (hout v hv).trans (ho v hne)

theorem Kept.removeUnit {s t : State} (h : Kept s t) (u : UnitId) : Kept s (removeUnit u t) := .ite (h.retire u) h.next

/-- The units of a row leave one by one, short of WORN entry (R33, R40). -/
theorem removeUnits (gone : List UnitId) : ∀ s : State, s.map.retiredCount + gone.countP (fun u => (s.unit u).state == .frozen) < 48 →
    let t := gone.foldl (fun s u => removeUnit u s) s
    OnlyMap s t ∧ unitsLeft gone s t ∧ ∀ v ∈ s.map.retiredSet, v ∈ t.map.retiredSet := by
  induction gone with
  | nil =>
    intro s _
    exact ⟨⟨rfl, rfl⟩, ⟨⟨[], (List.append_nil _).symm, List.nil_sublist _, fun _ h => absurd h List.not_mem_nil, rfl⟩,
      fun _ h => absurd h (by simp), fun _ h => absurd h List.not_mem_nil, fun _ _ => rfl, rfl⟩, fun _ hv => hv⟩
  | cons u gone ih =>
    intro s hlt t
    rw [List.countP_cons] at hlt
    have h47 : s.map.retiredCount ≠ 47 ∨ (s.unit u).state ≠ .frozen := by
      by_cases hf : (s.unit u).state = .frozen
      · exact .inl fun h => by simp [hf] at hlt; omega
      · exact .inr hf
    obtain ⟨hmap, hu, ho, hfree, hd, hn, hz, hmon⟩ := removeUnit_facts h47
    have ht : t = gone.foldl (fun s u => removeUnit u s) (removeUnit u s) := List.foldl_cons ..
    generalize removeUnit u s = s' at *
    have hcount : gone.countP (fun v => (s'.unit v).state == .frozen) ≤ gone.countP (fun v => (s.unit v).state == .frozen) := by
      refine List.countP_mono_left fun v _ hv => ?_
      by_cases hne : v = u
      · rw [hne, hu] at hv
        by_cases hf : (s.unit u).state = .frozen
        · rw [if_pos hf] at hv
          exact absurd hv (by simp [unitOut])
        · rw [if_neg hf] at hv
          exact absurd hv (by simp [unitOut])
      · rwa [ho v hne] at hv
    obtain ⟨hmap', hleft, hmon'⟩ := ih s' (by
      rw [hn]
      by_cases hf : (s.unit u).state = .frozen
      · simp [hf] at hlt ⊢; omega
      · simp [hf] at hlt ⊢; omega)
    have hkept : Kept s' t := ht ▸ Kept.foldl (fun r x => (Kept.refl r).removeUnit x) (.refl s') gone
    rw [← ht] at hmap' hleft hmon'
    refine ⟨hmap.trans hmap', unitsLeft_cons hu ho hfree hd hn (fun hf => ?_) hleft, fun v hv => hmon' v (hmon v hv)⟩
    obtain ⟨h1, h2, h3⟩ := hz hf
    exact ⟨hmon' u h1, hkept.ckptPending h2, hkept.pendingSet h3⟩

/-- The units of a row at the front of a chain leave, short of WORN entry (R154). -/
theorem removeFront_facts {st : StreamId} {gone : List UnitId} {s : State}
    (h : s.map.retiredCount + gone.countP (fun u => (s.unit u).state == .frozen) < 48) :
    let t := removeFront st gone s
    (t = { s with map := t.map, ctl := { s.ctl with ckptPending := t.ctl.ckptPending }, notices := t.notices }) ∧
      t.map.chains = vset s.map.chains st ((s.chain st).drop gone.length) ∧ unitsLeft gone s t := by
  obtain ⟨⟨he, hc⟩, hl, -⟩ := removeUnits gone (s.setChain st ((s.chain st).drop gone.length)) h
  exact ⟨he, hc, hl⟩

/-- What has left stays gone where no unit record, no list of the map and no flag is taken back. -/
theorem unitsLeft.later {gone : List UnitId} {s t r : State} (h : unitsLeft gone s t) (hm : r.map = t.map)
    (hc : t.ctl.ckptPending = true → r.ctl.ckptPending = true)
    (hn : t.notices.pendingSet.getLsbD 7 = true → r.notices.pendingSet.getLsbD 7 = true) : unitsLeft gone s r := by
  have hu : ∀ u, r.unit u = t.unit u := fun u => congrArg (fun m : UnitMap => vget m.units u) hm
  unfold unitsLeft at h ⊢
  simp only [hm, hu]
  obtain ⟨h1, h2, h3, h4⟩ := h
  exact ⟨h1, h2, fun u hu hf => ⟨(h3 u hu hf).1, hc (h3 u hu hf).2.1, hn (h3 u hu hf).2.2⟩, h4⟩

/-! ## The lanes after a change of the bindings -/

/-- One lane after a change of the bindings (R71). -/
def listens (streams : Vector StreamRec 8) (l : LaneId) (x : Lane) : Lane :=
  let bound := allStreams.any (fun f => ((vget streams f).config.map (·.lane)) == some l)
  if bound = x.listening then x else { x with listening := bound, phase := .awaitBoundary }

theorem relistenLane_eq (s : State) (l : LaneId) : relistenLane s l = s.setLane l (listens s.streams l (s.lane l)) := by
  have hb : isBound s l = allStreams.any (fun f => ((vget s.streams f).config.map (·.lane)) == some l) := by
    unfold isBound
    congr 1
    funext f
    change (match (vget s.streams f).config with | some c => c.lane == l | none => false) = _
    cases (vget s.streams f).config <;> rfl
  unfold relistenLane listens
  rw [hb]
  dsimp only
  split
  · unfold State.setLane State.lane
    rw [show vset s.lanes l (vget s.lanes l) = s.lanes from Vector.set_getElem_self l.isLt]
  · rfl

theorem relistenLanes_eq (l : List LaneId) : ∀ s : State, l.foldl relistenLane s =
    { s with lanes := l.foldl (fun v i => vset v i (listens s.streams i (vget v i))) s.lanes } := by
  induction l with
  | nil => exact fun s => rfl
  | cons i l ih =>
    intro s
    rw [List.foldl_cons, ih, relistenLane_eq]
    rfl

/-- A change of the bindings moves the lanes alone, as the streams say (R71). -/
theorem relisten_eq (s : State) : relisten s = { s with lanes := listenTo s.streams s.lanes } := by
  refine (relistenLanes_eq allLanes s).trans ?_
  congr 1
  refine vget_ext fun i => ?_
  rw [listenTo, vget_ofFn]
  unfold allLanes
  simp only [List.foldl_cons, List.foldl_nil]
  fin_cases i <;> simp [listens]

/-! ## Waiting reads that are withdrawn -/

/-- READ requests are completed with NO_DATA in their order, and nothing else of the machine moves. -/
theorem finishNoDatas_eq (l : List ReadReq) : ∀ s : State, ∃ rq, l.foldl (fun s q => finishNoData q s) s =
    joinReplies rq (l.map fun q => replyOf .read q.tag .noData (readNothing q)) s := by
  induction l with
  | nil => exact fun s => ⟨s.link.requests, by unfold joinReplies; rw [List.map_nil, List.append_nil]; rfl⟩
  | cons q l ih =>
    intro s
    obtain ⟨rq, h⟩ := ih (finishNoData q s)
    exact ⟨rq, h.trans (joinReplies_joinReplies ..)⟩

/-- A waiting read of the stream lies outside what its record `r` holds (R147). -/
def lostTo (st : StreamId) (r : StreamRec) (q : ReadReq) : Bool :=
  decide (q.stream = st ∧ (r.state = .undefined ∨ q.pageNumber < r.basePage ∨ r.endPage ≤ q.pageNumber))

theorem withdrawReads_eq (st : StreamId) (s : State) : ∃ rq, withdrawReads st s =
    joinReplies rq ((s.reads.waitList.filter (lostTo st (s.stream st))).map fun q => replyOf .read q.tag .noData (n8 st.val ++ n32 q.pageNumber))
      (s.setReadWaits (s.reads.waitList.filter fun q => !lostTo st (s.stream st) q)) := by
  have hlost : (fun q : ReadReq => decide (q.stream = st) && unreachable s q) = lostTo st (s.stream st) := by
    funext q
    by_cases h : q.stream = st
    · rw [Bool.eq_iff_iff]
      simp [unreachable, lostTo, h, or_assoc]
    · simp [lostTo, h]
  unfold withdrawReads
  dsimp only
  rw [hlost]
  have hnot : (fun q : ReadReq => !(decide (q.stream = st) && unreachable s q)) = fun q => !lostTo st (s.stream st) q :=
    funext fun q => congrArg (!·) (congrFun hlost q)
  obtain ⟨rq, h⟩ := finishNoDatas_eq (s.reads.waitList.filter (lostTo st (s.stream st)))
    (s.setReadWaits (s.reads.waitList.filter fun q => !lostTo st (s.stream st) q))
  refine ⟨rq, (by rw [hnot] : _ = _).trans (h.trans ?_)⟩
  congr 1
  refine List.map_congr_left fun q hq => ?_
  have hs : q.stream = st := (of_decide_eq_true (List.mem_filter.1 hq).2).1
  rw [readNothing, hs]

/-! ## DELETE -/

theorem becomeUndefined_eq (st : StreamId) (s : State) : becomeUndefined st s =
    { s with streams := vset s.streams st StreamRec.undefined, lanes := listenTo (vset s.streams st StreamRec.undefined) s.lanes } :=
  relisten_eq _

/-- DELETE of a stream that is quiet, short of WORN entry (R33, R159). -/
theorem deleteStream_facts {tag : Byte} {st : StreamId} {s : State}
    (h : s.map.retiredCount + (s.chain st).countP (fun u => (s.unit u).state == .frozen) < 48) :
    let t := deleteStream tag st s
    let streams := vset s.streams st StreamRec.undefined
    unitsLeft (s.chain st) s t ∧ t.map.chains = vset s.map.chains st [] ∧ t.streams = streams ∧ t.lanes = listenTo streams s.lanes ∧
      t.reads.waitList = s.reads.waitList.filter (fun q => q.stream ≠ st) ∧
      t.link.replies = s.link.replies ++ (s.reads.waitList.filter (fun q => q.stream = st)).map
          (fun q => replyOf .read q.tag .noData (n8 st.val ++ n32 q.pageNumber)) ++
        [replyOf .delete tag .ok (n8 st.val ++ n16 (s.chain st).length ++ n16 ((s.chain st).countP (fun u => (s.unit u).state == .frozen)))] ∧
      t.bufs = s.bufs ∧ t.engine = s.engine ∧ t.triggers = s.triggers ∧ t.array = s.array ∧ t.ctl.device = s.ctl.device := by
  intro t streams
  obtain ⟨he, hc, hl⟩ := removeFront_facts (st := st) h
  have ht : t = finishDelete tag st (s.chain st).length ((s.chain st).countP (fun u => (s.unit u).state == .frozen))
    (withdrawReads st (becomeUndefined st (removeFront st (s.chain st) s))) := rfl
  rw [becomeUndefined_eq] at ht
  generalize removeFront st (s.chain st) s = v at *
  obtain ⟨rq, hw⟩ := withdrawReads_eq st
    { v with streams := vset v.streams st StreamRec.undefined, lanes := listenTo (vset v.streams st StreamRec.undefined) v.lanes }
  have hlost : lostTo st (vget (vset v.streams st StreamRec.undefined) st) = fun q => decide (q.stream = st) := by
    funext q
    rw [vget_vset_self]
    simp [lostTo, StreamRec.undefined]
  have hkeep : (fun q : ReadReq => !decide (q.stream = st)) = fun q => decide (q.stream ≠ st) := by
    funext q
    simp
  rw [hw] at ht
  simp only [show ∀ x : State, x.stream st = vget x.streams st from fun _ => rfl, hlost, hkeep] at ht
  have hs : v.streams = s.streams := by rw [he]
  have hla : v.lanes = s.lanes := by rw [he]
  have hre : v.reads = s.reads := by rw [he]
  have hli : v.link = s.link := by rw [he]
  rw [hs, hla, hre] at ht
  rw [ht]
  refine ⟨hl.later rfl id id, ?_, rfl, rfl, rfl, ?_, (congrArg State.bufs he :), (congrArg State.engine he :), (congrArg State.triggers he :),
    (congrArg State.array he :), (congrArg (fun x => x.ctl.device) he :)⟩
  · exact hc.trans (by rw [List.drop_length])
  · exact (congrArg (fun l : Link => l.replies ++ _ ++ _) hli :)

/-- Settles O38: the refusals, the UNDEFINED stream, and the quiet one. -/
theorem deleteEmptiesTheStream : Obligations.DeleteEmptiesTheStream := by
  intro tag p s ha
  refine ⟨fun hst => exec_refused ha ?_, fun st hst => ?_⟩
  · unfold ownRequest deleteRequest onStream
    dsimp only
    rw [hst]
  intro r
  have hown : ownRequest .delete tag p (waiting .delete tag p s) = deleteOn tag st (waiting .delete tag p s) := by
    unfold ownRequest deleteRequest onStream
    dsimp only
    rw [hst]
  have hquiet : ¬(r.state = .armed ∨ r.state = .capturing ∨ r.relocating = true ∨ 0 < r.inFlight) →
      deleteOn tag st (waiting .delete tag p s) = if r.state = .undefined then finishDelete tag st 0 0 (waiting .delete tag p s)
        else deleteStream tag st (waiting .delete tag p s) := fun h => if_neg h
  refine ⟨fun hbusy => exec_refused ha (hown.trans (if_pos hbusy)), fun hu hrel hin => ?_, fun hq hrel hin hn => ?_⟩
  · exact exec_answered ha (hown.trans ((hquiet (by simp [hu, hrel, hin])).trans (if_pos hu)))
  · intro streams
    have hne : r.state ≠ .undefined := by rcases hq with h | h | h <;> simp [h]
    have hown' := hown.trans ((hquiet (by rcases hq with h | h | h <;> simp [h, hrel, hin])).trans (if_neg hne))
    obtain ⟨h1, h2, h3, h4, h5, h6, h7, h8, h9, h10, h11⟩ := deleteStream_facts (tag := tag) (st := st) (s := waiting .delete tag p s) hn
    rw [← hown'] at h1 h2 h3 h4 h5 h6 h7 h8 h9 h10 h11
    have hs : Stands _ (settle s (ownRequest .delete tag p (waiting .delete tag p s))) := settle_stands (.inr h11.symm)
    have hch : ∀ f, (settle s (ownRequest .delete tag p (waiting .delete tag p s))).chain f = vget (vset s.map.chains st []) f := fun f =>
      (hs.chain f).trans (congrArg (fun v => vget v f) h2)
    exact ⟨_, exec_accepted ha, h1.later hs.map hs.ckptPending hs.pendingSet, (hch st).trans (vget_vset_self ..),
      fun f hf => (hch f).trans (vget_vset_ne _ _ (Ne.symm hf)), hs.streams.trans h3, hs.lanes.trans h4, (congrArg ReadPath.waitList hs.reads).trans h5,
      hs.replies.trans h6, hs.bufs.trans h7, hs.engine.trans h8, hs.triggers.trans h9, hs.array.trans h10⟩

end Sys2Proof.Machine
end

section
/-!
PROOFS. RELEASE (R53, R152 to R156): the front of the chain that leaves it, base page and the gaps, and the stream that holds nothing.
-/
-- The theorems of this file are elaborated one after another: in parallel their waiting threads exceed the memory limit of the check.
set_option Elab.async false

namespace Sys2Proof.Machine

/-! ## What a RELEASE moves -/

/-- The test of R153 on the unit at the front of the chain. -/
theorem releasable_iff (s : State) (limit : Nat) (u : UnitId) : releasable s limit u = true ↔
    ((s.unit u).firstPage.getD 0) + (s.unit u).assigned ≤ limit ∧ (s.unit u).programmed = (s.unit u).assigned ∧
      (∀ x, s.reloc.current = some x → x.source ≠ u) ∧ ∀ x ∈ s.reloc.waitList, x.source ≠ u := by
  have hu : underRelocation s u = false ↔ (∀ x, s.reloc.current = some x → x.source ≠ u) ∧ ∀ x ∈ s.reloc.waitList, x.source ≠ u := by
    unfold underRelocation
    cases s.reloc.current <;> simp
  simp [releasable, hu, and_assoc]

/-- Where the held range of a stream begins when the chain `rest` is left to it (R155, step 1): the first page of its front unit as `t` has it,
or, of an empty chain, the page that the stream holds or its end page as `s` has them. -/
def frontPage (rest : List UnitId) (st : StreamId) (s t : State) : Nat :=
  match rest with
  | u :: _ => (t.unit u).firstPage.getD 0
  | [] => ((s.heldBuf st).bind (fun b => (s.buf b).sealed)).elim (s.stream st).endPage (·.pageNumber)

theorem newBase_eq (st : StreamId) (s : State) : newBase st s = frontPage (s.chain st) st s s := by
  unfold newBase frontPage
  cases s.chain st with
  | cons u l => rfl
  | nil =>
    cases s.heldBuf st with
    | none => rfl
    | some b => cases h : (s.buf b).sealed <;> simp [h]

theorem frontPage_congr {rest : List UnitId} {st : StreamId} {s s' : State} (t : State) (hs : s'.streams = s.streams) (hb : s'.bufs = s.bufs) :
    frontPage rest st s' t = frontPage rest st s t := by
  cases rest with
  | cons u l => rfl
  | nil =>
    unfold frontPage State.heldBuf State.buf State.stream
    rw [hs, hb]

/-- The record of a stream after a RELEASE that leaves it the chain `rest` and the base page `base` (R155). -/
def releasedRecord (rest : List UnitId) (base : Nat) (r : StreamRec) : StreamRec :=
  if rest = [] ∧ r.inFlight = 0 ∧ r.state = .dormant then StreamRec.undefined
  else if rest = [] ∧ r.inFlight = 0 ∧ (r.state = .bound ∨ r.state = .faulted) ∧ r.endPage = 0xFFFFFFFF then
    { r with basePage := 0, endPage := 0, gaps := [] }
  else { r with basePage := base, gaps := r.gaps.filter (fun g => base < g.first + g.count) }

/-- Steps 3 and 4 of R155 move the stream's record alone, and its lane when it becomes UNDEFINED. -/
theorem settleReleased_eq {st : StreamId} {s : State} {base : Nat} {r : StreamRec}
    (h : s.stream st = { r with basePage := base, gaps := gapsFrom base r.gaps }) :
    ∃ lanes, settleReleased st s = { s with streams := vset s.streams st (releasedRecord (s.chain st) base r), lanes := lanes } ∧
      (r.state ≠ .dormant → lanes = s.lanes) := by
  have hholds : holdsNothing st s = true ↔ s.chain st = [] ∧ r.inFlight = 0 := by
    unfold holdsNothing
    rw [h]
    simp
  have hst : (s.stream st).state = r.state := (congrArg StreamRec.state h :)
  have hend : (s.stream st).endPage = r.endPage := (congrArg StreamRec.endPage h :)
  have hkeep : s = { s with streams := vset s.streams st { r with basePage := base, gaps := gapsFrom base r.gaps } } := by
    rw [← h]
    exact congrArg (fun v => ({ s with streams := v } : State)) (Vector.set_getElem_self st.isLt).symm
  unfold settleReleased releasedRecord
  dsimp only
  rw [hst, hend]
  by_cases hn : s.chain st = [] ∧ r.inFlight = 0
  · rw [if_pos (hholds.2 hn)]
    by_cases hd : r.state = .dormant
    · exact ⟨_, by rw [if_pos hd, if_pos ⟨hn.1, hn.2, hd⟩]; exact becomeUndefined_eq st s, fun hne => absurd hd hne⟩
    · rw [if_neg hd, if_neg (c := s.chain st = [] ∧ r.inFlight = 0 ∧ r.state = .dormant) fun hc => hd hc.2.2]
      by_cases hx : (r.state = .bound ∨ r.state = .faulted) ∧ r.endPage = maxPage
      · rw [if_pos hx, if_pos ⟨hn.1, hn.2, hx⟩, h]
        exact ⟨s.lanes, rfl, fun _ => rfl⟩
      · rw [if_neg hx, if_neg fun hc => hx hc.2.2]
        exact ⟨s.lanes, hkeep, fun _ => rfl⟩
  · rw [if_neg fun hc => hn (hholds.1 hc), if_neg fun hc => hn ⟨hc.1, hc.2.1⟩, if_neg fun hc => hn ⟨hc.1, hc.2.1⟩]
    exact ⟨s.lanes, hkeep, fun _ => rfl⟩

/-- The front of the chain that leaves it, and what stays (R153). -/
theorem takeWhile_split {α : Type} (p : α → Bool) (l : List α) :
    l = l.takeWhile p ++ l.drop (l.takeWhile p).length ∧ (∀ x ∈ l.takeWhile p, p x = true) ∧
      ∀ x m, l.drop (l.takeWhile p).length = x :: m → p x = false := by
  have hd : l.drop (l.takeWhile p).length = l.dropWhile p := by
    conv_lhs => rw [← List.takeWhile_append_dropWhile (p := p) (l := l)]
    exact List.drop_left' (by rw [List.takeWhile_append_dropWhile])
  rw [hd]
  refine ⟨List.takeWhile_append_dropWhile.symm, fun x hx => List.mem_takeWhile_imp hx, fun x m hx => ?_⟩
  have h := List.head?_dropWhile_not p l
  rwa [hx] at h

/-- The base page that a RELEASE leaves, when the units `gone` leave the chain and `rest` stays (R155, step 1). -/
def baseAfter (gone rest : List UnitId) (st : StreamId) (s t : State) : Nat :=
  if gone = [] then (s.stream st).basePage else frontPage rest st s t

/-- Steps 1 and 2 of R155, in a state that still has the streams and the buffers of `s`. -/
theorem moveBase_eq {gone rest : List UnitId} {st : StreamId} {s v : State} (hs : v.streams = s.streams) (hb : v.bufs = s.bufs)
    (hc : v.chain st = rest) :
    let base := baseAfter gone rest st s v
    moveBase st (!gone.isEmpty) v = v.setStream st { s.stream st with basePage := base, gaps := gapsFrom base (s.stream st).gaps } := by
  intro base
  have hst : v.stream st = s.stream st := congrArg (fun x => vget x st) hs
  have hbase : (if (!gone.isEmpty) = true then newBase st v else (v.stream st).basePage) = base := by
    unfold base baseAfter
    rw [newBase_eq, hc, frontPage_congr v hs hb, hst]
    cases gone with
    | nil => rfl
    | cons x l => rfl
  unfold moveBase
  dsimp only
  rw [hbase, hst]

section

variable {tag : Byte} {st : StreamId} {limit : Nat} {s : State}

/-- RELEASE of a stream that is not UNDEFINED, short of WORN entry (R153 to R156). -/
theorem releaseOn_facts (h : s.map.retiredCount + (s.chain st).countP (fun u => (s.unit u).state == .frozen) < 48) :
    let gone := (s.chain st).takeWhile (releasable s limit)
    let rest := (s.chain st).drop gone.length
    let t := releaseOn tag st limit s
    let r := releasedRecord rest (baseAfter gone rest st s t) (s.stream st)
    unitsLeft gone s t ∧ t.map.chains = vset s.map.chains st rest ∧ t.streams = vset s.streams st r ∧
      t.reads.waitList = s.reads.waitList.filter (fun q => !lostTo st r q) ∧
      t.link.replies = s.link.replies ++
        (s.reads.waitList.filter (lostTo st r)).map (fun q => replyOf .read q.tag .noData (n8 st.val ++ n32 q.pageNumber)) ++
        [replyOf .release tag .ok (n8 st.val ++ n16 gone.length ++ n16 (gone.countP (fun u => (s.unit u).state == .frozen)) ++
          n32 r.basePage ++ n32 r.endPage ++ [streamStateCode r.state])] ∧
      t.bufs = s.bufs ∧ t.engine = s.engine ∧ t.triggers = s.triggers ∧ t.array = s.array ∧ t.ctl.device = s.ctl.device ∧
      ((s.stream st).state ≠ .dormant → t.lanes = s.lanes) := by
  intro gone rest t r
  have hle : gone.countP (fun u => (s.unit u).state == .frozen) ≤ (s.chain st).countP (fun u => (s.unit u).state == .frozen) :=
    (List.takeWhile_sublist _).countP_le
  obtain ⟨he, hc, hl⟩ := removeFront_facts (st := st) (gone := gone) (Nat.lt_of_le_of_lt (Nat.add_le_add_left hle _) h)
  have ht : t = finishRequest .release tag .ok _ none (withdrawReads st (settleReleased st (moveBase st (!gone.isEmpty) (removeFront st gone s)))) := rfl
  generalize removeFront st gone s = v at *
  have hstr : v.streams = s.streams := by rw [he]
  have hbufs : v.bufs = s.bufs := by rw [he]
  have hlanes : v.lanes = s.lanes := by rw [he]
  have hreads : v.reads = s.reads := by rw [he]
  have hlink : v.link = s.link := by rw [he]
  have hchain : v.chain st = rest := (congrArg (fun x => vget x st) hc).trans (vget_vset_self ..)
  rw [moveBase_eq hstr hbufs hchain] at ht
  obtain ⟨lanes, hse, hla⟩ := settleReleased_eq (st := st) (r := s.stream st) (base := baseAfter gone rest st s v)
    (s := v.setStream st { s.stream st with
      basePage := baseAfter gone rest st s v, gaps := gapsFrom (baseAfter gone rest st s v) (s.stream st).gaps }) (vget_vset_self ..)
  have hfinal : ({ v.setStream st { s.stream st with
        basePage := baseAfter gone rest st s v, gaps := gapsFrom (baseAfter gone rest st s v) (s.stream st).gaps } with
      streams := vset (v.setStream st { s.stream st with
        basePage := baseAfter gone rest st s v, gaps := gapsFrom (baseAfter gone rest st s v) (s.stream st).gaps }).streams st
          (releasedRecord (v.chain st) (baseAfter gone rest st s v) (s.stream st))
      lanes := lanes } : State) =
      { v with streams := vset s.streams st (releasedRecord rest (baseAfter gone rest st s v) (s.stream st)), lanes := lanes } := by
    rw [hchain, ← hstr]
    exact congrArg (fun x => ({ v with streams := x, lanes := lanes } : State)) (vset_vset ..)
  rw [hse.trans hfinal] at ht
  obtain ⟨rq, hw⟩ := withdrawReads_eq st
    { v with streams := vset s.streams st (releasedRecord rest (baseAfter gone rest st s v) (s.stream st)), lanes := lanes }
  rw [hw] at ht
  have hmap : t.map = v.map := by rw [ht]; rfl
  have hbase : baseAfter gone rest st s t = baseAfter gone rest st s v := by
    unfold baseAfter frontPage State.unit
    rw [hmap]
  have hr : r = releasedRecord rest (baseAfter gone rest st s v) (s.stream st) := by
    unfold r
    rw [hbase]
  rw [← hr] at ht
  clear_value r
  simp only [show ∀ x : State, x.stream st = vget x.streams st from fun _ => rfl,
    show ∀ rq l (x : State), (joinReplies rq l x).streams = x.streams from fun _ _ _ => rfl, State.setReadWaits_streams, vget_vset_self,
    hreads] at ht
  rw [ht]
  exact ⟨hl.later rfl id id, hc, rfl, rfl, (congrArg (fun l : Link => l.replies ++ _ ++ _) hlink :), hbufs, (congrArg State.engine he :),
    (congrArg State.triggers he :), (congrArg State.array he :), (congrArg (fun x => x.ctl.device) he :), fun h => (hla h).trans hlanes⟩

end

/-- Settles O37: the UNDEFINED stream, and the front of the chain that R153 lets go. -/
theorem releaseRemovesTheFront : Obligations.ReleaseRemovesTheFront := by
  intro tag p s ha
  have hbad : streamOf (field8 p 2) = none → ownRequest .release tag p (waiting .release tag p s) =
      refuse .release tag .badParam (waiting .release tag p s) := fun hst => by
    unfold ownRequest releaseRequest
    dsimp only
    rw [hst]
  refine ⟨fun hst => exec_refused ha (hbad hst), fun st hst => ?_⟩
  intro r limit leaves
  have hown : ownRequest .release tag p (waiting .release tag p s) =
      if r.state = .undefined then finishRequest .release tag .ok (n8 st.val ++ List.replicate 13 0) none (waiting .release tag p s)
      else releaseOn tag st limit (waiting .release tag p s) := by
    unfold ownRequest releaseRequest
    dsimp only
    rw [hst]
    rfl
  refine ⟨fun hu => exec_answered ha (hown.trans (if_pos hu)), fun hu hn => ?_⟩
  have hown := hown.trans (if_neg hu)
  obtain ⟨h1, h2, h3, h4, h5, h6, h7, h8, h9, h10, h11⟩ :=
    releaseOn_facts (tag := tag) (st := st) (limit := limit) (s := waiting .release tag p s) hn
  rw [← hown] at h1 h2 h3 h4 h5 h6 h7 h8 h9 h10 h11
  have hs : Stands _ (settle s (ownRequest .release tag p (waiting .release tag p s))) := settle_stands (.inr h10.symm)
  obtain ⟨hsplit, hall, hhead⟩ := takeWhile_split (releasable s limit) (s.chain st)
  have hex := exec_accepted ha
  rw [show commandOf .release tag p = .release tag p from rfl] at hex
  generalize settle s (ownRequest .release tag p (waiting .release tag p s)) = t at hs hex
  generalize ownRequest .release tag p (waiting .release tag p s) = u at *
  have hchain : ∀ f, t.chain f = vget (vset s.map.chains st _) f := fun f => (hs.chain f).trans (congrArg (fun v => vget v f) h2)
  have hstream : ∀ f, t.stream f = vget (vset s.streams st _) f := fun f => (hs.stream f).trans (congrArg (fun v => vget v f) h3)
  have hrec : t.stream st = _ := (hstream st).trans (vget_vset_self ..)
  rw [← hrec] at h4 h5
  have hbase : ∀ gone rest, baseAfter gone rest st s u = baseAfter gone rest st s t := fun gone rest => by
    unfold baseAfter frontPage State.unit
    rw [hs.map]
  refine ⟨t, _, _, hex, hsplit, fun x hx => (releasable_iff s limit x).1 (hall x hx), fun x l hl hx => ?_,
    h1.later hs.map hs.ckptPending hs.pendingSet, (hchain st).trans (vget_vset_self ..),
    fun f hf => ⟨(hchain f).trans (vget_vset_ne _ _ (Ne.symm hf)), (hstream f).trans (vget_vset_ne _ _ (Ne.symm hf))⟩,
    hrec.trans (congrArg (fun b => releasedRecord _ b r) (hbase _ _)), ⟨(congrArg ReadPath.waitList hs.reads).trans h4, hs.replies.trans h5⟩,
    hs.bufs.trans h6, hs.engine.trans h7, hs.triggers.trans h8, hs.array.trans h9, fun hd => hs.lanes.trans (h11 hd)⟩
  exact absurd ((hhead x l hl).symm.trans ((releasable_iff s limit x).2 hx)) (by decide)

end Sys2Proof.Machine
end

section
/-!
PROOFS. The ends of the programs into a relocation's target, short of its abandonment (R38, R40, R119, R124 to R126): the completion, with the
start of the relocation that waits longest, and the failure that takes another target.
-/
-- The theorems of this file are elaborated one after another: in parallel their waiting threads exceed the memory limit of the check.
set_option Elab.async false

namespace Sys2Proof.Machine

/-! ## A relocation that takes a target, and the next one that starts -/

/-- What a target taken from the free list moves of the map and of the relocations (R37, R119). -/
theorem takeTarget_map (r : Reloc) (v : UnitId) (rest : List UnitId) (s : State) :
    (takeTarget r v rest s).map = { s.map with
        units := vset s.map.units v
          ⟨.target, (s.unit v).eraseCount, some r.stream, some ((s.unit r.source).firstPage.getD 0), 0, 0, false⟩
        freeList := rest } ∧
      (takeTarget r v rest s).reloc =
        { s.reloc with current := some { r with target := some v, copyPos := 0, phase := firstPhase r.slot } } := by
  obtain ⟨hm, -, -, -, -, ho, -⟩ := takeFree_facts v rest .target r.stream ((s.unit r.source).firstPage.getD 0) s
  exact ⟨hm, congrArg (fun x : RelocCtl => { x with current := some { r with target := some v, copyPos := 0, phase := firstPhase r.slot } }) ho⟩

/-- The end of a relocation leaves alone whatever a target taken does not move, when the relocation that waits next finds one (R118, R119). -/
theorem startNext_frame {s : State} (h : ∀ w ws, s.reloc.waitList = w :: ws → s.map.freeList ≠ []) :
    let t := startNext s
    t.map.chains = s.map.chains ∧ t.map.retiredSet = s.map.retiredSet ∧ t.map.retiredCount = s.map.retiredCount ∧ t.streams = s.streams ∧
      t.bufs = s.bufs ∧ t.ctl = s.ctl ∧ t.link = s.link := by
  intro t
  cases hw : s.reloc.waitList with
  | nil =>
    have ht : t = _ := startNext_idle hw
    rw [ht]
    exact ⟨rfl, rfl, rfl, rfl, rfl, rfl, rfl⟩
  | cons w ws =>
    obtain ⟨y, free, hf⟩ := List.exists_cons_of_ne_nil (h w ws hw)
    have ht : t = _ := startNext_target hw hf
    obtain ⟨hb, hs, hc, hl, -⟩ := takeTarget_facts (relocOf w) y free ((s.setReloc none).setRelocWaits ws)
    obtain ⟨hm, -⟩ := takeTarget_map (relocOf w) y free ((s.setReloc none).setRelocWaits ws)
    rw [ht]
    exact ⟨(congrArg UnitMap.chains hm :), (congrArg UnitMap.retiredSet hm :), (congrArg UnitMap.retiredCount hm :), hs, hb, hc, hl⟩

/-! ## The source replaced by the target -/

/-- The record of the target that takes the source's place in the chain (R38): `last` says that the source is the last unit there. -/
def placedUnit (r : Reloc) (last : Prop) [Decidable last] (ru rv : UnitRec) : UnitRec :=
  ⟨if last ∧ ru.assigned < 64 then .opened else .full, rv.eraseCount, rv.owner, ru.firstPage, ru.assigned, r.slot + 1, false⟩

theorem replaceUnit_eq {r : Reloc} {v : UnitId} {s : State} (hne : r.source ≠ v) : replaceUnit r v (advanceTarget v s) =
    retire r.source ((s.setUnit v (placedUnit r ((s.chain r.stream).getLast? = some r.source) (s.unit r.source) (s.unit v))).setChain r.stream
      ((s.chain r.stream).map fun x => if x = r.source then v else x)) := by
  have hru : (advanceTarget v s).unit r.source = s.unit r.source := State.setUnit_unit_ne _ _ _ _ (Ne.symm hne)
  have hrv : (advanceTarget v s).unit v =
      { s.unit v with assigned := (s.unit v).assigned + 1, programmed := (s.unit v).programmed + 1 } := State.setUnit_unit ..
  have hset : ∀ x, (advanceTarget v s).setUnit v x = s.setUnit v x := fun x =>
    congrArg (fun us => ({ s with map := { s.map with units := us } } : State)) (vset_vset ..)
  unfold replaceUnit
  dsimp only
  rw [hru, hrv, hset]
  rfl

/-- The target takes the source's place in the chain, and the source is retired, short of WORN entry (R38, R40). -/
theorem replaceUnit_facts {r : Reloc} {v : UnitId} {s : State} (hne : r.source ≠ v)
    (h : s.map.retiredCount ≠ 47 ∨ s.ctl.device ≠ .ready) :
    let t := replaceUnit r v (advanceTarget v s)
    t.unit v = placedUnit r ((s.chain r.stream).getLast? = some r.source) (s.unit r.source) (s.unit v) ∧
      t.unit r.source = unitOut .retired (s.unit r.source) ∧ (∀ x, x ≠ v → x ≠ r.source → t.unit x = s.unit x) ∧
      t.map.freeList = s.map.freeList ∧
      t.map.chains = vset s.map.chains r.stream ((s.chain r.stream).map (fun x => if x = r.source then v else x)) ∧
      r.source ∈ t.map.retiredSet ∧ t.map.retiredCount = s.map.retiredCount + 1 ∧ t.ctl = { s.ctl with ckptPending := true } ∧
      t.notices.pendingSet.getLsbD 7 = true ∧ t.streams = s.streams ∧ t.bufs = s.bufs ∧ t.link = s.link ∧ t.reloc = s.reloc := by
  intro t
  have ht : t = retire r.source _ := replaceUnit_eq hne
  generalize placedUnit r ((s.chain r.stream).getLast? = some r.source) (s.unit r.source) (s.unit v) = p at *
  generalize (s.chain r.stream).map (fun x => if x = r.source then v else x) = c at *
  rw [retire_plain (s := (s.setUnit v p).setChain r.stream c) h] at ht
  have hunit : ((s.setUnit v p).setChain r.stream c).unit r.source = s.unit r.source := State.setUnit_unit_ne _ _ _ _ (Ne.symm hne)
  have hm : t.map = retiredMap r.source ((s.setUnit v p).setChain r.stream c) := by rw [ht]; rfl
  have hu : ∀ x, t.unit x = vget (vset (s.setUnit v p).map.units r.source (unitOut .retired (s.unit r.source))) x := fun x => by
    unfold State.unit
    rw [hm, retiredMap, hunit]
    rfl
  refine ⟨?_, ?_, fun x hv hs => ?_, (congrArg UnitMap.freeList hm :), (congrArg UnitMap.chains hm :), ?_, (congrArg UnitMap.retiredCount hm :), ?_⟩
  · rw [hu, vget_vset_ne _ _ hne]
    exact State.setUnit_unit ..
  · rw [hu, vget_vset_self]
  · rw [hu, vget_vset_ne _ _ (Ne.symm hs)]
    exact State.setUnit_unit_ne _ _ _ _ (Ne.symm hv)
  · rw [hm]
    exact mem_retiredInsert ..
  · rw [ht]
    exact ⟨rfl, retireRecord_pendingSet .., rfl, rfl, rfl, rfl⟩

/-- The queue entries that name the source name the target, and of the buffers none but their units moves (R126). -/
theorem renameEntries_eq (r : Reloc) (v : UnitId) (s : State) : ∃ bs, renameEntries r v s = { s with bufs := { s.bufs with
    bufs := bs, queue := s.bufs.queue.map (fun e => if e.stream = r.stream ∧ e.unit = r.source then { e with unit := v } else e) } } := by
  have hfold : ∀ (l : List QueueEntry) (x : State), ∃ bs, l.foldl (fun s e => if e.stream = r.stream ∧ e.unit = v then
      s.setBuf e.buf { s.buf e.buf with unit := some v } else s) x = { x with bufs := { x.bufs with bufs := bs } } := by
    intro l
    induction l with
    | nil => exact fun x => ⟨x.bufs.bufs, rfl⟩
    | cons e l ih =>
      intro x
      rw [List.foldl_cons]
      split
      · obtain ⟨bs, h⟩ := ih (x.setBuf e.buf { x.buf e.buf with unit := some v })
        exact ⟨bs, h⟩
      · exact ih x
  obtain ⟨bs, h⟩ := hfold (s.bufs.queue.map (fun e => if e.stream = r.stream ∧ e.unit = r.source then { e with unit := v } else e))
    (s.setQueue (s.bufs.queue.map (fun e => if e.stream = r.stream ∧ e.unit = r.source then { e with unit := v } else e)))
  exact ⟨bs, h⟩

/-! ## The completion -/

/-- The buffer of a page that has left the flight (R93, R125): it is freed, the page is counted out, and the FLUSH requests are looked at. -/
def bufferBack (st : StreamId) (b : BufId) (s : State) : State :=
  let s := freeBuffer b s
  let s := s.setStream st { s.stream st with inFlight := (s.stream st).inFlight - 1 }
  raise .relocated st.val (checkFlushes st s)

theorem bufferBack_facts (st : StreamId) (b : BufId) (s : State) :
    let t := bufferBack st b s
    t.map = s.map ∧ t.ctl = s.ctl ∧ t.reloc = s.reloc ∧ t.bufs.queue = s.bufs.queue ∧
      sameRun { s.stream st with inFlight := (s.stream st).inFlight - 1 } (t.stream st) ∧
      (∀ f, f ≠ st → sameRun (s.stream f) (t.stream f)) ∧
      (s.bufs.waitList = [] → t.bufs.pool = s.bufs.pool ++ [b] ∧ t.buf b = PageBuf.empty) ∧
      t.notices.pendingSet.getLsbD 6 = true ∧
      (∀ i, s.notices.pendingSet.getLsbD i = true → t.notices.pendingSet.getLsbD i = true) ∧
      ∃ l, t.link.replies = s.link.replies ++ l ∧ (2 ≤ (s.stream st).inFlight → l = []) := by
  intro t
  obtain ⟨hm, hl, hc, hr, hq, -, -⟩ := freeBuffer_frame b s
  have hrun := freeBuffer_sameRun b s
  have hpool := @freeBuffer_pool b s
  have hkept : Kept s t := ((((Kept.refl s).freeBuffer b).next).checkFlushes st).raise .relocated st.val
  have ht : t = raise .relocated st.val (checkFlushes st ((freeBuffer b s).setStream st
    { (freeBuffer b s).stream st with inFlight := ((freeBuffer b s).stream st).inFlight - 1 })) := rfl
  generalize freeBuffer b s = y at *
  obtain ⟨rq, hf⟩ := checkFlushes_eq st (y.setStream st { y.stream st with inFlight := (y.stream st).inFlight - 1 })
  have hin : (y.stream st).inFlight = (s.stream st).inFlight := by
    have e : _ = _ := hrun st
    exact (congrArg StreamRec.inFlight e :)
  generalize hlist : ((y.setStream st { y.stream st with inFlight := (y.stream st).inFlight - 1 }).bufs.flushWaiters.filter _).map _ = l at hf
  rw [hf] at ht
  refine ⟨?_, ?_, ?_, ?_, ?_, fun f hf => ?_, fun hw => ?_, ?_, fun i => hkept.pendingSet, l, ?_, fun h2 => ?_⟩
  · rw [ht]; exact hm
  · rw [ht]; exact hc
  · rw [ht]; exact hr
  · rw [ht]; exact hq
  · have e : _ = _ := hrun st
    have hst : t.stream st = { y.stream st with inFlight := (y.stream st).inFlight - 1 } := by
      rw [ht]
      exact State.setStream_stream ..
    rw [hst]
    exact (congrArg (fun x : StreamRec => { x with inFlight := x.inFlight - 1 }) e :)
  · have hst : t.stream f = y.stream f := by
      rw [ht]
      exact State.setStream_stream_ne _ _ _ _ (Ne.symm hf)
    rw [hst]
    exact hrun f
  · rw [ht]; exact hpool hw
  · rw [ht]; exact raise_bit ..
  · rw [ht, ← hl]; rfl
  · rw [← hlist, State.setStream_stream, hin, List.map_eq_nil_iff, List.filter_eq_nil_iff]
    intro w _
    rw [decide_eq_true_iff]
    rintro ⟨-, h0⟩
    have h0 : (s.stream st).inFlight - 1 = 0 := h0
    omega

/-- The state in which a completed relocation has ended, before the next one starts (R125). -/
def relocationOver (r : Reloc) (v : UnitId) (s : State) : State :=
  let s := renameEntries r v (replaceUnit r v (advanceTarget v s))
  let s := s.setStream r.stream { s.stream r.stream with relocating := false }
  let s := freeBuffer r.buf s
  let s := s.setStream r.stream { s.stream r.stream with inFlight := (s.stream r.stream).inFlight - 1 }
  raise .relocated r.stream.val (checkFlushes r.stream s)

theorem completeRelocation_eq (r : Reloc) (v : UnitId) (s : State) : completeRelocation r v s = startNext (relocationOver r v s) := rfl

/-- What the completion moves beside the map (R125, R126): the queue, the stream, the buffer and the FLUSH requests. -/
theorem relocationOver_facts {r : Reloc} {v : UnitId} {s x : State} (hx : x = replaceUnit r v (advanceTarget v s)) :
    let t := relocationOver r v s
    t.map = x.map ∧ t.ctl = x.ctl ∧ t.reloc = x.reloc ∧
      t.bufs.queue = x.bufs.queue.map (fun e => if e.stream = r.stream ∧ e.unit = r.source then { e with unit := v } else e) ∧
      sameRun { x.stream r.stream with relocating := false, inFlight := (x.stream r.stream).inFlight - 1 } (t.stream r.stream) ∧
      (∀ f, f ≠ r.stream → sameRun (x.stream f) (t.stream f)) ∧
      (x.bufs.waitList = [] → t.bufs.pool = x.bufs.pool ++ [r.buf] ∧ t.buf r.buf = PageBuf.empty) ∧
      t.notices.pendingSet.getLsbD 6 = true ∧ (x.notices.pendingSet.getLsbD 7 = true → t.notices.pendingSet.getLsbD 7 = true) ∧
      ∃ l, t.link.replies = x.link.replies ++ l ∧ (2 ≤ (x.stream r.stream).inFlight → l = []) := by
  obtain ⟨bs, h1⟩ := renameEntries_eq r v x
  have hlater : relocationOver r v s = bufferBack r.stream r.buf
      ((renameEntries r v x).setStream r.stream { (renameEntries r v x).stream r.stream with relocating := false }) := by
    rw [hx]
    rfl
  generalize hq : x.bufs.queue.map (fun e => if e.stream = r.stream ∧ e.unit = r.source then { e with unit := v } else e) = q at h1 ⊢
  rw [hlater, h1]
  obtain ⟨hm, hc, hr, hb, hs, ho, hp, h6, hbits, l, hl, hnil⟩ := bufferBack_facts r.stream r.buf
    (({ x with bufs := { x.bufs with bufs := bs, queue := q } } : State).setStream r.stream { x.stream r.stream with relocating := false })
  rw [State.setStream_stream] at hs hnil
  refine ⟨hm, hc, hr, hb, hs, fun f hf => ?_, hp, h6, hbits 7, l, hl, hnil⟩
  have hof := ho f hf
  rw [State.setStream_stream_ne _ _ _ _ (Ne.symm hf)] at hof
  exact hof

section
variable {r : Reloc} {v : UnitId} {s t : State} (hne : r.source ≠ v) (hr : s.map.retiredCount ≠ 47 ∨ s.ctl.device ≠ .ready)
  (ht : Stands ((completeRelocation r v s).setOp none) t)
include hne hr

theorem completeRelocation_device (hfree : ∀ w ws, s.reloc.waitList = w :: ws → s.map.freeList ≠ []) :
    (completeRelocation r v s).ctl.device = s.ctl.device := by
  obtain ⟨-, -, -, hfl, -, -, -, hctl, -, -, -, -, hrel⟩ := replaceUnit_facts hne hr
  obtain ⟨om, oc, or, -⟩ := relocationOver_facts (r := r) (v := v) (s := s) rfl
  rw [completeRelocation_eq]
  generalize replaceUnit r v (advanceTarget v s) = x at *
  generalize relocationOver r v s = y at *
  obtain ⟨-, -, -, -, -, nctl, -⟩ := startNext_frame (s := y) (by rw [or, om, hrel, hfl]; exact hfree)
  rw [nctl, oc, hctl]

include ht

/-- What a completion moves outside the records of the units (R38, R40, R125, R126), whether another relocation follows or not. -/
theorem completion_facts (hfree : ∀ w ws, s.reloc.waitList = w :: ws → s.map.freeList ≠ []) :
    t.chain r.stream = (s.chain r.stream).map (fun x => if x = r.source then v else x) ∧
      (∀ f, f ≠ r.stream → t.chain f = s.chain f ∧ sameRun (s.stream f) (t.stream f)) ∧
      r.source ∈ t.map.retiredSet ∧ t.map.retiredCount = s.map.retiredCount + 1 ∧ t.ctl.ckptPending = true ∧
      t.bufs.queue = s.bufs.queue.map (fun e => if e.stream = r.stream ∧ e.unit = r.source then { e with unit := v } else e) ∧
      sameRun { s.stream r.stream with relocating := false, inFlight := (s.stream r.stream).inFlight - 1 } (t.stream r.stream) ∧
      (s.bufs.waitList = [] → t.bufs.pool = s.bufs.pool ++ [r.buf] ∧ t.buf r.buf = PageBuf.empty) ∧
      t.notices.pendingSet.getLsbD 6 = true ∧ t.notices.pendingSet.getLsbD 7 = true ∧
      ∃ l, t.link.replies = s.link.replies ++ l ∧ (2 ≤ (s.stream r.stream).inFlight → l = []) := by
  obtain ⟨-, -, -, hfl, hch, hmem, hcount, hctl, h7, hstr, hbufs, hlink, hrel⟩ := replaceUnit_facts hne hr
  obtain ⟨om, oc, or, oq, ost, oth, op, o6, o7, l, ol, onil⟩ := relocationOver_facts (r := r) (v := v) (s := s) rfl
  have hkept : Kept (relocationOver r v s) (startNext (relocationOver r v s)) := (Kept.refl _).startNext
  rw [completeRelocation_eq] at ht
  generalize replaceUnit r v (advanceTarget v s) = x at *
  generalize relocationOver r v s = y at *
  obtain ⟨nc, nset, ncount, nstr, nbufs, nctl, nlink⟩ := startNext_frame (s := y) (by rw [or, om, hrel, hfl]; exact hfree)
  generalize startNext y = z at *
  have hxs : ∀ f, x.stream f = s.stream f := fun f => congrArg (vget · f) hstr
  have hzs : ∀ f, t.stream f = y.stream f := fun f => (ht.stream f).trans (congrArg (vget · f) nstr)
  have hzc : ∀ f, t.chain f = vget (vset s.map.chains r.stream ((s.chain r.stream).map (fun x => if x = r.source then v else x))) f :=
    fun f => (ht.chain f).trans (congrArg (vget · f) (nc.trans ((congrArg UnitMap.chains om).trans hch)))
  have hzb : t.bufs = y.bufs := ht.bufs.trans nbufs
  rw [hxs] at ost onil
  refine ⟨?_, fun f hf => ⟨?_, ?_⟩, ?_, ?_, ht.ckptPending ?_, ?_, ?_, fun hw => ?_, ht.pendingSet (hkept.pendingSet o6),
    ht.pendingSet (hkept.pendingSet (o7 h7)), l, ?_, onil⟩
  · rw [hzc, vget_vset_self]
  · rw [hzc, vget_vset_ne _ _ (Ne.symm hf)]
    rfl
  · rw [hzs, ← hxs f]
    exact oth f hf
  · rw [ht.map]
    exact (nset.trans (congrArg UnitMap.retiredSet om)) ▸ hmem
  · rw [ht.map]
    exact ncount.trans ((congrArg UnitMap.retiredCount om).trans hcount)
  · show z.ctl.ckptPending = true
    rw [nctl, oc, hctl]
  · rw [hzb, oq, hbufs]
  · rw [hzs]
    exact ost
  · obtain ⟨hpool, hbuf⟩ := op (hbufs ▸ hw)
    have hb : t.buf r.buf = y.buf r.buf := congrArg (fun b : BufMgr => vget b.bufs r.buf) hzb
    rw [hzb, hb]
    exact ⟨hpool.trans (hbufs ▸ rfl), hbuf⟩
  · rw [ht.replies]
    exact (congrArg Link.replies nlink).trans (ol.trans (by rw [hlink]))

/-- With no relocation waiting, the relocation manager is idle after a completion (R125). -/
theorem completion_idle (hw : s.reloc.waitList = []) : t.reloc.current = none ∧ t.reloc.waitList = [] ∧ t.map.freeList = s.map.freeList ∧
    t.unit v = placedUnit r ((s.chain r.stream).getLast? = some r.source) (s.unit r.source) (s.unit v) ∧
    t.unit r.source = unitOut .retired (s.unit r.source) ∧ ∀ x, x ≠ v → x ≠ r.source → t.unit x = s.unit x := by
  obtain ⟨hv, hu, hx, hfl, -, -, -, -, -, -, -, -, hrel⟩ := replaceUnit_facts hne hr
  obtain ⟨om, -, or, -⟩ := relocationOver_facts (r := r) (v := v) (s := s) rfl
  rw [completeRelocation_eq] at ht
  generalize replaceUnit r v (advanceTarget v s) = x at *
  generalize relocationOver r v s = y at *
  rw [startNext_idle (s := y) (by rw [or, hrel]; exact hw)] at ht
  have hm : t.map = x.map := ht.map.trans om
  have hunit : ∀ a, t.unit a = x.unit a := fun a => congrArg (fun m : UnitMap => vget m.units a) hm
  refine ⟨ht.current, ht.waits, (congrArg UnitMap.freeList hm).trans hfl, (hunit v).trans hv, (hunit _).trans hu, fun a ha ha' => ?_⟩
  exact (hunit a).trans (hx a ha ha')

/-- The relocation that waits longest takes the head of the free list as its target (R118, R119). -/
theorem completion_next {w : RelocWait} {ws : List RelocWait} {y : UnitId} {free : List UnitId} (hw : s.reloc.waitList = w :: ws)
    (hf : s.map.freeList = y :: free) (hyv : y ≠ v) (hys : y ≠ r.source) (hwv : w.source ≠ v) (hws : w.source ≠ r.source) :
    t.reloc.current = some ⟨w.stream, w.source, w.slot, w.buf, some y, 1, 0, copyBegins w.slot⟩ ∧ t.reloc.waitList = ws ∧
      t.map.freeList = free ∧ t.unit v = placedUnit r ((s.chain r.stream).getLast? = some r.source) (s.unit r.source) (s.unit v) ∧
      t.unit r.source = unitOut .retired (s.unit r.source) ∧
      t.unit y = ⟨.target, (s.unit y).eraseCount, some w.stream, some ((s.unit w.source).firstPage.getD 0), 0, 0, false⟩ ∧
      ∀ x, x ≠ v → x ≠ r.source → x ≠ y → t.unit x = s.unit x := by
  obtain ⟨hv, hu, hx, hfl, -, -, -, -, -, -, -, -, hrel⟩ := replaceUnit_facts hne hr
  obtain ⟨om, -, or, -⟩ := relocationOver_facts (r := r) (v := v) (s := s) rfl
  rw [completeRelocation_eq] at ht
  generalize replaceUnit r v (advanceTarget v s) = x at *
  generalize relocationOver r v s = z at *
  rw [startNext_target (s := z) (by rw [or, hrel]; exact hw) (by rw [om, hfl]; exact hf)] at ht
  obtain ⟨tm, tr⟩ := takeTarget_map (relocOf w) y free ((z.setReloc none).setRelocWaits ws)
  have hz : ∀ a, z.unit a = x.unit a := fun a => congrArg (fun m : UnitMap => vget m.units a) om
  have hunit : ∀ a, t.unit a = vget (vset z.map.units y
      ⟨.target, (z.unit y).eraseCount, some w.stream, some ((z.unit w.source).firstPage.getD 0), 0, 0, false⟩) a :=
    fun a => congrArg (fun m : UnitMap => vget m.units a) (ht.map.trans tm)
  have hother : ∀ a, y ≠ a → t.unit a = x.unit a := fun a ha => by
    rw [hunit, vget_vset_ne _ _ ha]
    exact hz a
  refine ⟨ht.current.trans (congrArg RelocCtl.current tr), ht.waits.trans (congrArg RelocCtl.waitList tr),
    congrArg UnitMap.freeList (ht.map.trans tm), (hother v hyv).trans hv, (hother _ hys).trans hu, ?_, fun a hav has hay => ?_⟩
  · rw [hunit, vget_vset_self, hz, hz, hx y hyv hys, hx _ hwv hws]
  · exact (hother a (Ne.symm hay)).trans (hx a hav has)

end

/-! ## A failure that takes another target -/

/-- Before the third attempt a failing target is retired and the head of the free list is the next one (R38, R40), short of WORN entry. -/
theorem targetFail_next {r : Reloc} {v w : UnitId} {rest : List UnitId} {s : State} (ha : r.attempt < 3) (hf : s.map.freeList = w :: rest)
    (hr : s.map.retiredCount ≠ 47 ∨ s.ctl.device ≠ .ready) : targetFail r v s =
      takeTarget { r with attempt := r.attempt + 1, target := none } w rest ((retireRecord v s).setCopyBuffer none) := by
  have hx : ((retireRecord v s).setCopyBuffer none).map.freeList = w :: rest := hf
  unfold targetFail
  dsimp only
  rw [retire_plain hr, if_pos (show r.attempt < maxAttempts from ha)]
  generalize (retireRecord v s).setCopyBuffer none = x at *
  rw [hx]

theorem targetFail_device {r : Reloc} {v w : UnitId} {rest : List UnitId} {s : State} (ha : r.attempt < 3) (hf : s.map.freeList = w :: rest)
    (hr : s.map.retiredCount ≠ 47 ∨ s.ctl.device ≠ .ready) : (targetFail r v s).ctl.device = s.ctl.device := by
  have hd : ((retireRecord v s).setCopyBuffer none).ctl.device = s.ctl.device := rfl
  rw [targetFail_next ha hf hr]
  generalize (retireRecord v s).setCopyBuffer none = z at *
  obtain ⟨-, -, hctl, -⟩ := takeTarget_facts { r with attempt := r.attempt + 1, target := none } w rest z
  rw [hctl, hd]

theorem targetFail_facts {r : Reloc} {v w : UnitId} {rest : List UnitId} {s t : State} (ht : Stands ((targetFail r v s).setOp none) t)
    (ha : r.attempt < 3) (hf : s.map.freeList = w :: rest) (hr : s.map.retiredCount ≠ 47 ∨ s.ctl.device ≠ .ready) (hsrc : r.source ≠ v)
    (hwv : w ≠ v) :
    t.reloc.current = some { r with attempt := r.attempt + 1, target := some w, copyPos := 0, phase := copyBegins r.slot } ∧
      t.reloc.waitList = s.reloc.waitList ∧ t.reloc.copyBuffer = none ∧ t.unit v = unitOut .retired (s.unit v) ∧
      t.unit w = ⟨.target, (s.unit w).eraseCount, some r.stream, some ((s.unit r.source).firstPage.getD 0), 0, 0, false⟩ ∧
      (∀ x, x ≠ v → x ≠ w → t.unit x = s.unit x) ∧ t.map.freeList = rest ∧ v ∈ t.map.retiredSet ∧
      t.map.retiredCount = s.map.retiredCount + 1 ∧ t.ctl.ckptPending = true ∧ t.streams = s.streams ∧ t.bufs = s.bufs ∧
      t.link.replies = s.link.replies := by
  rw [targetFail_next ha hf hr] at ht
  have hm : ((retireRecord v s).setCopyBuffer none).map = retiredMap v s := rfl
  have hc : ((retireRecord v s).setCopyBuffer none).ctl = { s.ctl with ckptPending := true } := rfl
  have hs : ((retireRecord v s).setCopyBuffer none).streams = s.streams := rfl
  have hb : ((retireRecord v s).setCopyBuffer none).bufs = s.bufs := rfl
  have hl : ((retireRecord v s).setCopyBuffer none).link = s.link := rfl
  have ho : ((retireRecord v s).setCopyBuffer none).reloc = { s.reloc with copyBuffer := none } := rfl
  generalize (retireRecord v s).setCopyBuffer none = z at *
  obtain ⟨tb, ts, tc, tl, -⟩ := takeTarget_facts { r with attempt := r.attempt + 1, target := none } w rest z
  obtain ⟨tm, tr⟩ := takeTarget_map { r with attempt := r.attempt + 1, target := none } w rest z
  have hz : ∀ a, z.unit a = vget (vset s.map.units v (unitOut .retired (s.unit v))) a :=
    fun a => congrArg (fun m : UnitMap => vget m.units a) hm
  have hzo : ∀ a, a ≠ v → z.unit a = s.unit a := fun a ha => by
    rw [hz, vget_vset_ne _ _ (Ne.symm ha)]
    rfl
  have htm := ht.map.trans tm
  have hunit : ∀ a, t.unit a = vget (vset z.map.units w
      ⟨.target, (z.unit w).eraseCount, some r.stream, some ((z.unit r.source).firstPage.getD 0), 0, 0, false⟩) a :=
    fun a => congrArg (fun m : UnitMap => vget m.units a) htm
  refine ⟨ht.current.trans (congrArg RelocCtl.current tr), ht.waits.trans ((congrArg RelocCtl.waitList tr).trans (by rw [ho])),
    ht.copyBuffer.trans ((congrArg RelocCtl.copyBuffer tr).trans (by rw [ho])), ?_, ?_, fun a hav haw => ?_,
    congrArg UnitMap.freeList htm, ?_, ?_, ht.ckptPending ?_, ht.streams.trans (ts.trans hs), ht.bufs.trans (tb.trans hb),
    ht.replies.trans ((congrArg Link.replies tl).trans (by rw [hl]))⟩
  · rw [hunit, vget_vset_ne _ _ hwv]
    exact (hz v).trans (vget_vset_self ..)
  · rw [hunit, vget_vset_self, hzo w hwv, hzo _ hsrc]
  · rw [hunit, vget_vset_ne _ _ (Ne.symm haw)]
    exact hzo a hav
  · rw [htm, hm]
    exact mem_retiredInsert ..
  · rw [htm, hm]
    rfl
  · exact (congrArg Ctl.ckptPending tc).trans (by rw [hc])

/-! ## The two ends of a program into the target -/

theorem programEnd_relocation {op : Operation} {r : Reloc} {v : UnitId} {s : State} (hq : op.requester = .relocationStep)
    (hc : s.reloc.current = some r) (hv : r.target = some v) (pass : Bool) : programEnd pass op s =
      (if pass then if r.phase = .failedPageDue then completeRelocation r v (slotEnded pass op s) else copyPass r v (slotEnded pass op s)
        else targetFail r v (slotEnded pass op s)).setOp none := by
  have hcz : (slotEnded pass op s).reloc.current = some r := by cases pass <;> exact hc
  rw [programEnd_eq]
  generalize slotEnded pass op s = z at *
  unfold handleProgram
  rw [hq]
  dsimp only
  unfold relocProgramEnd
  rw [hcz]
  dsimp only
  rw [hv]

/-- The tag of a page written into a target names its source as the origin, and says so in bit 2 of its flags (R120). -/
theorem programmedTag_relocated (pb : PageBuf) (origin : Word) (k : Nat) :
    (programmedPage .compute (bufferPage pb true origin k)).tag.origin = origin ∧
      (programmedPage .compute (bufferPage pb true origin k)).tag.flags.getLsbD 2 = true := by
  refine ⟨rfl, ?_⟩
  have hflags : ∀ a b : Bool, (tagFlags a b true false &&& 0x0F).getLsbD 2 = true := by decide
  exact hflags _ _

/-- Settles O49: the completion by its stream, its map and the relocation that follows, the failure by the next target. -/
theorem relocationsCompleteOrTakeAnotherTarget : Obligations.RelocationsCompleteOrTakeAnotherTarget := by
  intro s r v t0 hrun hcur htarget hne hret ru rv q placed
  refine ⟨fun hphase hop hfree => ?_, fun op k w rest hop hkind hreq hunit hslot hatt hf hwv => ?_⟩
  · have hex := exec_programDone hrun hop rfl true
    obtain ⟨hprog, hread⟩ := slotProgrammed_programEnd
      (op := ⟨.program, v, some r.slot, .relocationStep, some (.pageBuffer r.buf), some .compute, t0⟩) rfl rfl s
    have heng := programEnd_engine true ⟨.program, v, some r.slot, .relocationStep, some (.pageBuffer r.buf), some .compute, t0⟩ s
    have hpage : pageToProgram ⟨.program, v, some r.slot, .relocationStep, some (.pageBuffer r.buf), some .compute, t0⟩ s =
        bufferPage (s.buf r.buf) true (BitVec.ofNat 16 r.source.val) r.slot := by
      show bufferPage (s.buf r.buf) true (relocOrigin s) r.slot = _
      unfold relocOrigin
      rw [hcur]
    have hend := programEnd_relocation (op := ⟨.program, v, some r.slot, .relocationStep, some (.pageBuffer r.buf), some .compute, t0⟩)
      rfl hcur htarget true
    obtain ⟨horigin, hflag⟩ := programmedTag_relocated (s.buf r.buf) (BitVec.ofNat 16 r.source.val) r.slot
    rw [if_pos rfl, if_pos hphase] at hend
    rw [hpage] at hprog hread
    generalize hz : slotEnded true ⟨.program, v, some r.slot, .relocationStep, some (.pageBuffer r.buf), some .compute, t0⟩ s = z at hend
    obtain ⟨page, rfl⟩ : ∃ page, z = s.writeSlot v r.slot page := ⟨_, hz.symm⟩
    rw [hend] at hex hprog hread heng
    have hst : Stands _ (settle s ((completeRelocation r v (s.writeSlot v r.slot page)).setOp none)) :=
      settle_stands (.inr (completeRelocation_device (s := s.writeSlot v r.slot page) hne hret hfree).symm)
    generalize settle s _ = t at *
    obtain ⟨hchain, hothers, hmem, hcount, hckpt, hqueue, hstream, hpool, h6, h7, l, hl, hnil⟩ :=
      completion_facts (s := s.writeSlot v r.slot page) hne hret hst hfree
    refine ⟨t, l, hex, hprog, ?_, ?_, heng, hchain, hothers, hmem, hcount, hckpt, hqueue, hstream, hpool, h6, h7, hl, hnil, fun hw => ?_,
      fun w ws y free hw hf hyv hys hwv hws => ?_⟩
    · rw [hread]
      exact horigin
    · rw [hread]
      exact hflag
    · exact completion_idle (s := s.writeSlot v r.slot page) hne hret hst hw
    · exact completion_next (s := s.writeSlot v r.slot page) hne hret hst hw hf hyv hys hwv hws
  · have hex := exec_programDone hrun hop hkind false
    have hspoil := slotSpoiled_programEnd hslot s
    have heng := programEnd_engine false op s
    have hend := programEnd_relocation hreq hcur htarget false
    obtain ⟨a, n, ha⟩ : ∃ a n, slotEnded false op s = { s with array := a, freeUsed := n } := ⟨_, _, rfl⟩
    rw [if_neg Bool.false_ne_true, ha] at hend
    rw [hend] at hex hspoil heng
    have hst : Stands _ (settle s ((targetFail r v { s with array := a, freeUsed := n }).setOp none)) :=
      settle_stands (.inr (targetFail_device (s := { s with array := a, freeUsed := n }) hatt hf hret).symm)
    generalize settle s _ = t at *
    subst hunit
    exact ⟨t, hex, hspoil, heng, targetFail_facts (s := { s with array := a, freeUsed := n }) hst hatt hf hret hne hwv⟩

end Sys2Proof.Machine
end

section
/-!
PROOFS. The abandonment of a relocation (R39, R50, R127): what it leaves of the other streams and of the source, and its own stream's end.
-/
-- The theorems of this file are elaborated one after another: in parallel their waiting threads exceed the memory limit of the check.
set_option Elab.async false

namespace Sys2Proof.Machine

/-! ## The steps at the stream -/

/-- A step that leaves the map and the relocations alone, and of the other streams moves only OVERRUN. -/
structure OnStream (st : StreamId) (s t : State) : Prop where
  map : t.map = s.map
  reloc : t.reloc = s.reloc
  others : ∀ f, f ≠ st → sameRun (s.stream f) (t.stream f)

namespace OnStream

variable {st : StreamId} {s t r : State}

theorem refl (st : StreamId) (s : State) : OnStream st s s := ⟨rfl, rfl, fun _ _ => .refl _⟩

theorem trans (h1 : OnStream st s t) (h2 : OnStream st t r) : OnStream st s r :=
  ⟨h2.map.trans h1.map, h2.reloc.trans h1.reloc, fun f hf => (h1.others f hf).trans (h2.others f hf)⟩

/-- A change outside the map, the relocations and the stream records. -/
theorem next (h : OnStream st s t) (hm : r.map = t.map := by rfl) (ho : r.reloc = t.reloc := by rfl)
    (hs : r.streams = t.streams := by rfl) : OnStream st s r :=
  h.trans ⟨hm, ho, fun f _ => by
    unfold State.stream
    rw [hs]
    exact .refl _⟩

theorem setStream (h : OnStream st s t) (x : StreamRec) : OnStream st s (t.setStream st x) :=
  h.trans ⟨rfl, rfl, fun _ hf => sameRun_setStream_ne (Ne.symm hf) x t⟩

theorem freeBuffer (h : OnStream st s t) (b : BufId) : OnStream st s (freeBuffer b t) := by
  obtain ⟨hm, -, -, ho, -⟩ := freeBuffer_frame b t
  exact h.trans ⟨hm, ho, fun f _ => freeBuffer_sameRun b t f⟩

theorem losePage (h : OnStream st s t) (b : BufId) : OnStream st s (losePage st b t) := (h.setStream _).freeBuffer b

theorem losePages (l : List QueueEntry) : ∀ {t : State}, OnStream st s t →
    OnStream st s (l.foldl (fun s e => Machine.losePage st e.buf s) t) := by
  induction l with
  | nil => exact fun h => h
  | cons e l ih => exact fun h => ih (h.losePage e.buf)

theorem discardStreamPages (h : OnStream st s t) (b : BufId) : OnStream st s (discardStreamPages st b t) := by
  unfold Machine.discardStreamPages
  extract_lets entries s1 s2 s3
  have h1 : OnStream st s s1 := (h.next (r := t.setQueue _)).losePage b
  have h2 : OnStream st s s2 := h1.losePages entries
  have h3 : OnStream st s s3 := by
    unfold s3
    split
    · exact (h2.next (r := s2.setHeld st none)).losePage _
    · exact h2
  clear_value s3
  split
  · exact (h3.next (r := s3.setFill st none)).freeBuffer _
  · exact h3

theorem faultStream (h : OnStream st s t) : OnStream st s (faultStream st t) := by
  unfold Machine.faultStream
  split
  · unfold endRunFault leaveRun
    have h1 : OnStream st s (recordCause st .fault t) := h.setStream _
    extract_lets s2 q
    have h2 : OnStream st s s2 := h1.next
    exact (h2.setStream _).next
  · exact h.setStream _

theorem completeFlushes (h : OnStream st s t) (status : Status) : OnStream st s (completeFlushes st status t) := by
  obtain ⟨rq, he⟩ := completeFlushes_eq st status t
  rw [he]
  exact h.next

end OnStream

/-- The state of an abandonment before its part of the unit map (R127, steps 2 to 5). -/
def streamAbandoned (st : StreamId) (u : UnitId) (p : Nat) (b : BufId) (s : State) : State :=
  let first := (s.unit u).firstPage.getD 0
  let s := s.setStarvedList (s.bufs.starvedList.filter (· ≠ st))
  let s := s.setStream st { s.stream st with starved := false }
  let s := discardStreamPages st b (faultStream st s)
  let s := s.setStream st { s.stream st with endPage := first + p }
  let s := completeFlushes st .fault (raise .pageLost st.val (raise .streamFault st.val s))
  s.setStream st { s.stream st with relocating := false }

theorem abandonBody_eq (st : StreamId) (u : UnitId) (p : Nat) (b : BufId) (s : State) :
    abandonBody st u p b s = truncateChain st u p (streamAbandoned st u p b s) := rfl

theorem onStream_abandoned (st : StreamId) (u : UnitId) (p : Nat) (b : BufId) (s : State) :
    OnStream st s (streamAbandoned st u p b s) := by
  unfold streamAbandoned
  extract_lets first s1 src1 s2 s3 src3 s4 s5 src5
  have h2 : OnStream st s s2 := ((OnStream.refl st s).next (r := s1)).setStream _
  have h3 : OnStream st s s3 := h2.faultStream.discardStreamPages b
  clear_value s3
  have h4 : OnStream st s s4 := h3.setStream _
  have h5 : OnStream st s s5 := OnStream.completeFlushes (t := raise .pageLost st.val (raise .streamFault st.val s4)) h4.next .fault
  exact h5.setStream _

/-! ## The unit map's part -/

/-- Two stream records that agree but for OVERRUN and STARVED, which freed buffers and relief move (R93, R94, R106). -/
def sameRelief (r r' : StreamRec) : Prop := { r' with overrun := false, starved := false } = { r with overrun := false, starved := false }

theorem sameRelief_of_streams {s t : State} (h : t.streams = s.streams) (f : StreamId) : sameRelief (s.stream f) (t.stream f) := by
  unfold State.stream
  rw [h]
  rfl

/-- A step that leaves the relocations alone, takes no unit out of the retired set, moves of the streams but `st` only OVERRUN and STARVED, and
neither moves a unit for which `P` holds and which is not free, nor frees it. -/
structure Aside (st : StreamId) (P : UnitId → Prop) (s t : State) : Prop where
  reloc : t.reloc = s.reloc
  retired : ∀ v ∈ s.map.retiredSet, v ∈ t.map.retiredSet
  others : ∀ f, f ≠ st → sameRelief (s.stream f) (t.stream f)
  unit : ∀ u, P u → u ∉ s.map.freeList → t.unit u = s.unit u
  free : ∀ u, P u → u ∉ s.map.freeList → u ∉ t.map.freeList

theorem mem_freeInsert {m : UnitMap} {u v : UnitId} {l : List UnitId} (h : v ∈ freeInsert m u l) : v = u ∨ v ∈ l := by
  obtain ⟨before, after, hl, hi, -⟩ := freeInsert_split m u l
  rw [hi] at h
  rw [hl]
  simp only [List.mem_append, List.mem_cons] at h ⊢
  tauto

namespace Aside

variable {st : StreamId} {P : UnitId → Prop} {s t r : State}

theorem refl (st : StreamId) (P : UnitId → Prop) (s : State) : Aside st P s s :=
  ⟨rfl, fun _ h => h, fun _ _ => rfl, fun _ _ _ => rfl, fun _ _ h => h⟩

theorem trans (h1 : Aside st P s t) (h2 : Aside st P t r) : Aside st P s r where
  reloc := h2.reloc.trans h1.reloc
  retired v hv := h2.retired v (h1.retired v hv)
  others f hf := (h2.others f hf).trans (h1.others f hf)
  unit u hu hf := (h2.unit u hu (h1.free u hu hf)).trans (h1.unit u hu hf)
  free u hu hf := h2.free u hu (h1.free u hu hf)

theorem mono {Q : UnitId → Prop} (h : Aside st P s t) (hQ : ∀ u, Q u → P u) : Aside st Q s t :=
  ⟨h.reloc, h.retired, h.others, fun u hu => h.unit u (hQ u hu), fun u hu => h.free u (hQ u hu)⟩

/-- A change of fields that `Aside` does not name. -/
theorem next (h : Aside st P s t) (hu : r.map.units = t.map.units := by rfl) (hf : r.map.freeList = t.map.freeList := by rfl)
    (hr : r.map.retiredSet = t.map.retiredSet := by rfl) (ho : r.reloc = t.reloc := by rfl) (hs : r.streams = t.streams := by rfl) :
    Aside st P s r :=
  h.trans
    { reloc := ho
      retired := fun _ hv => hr ▸ hv
      others := fun f _ => sameRelief_of_streams hs f
      unit := fun u _ _ => congrArg (fun x => vget x u) hu
      free := fun _ _ hn => hf ▸ hn }

/-- A stream record put in place of one that differs from it in OVERRUN and STARVED alone. -/
theorem setRelief (h : Aside st P s t) {f : StreamId} {x : StreamRec} (hx : sameRelief (t.stream f) x) : Aside st P s (t.setStream f x) :=
  h.trans
    { reloc := rfl, retired := fun _ hv => hv, unit := fun _ _ _ => rfl, free := fun _ _ hn => hn
      others := fun g _ => by
        rw [stream_setStream]
        split
        · next e => exact e ▸ hx
        · rfl }

theorem insertFree (h : Aside st P s t) {v : UnitId} (hv : ¬P v) : Aside st P s (insertFree v t) :=
  h.trans
    { reloc := rfl, retired := fun _ hv => hv, others := fun _ _ => rfl
      unit := fun _ hu _ => State.setUnit_unit_ne _ _ _ _ fun e => hv (e ▸ hu)
      free := fun _ hu hn hm => (mem_freeInsert hm).elim (fun e => hv (e ▸ hu)) hn }

theorem insertFrees {l : List UnitId} (hl : ∀ v ∈ l, ¬P v) : ∀ {t : State}, Aside st P s t →
    Aside st P s (l.foldl (fun s v => Machine.insertFree v s) t) := by
  induction l with
  | nil => exact fun h => h
  | cons v l ih => exact fun h => ih (fun w hw => hl w (.tail _ hw)) (h.insertFree (hl v (.head _)))

/-- A unit allocated for capture was free (R34). -/
theorem allocate (h : Aside st P s t) {f : StreamId} {x : Nat} {w : UnitId} (ha : allocateForCapture f x t = some (w, r)) :
    Aside st P s (assignSlot w r) := by
  unfold allocateForCapture at ha
  split at ha
  · cases ha
  · next rest hfree =>
    split at ha
    · cases ha
      obtain ⟨hm, hs, -, -, -, ho, -⟩ := takeFree_facts w rest .opened f x t
      generalize takeFree w rest .opened f x t = y at *
      refine h.trans
        { reloc := ho, retired := fun v hv => (congrArg UnitMap.retiredSet hm).symm ▸ hv
          others := fun f _ => sameRelief_of_streams hs f
          unit := fun u _ hn => ?_, free := fun u _ hn hmem => hn ?_ }
      · have hw : w ≠ u := fun e => hn (by rw [hfree, e]; exact .head _)
        refine (State.setUnit_unit_ne _ _ _ _ hw).trans ?_
        exact (congrArg (fun m : UnitMap => vget m.units u) hm).trans (vget_vset_ne _ _ hw)
      · rw [hfree]
        have hrest : y.map.freeList = rest := congrArg UnitMap.freeList hm
        exact .tail _ (hrest ▸ hmem)
    · cases ha

theorem askBuffer (h : Aside st P s t) (f : StreamId) : Aside st P s (askBuffer f t) := by
  unfold Machine.askBuffer
  split
  · exact h.next
  · exact ((h.next (r := t.setBufWaits _)).setRelief (f := f) (x := { t.stream f with overrun := true }) rfl).next

theorem relieveOne (h : Aside st P s t) (f : StreamId) : Aside st P s (relieveOne f t) := by
  unfold Machine.relieveOne
  extract_lets s1
  have h1 : Aside st P s s1 := h.next
  clear_value s1
  split
  · exact h1
  · extract_lets x
    split
    · exact h1
    · next w s2 ha =>
      have h2 : Aside st P s (assignSlot w s2) := h1.allocate ha
      extract_lets s3 src s4
      have h3 : Aside st P s s3 := h2.next
      have h4 : Aside st P s s4 := h3.setRelief rfl
      clear_value s4
      split
      · exact h4.askBuffer f
      · exact h4

theorem relieveList (l : List StreamId) : ∀ {t : State}, Aside st P s t → Aside st P s (relieveList l t) := by
  induction l with
  | nil => exact fun h => h
  | cons f l ih =>
    intro t h
    unfold Machine.relieveList
    split
    · exact ih (h.relieveOne f)
    · exact h

theorem relieve (h : Aside st P s t) : Aside st P s (relieve t) := h.relieveList _

end Aside

/-- A unit that a chain names once does not stand behind itself. -/
theorem not_mem_unitsAfter {u : UnitId} {l : List UnitId} (h : l.count u = 1) : u ∉ unitsAfter u l := by
  intro hmem
  have hbefore : (l.takeWhile (· ≠ u)).count u = 0 :=
    List.count_eq_zero.2 fun hx => by simpa using List.mem_takeWhile_imp hx
  have hsplit : (l.takeWhile (· ≠ u)).count u + (l.dropWhile (· ≠ u)).count u = 1 := by
    rw [← List.count_append, List.takeWhile_append_dropWhile, h]
  unfold unitsAfter at hmem
  cases hd : l.dropWhile (· ≠ u) with
  | nil =>
    rw [hd] at hmem
    exact List.not_mem_nil hmem
  | cons x rest =>
    have hx : x = u := by
      have hhead := List.head?_dropWhile_not (· ≠ u) l
      rw [hd] at hhead
      simpa using hhead
    rw [hd] at hmem hsplit
    subst hx
    have hpos : 0 < rest.count x := List.count_pos_iff.2 hmem
    rw [List.count_cons_self] at hsplit
    omega

theorem retire_reloc (u : UnitId) (s : State) : (retire u s).reloc = s.reloc := by
  unfold retire
  dsimp only
  split <;> rfl

/-- The unit at which an abandonment ends the chain (R39): closed at slot `p`, or retired when `p` is 0. -/
def chainEnd (p : Nat) (r : UnitRec) : UnitRec := if p = 0 then unitOut .retired r else { r with assigned := p, closed := true }

/-- The step of a truncation at the unit `u` itself (R39). -/
def truncateUnit (st : StreamId) (u : UnitId) (p : Nat) (s : State) : State :=
  if p = 0 then retire u (s.setChain st ((s.chain st).filter (· ≠ u)))
  else s.setUnit u { s.unit u with assigned := p, closed := true }

theorem truncateUnit_facts (st : StreamId) (u : UnitId) (p : Nat) (s : State) :
    Aside st (· ≠ u) s (truncateUnit st u p s) ∧ (truncateUnit st u p s).unit u = chainEnd p (s.unit u) ∧
      (truncateUnit st u p s).map.freeList = s.map.freeList := by
  unfold truncateUnit chainEnd
  split
  · obtain ⟨hm, -, -, hs, -⟩ := retire_facts u (s.setChain st ((s.chain st).filter (· ≠ u)))
    have ho := retire_reloc u (s.setChain st ((s.chain st).filter (· ≠ u)))
    generalize retire u (s.setChain st ((s.chain st).filter (· ≠ u))) = t at *
    have hu : ∀ x, t.unit x = vget (vset s.map.units u (unitOut .retired (s.unit u))) x :=
      fun x => congrArg (fun m : UnitMap => vget m.units x) hm
    have hfree : t.map.freeList = s.map.freeList := (congrArg UnitMap.freeList hm :)
    have hset : t.map.retiredSet = retiredInsert u s.map.retiredSet := (congrArg UnitMap.retiredSet hm :)
    refine ⟨?_, (hu u).trans (vget_vset_self ..), hfree⟩
    exact
      { reloc := ho
        retired := fun _ hv => hset ▸ mem_retiredInsert_of_mem u hv
        others := fun f _ => sameRelief_of_streams hs f
        unit := fun x hx _ => (hu x).trans (vget_vset_ne _ _ (Ne.symm hx))
        free := fun _ _ hn => hfree ▸ hn }
  · refine ⟨?_, State.setUnit_unit .., rfl⟩
    exact
      { reloc := rfl, retired := fun _ hv => hv, others := fun _ _ => rfl
        unit := fun x hx _ => State.setUnit_unit_ne _ _ _ _ (Ne.symm hx), free := fun _ _ hn => hn }

/-- What a truncation leaves of the other streams, and of the unit at which it ends the chain (R39). -/
theorem truncateChain_facts (st : StreamId) (u : UnitId) (p : Nat) (s : State) :
    Aside st (fun _ => False) s (truncateChain st u p s) ∧
      ((s.chain st).count u = 1 → u ∉ s.map.freeList → (truncateChain st u p s).unit u = chainEnd p (s.unit u)) := by
  have heq : truncateChain st u p s = relieve (truncateUnit st u p
    ((unitsAfter u (s.chain st)).foldl (fun s v => insertFree v s) (s.setChain st (chainUpTo u (s.chain st))))) := rfl
  have hchain : ∀ P, Aside st P s (s.setChain st (chainUpTo u (s.chain st))) := fun P => (Aside.refl st P s).next
  rw [heq]
  generalize hx : (unitsAfter u (s.chain st)).foldl (fun s v => insertFree v s) (s.setChain st (chainUpTo u (s.chain st))) = x
  obtain ⟨hend, hunit, hfree⟩ := truncateUnit_facts st u p x
  refine ⟨?_, fun hcount hn => ?_⟩
  · have h1 : Aside st (fun _ => False) s x := hx ▸ (hchain _).insertFrees fun _ _ h => h
    exact (h1.trans (hend.mono fun _ h => h.elim)).relieve
  · have h1 : Aside st (· = u) s x := hx ▸ (hchain _).insertFrees fun v hv (e : v = u) => not_mem_unitsAfter hcount (by rwa [e] at hv)
    have h2 : Aside st (· = u) (truncateUnit st u p x) (relieve (truncateUnit st u p x)) := (Aside.refl ..).relieve
    rw [h2.unit u rfl (hfree ▸ h1.free u rfl hn), hunit, h1.unit u rfl hn]

/-- What an abandonment leaves of the relocations, the retired set, the other streams and its source (R39, R127). -/
theorem abandonBody_facts (st : StreamId) (u : UnitId) (p : Nat) (b : BufId) (s : State) :
    Aside st (fun _ => False) s (abandonBody st u p b s) ∧
      ((s.chain st).count u = 1 → u ∉ s.map.freeList → (abandonBody st u p b s).unit u = chainEnd p (s.unit u)) := by
  have h := onStream_abandoned st u p b s
  rw [abandonBody_eq]
  generalize streamAbandoned st u p b s = x at *
  obtain ⟨ha, hu⟩ := truncateChain_facts st u p x
  have hx : Aside st (fun _ => False) s x :=
    { reloc := h.reloc, retired := fun v hv => h.map.symm ▸ hv, unit := fun _ h => h.elim, free := fun _ h => h.elim
      others := fun f hf => by
        have e : _ = _ := h.others f hf
        exact (congrArg (fun r : StreamRec => { r with starved := false }) e :) }
  have hchain : x.chain st = s.chain st := congrArg (fun m : UnitMap => vget m.chains st) h.map
  have hunit : x.unit u = s.unit u := congrArg (fun m : UnitMap => vget m.units u) h.map
  rw [hchain, hunit, h.map] at hu
  exact ⟨hx.trans ha, hu⟩

/-! ## The failure that ends in the abandonment -/

/-- The state in which the last target of a relocation has been retired, before its abandonment (R124, R127). -/
def targetLost (v : UnitId) (s : State) : State := (((retireRecord v s).setCopyBuffer none).setReloc none).setCopyBuffer none

theorem targetLost_facts (v : UnitId) (s : State) :
    (targetLost v s).map = retiredMap v s ∧ (targetLost v s).streams = s.streams ∧ (targetLost v s).bufs = s.bufs ∧
      (targetLost v s).link = s.link ∧ (targetLost v s).ctl.device = s.ctl.device ∧
      (targetLost v s).reloc = { s.reloc with current := none, copyBuffer := none } ∧
      (targetLost v s).notices.pendingSet.getLsbD 7 = true := by
  have hm : (retireRecord v s).map = retiredMap v s := rfl
  have hs : (retireRecord v s).streams = s.streams := rfl
  have hb : (retireRecord v s).bufs = s.bufs := rfl
  have hl : (retireRecord v s).link = s.link := rfl
  have hd : (retireRecord v s).ctl.device = s.ctl.device := rfl
  have ho : (retireRecord v s).reloc = s.reloc := rfl
  have hn := retireRecord_pendingSet v s
  unfold targetLost
  generalize retireRecord v s = x at *
  refine ⟨hm, hs, hb, hl, hd, ?_, hn⟩
  rw [← ho]
  rfl

theorem targetLost_unit {u v : UnitId} (s : State) (h : u ≠ v) : (targetLost v s).unit u = s.unit u := by
  obtain ⟨hm, -⟩ := targetLost_facts v s
  exact (congrArg (fun m : UnitMap => vget m.units u) hm).trans (vget_vset_ne _ _ (Ne.symm h))

theorem targetLost_count (v : UnitId) (s : State) : (targetLost v s).map.retiredCount = s.map.retiredCount + 1 := by
  obtain ⟨hm, -⟩ := targetLost_facts v s
  rw [hm]
  rfl

theorem targetLost_chain (v : UnitId) (s : State) (st : StreamId) : (targetLost v s).chain st = s.chain st := by
  obtain ⟨hm, -⟩ := targetLost_facts v s
  exact (congrArg (fun m : UnitMap => vget m.chains st) hm :)

theorem streamView_targetLost (v : UnitId) (s : State) (st : StreamId) : streamView st (targetLost v s) =
    { streamView st s with retiredCount := s.map.retiredCount + 1, relocations := (none, s.reloc.waitList) } := by
  obtain ⟨hm, hs, hb, hl, hd, ho, -⟩ := targetLost_facts v s
  have hchain := targetLost_chain v s st
  generalize targetLost v s = t at *
  have hcount : t.map.retiredCount = s.map.retiredCount + 1 := by rw [hm]; rfl
  have hstream : t.stream st = s.stream st := congrArg (fun x => vget x st) hs
  have hheld : t.heldBuf st = s.heldBuf st := congrArg (fun x : BufMgr => vget x.held st) hb
  unfold streamView
  rw [hstream, hheld, hchain, hcount, hb, hl, hd, ho]

/-- On the third failing target, or with no free unit left, and no relocation waiting, the relocation manager is idle after the abandonment
(R124, R127), short of WORN entry. -/
theorem targetFail_abandons {r : Reloc} {v : UnitId} {s : State} (ha : 3 ≤ r.attempt ∨ s.map.freeList = [])
    (hr : s.map.retiredCount ≠ 47 ∨ s.ctl.device ≠ .ready) (hw : s.reloc.waitList = []) : targetFail r v s =
      ((abandonBody r.stream r.source r.slot r.buf (targetLost v s)).setReloc none).setRelocWaits [] := by
  have habandon : targetFail r v s = abandon r ((retireRecord v s).setCopyBuffer none) := by
    have hf : ((retireRecord v s).setCopyBuffer none).map.freeList = s.map.freeList := rfl
    unfold targetFail
    dsimp only
    rw [retire_plain hr]
    generalize (retireRecord v s).setCopyBuffer none = x at *
    split
    · next h =>
      have hnil : s.map.freeList = [] := ha.resolve_left (Nat.not_le.2 h)
      rw [hf, hnil]
      rfl
    · rfl
  obtain ⟨haside, -⟩ := abandonBody_facts r.stream r.source r.slot r.buf (targetLost v s)
  have hwaits : (abandonBody r.stream r.source r.slot r.buf (targetLost v s)).reloc.waitList = [] := by
    obtain ⟨-, -, -, -, -, hreloc, -⟩ := targetLost_facts v s
    rw [haside.reloc, hreloc]
    exact hw
  rw [habandon]
  exact startNext_idle hwaits

/-- The end of a happening leaves a stream as an abandonment sees it. -/
theorem Stands.streamView {s t : State} (h : Stands s t) (st : StreamId) : streamView st t = streamView st s := by
  unfold Machine.streamView
  rw [h.stream, h.heldBuf, h.chain, h.bufs, h.replies, h.device, h.map, h.current, h.waits]

section
variable {r : Reloc} {v : UnitId} {s t : State} (ha : 3 ≤ r.attempt ∨ s.map.freeList = []) (hn : s.map.retiredCount < 46)
  (hw : s.reloc.waitList = [])
include ha hn hw

/-- The stream of an abandoned relocation, as the failure of the last target leaves it. -/
theorem streamView_targetFail : streamView r.stream (targetFail r v s) =
    { streamView r.stream (abandonBody r.stream r.source r.slot r.buf (targetLost v s)) with relocations := (none, []) } := by
  rw [targetFail_abandons ha (.inl (by omega)) hw]
  rfl

theorem targetFail_abandons_device : (targetFail r v s).ctl.device = s.ctl.device := by
  have hcount := targetLost_count v s
  have hview := streamView_abandonBody (st := r.stream) (u := r.source) (p := r.slot) (s := targetLost v s) r.buf (.inl (by omega))
  exact (congrArg StreamView.device (streamView_targetFail ha hn hw) :).trans (congrArg StreamView.device hview :)

variable (ht : Stands ((targetFail r v s).setOp none) t)
include ht

/-- The notices of an abandonment (R39, R40, R50, R127). -/
theorem abandonment_notices : ((s.stream r.stream).state = .capturing → t.notices.pendingSet.getLsbD 2 = true) ∧
    t.notices.pendingSet.getLsbD 12 = true ∧ t.notices.pendingSet.getLsbD 5 = true ∧ t.notices.pendingSet.getLsbD 7 = true := by
  obtain ⟨-, hstr, -, -, -, -, h7⟩ := targetLost_facts v s
  have hstate : ((targetLost v s).stream r.stream).state = (s.stream r.stream).state := congrArg (fun x => (vget x r.stream).state) hstr
  rw [targetFail_abandons ha (.inl (by omega)) hw] at ht
  generalize targetLost v s = x at *
  obtain ⟨h12, h5, h2⟩ := abandonBody_bits r.stream r.source r.slot r.buf x
  have hk : Kept x (abandonBody r.stream r.source r.slot r.buf x) := (Kept.refl x).abandonBody ..
  rw [hstate] at h2
  exact ⟨fun h => ht.pendingSet (h2 h), ht.pendingSet h12, ht.pendingSet h5, ht.pendingSet (hk.pendingSet h7)⟩

variable (hne : r.source ≠ v)
include hne

/-- The stream of an abandoned relocation at the end of the happening (R39, R50, R127). -/
theorem abandonment_view :
    let q := s.stream r.stream
    let lost := 1 + s.bufs.queue.countP (fun e => e.stream = r.stream) + (s.heldBuf r.stream).toList.length
    let x := (s.unit r.source).firstPage.getD 0 + r.slot
    streamView r.stream t =
      { run := { q with
          overrun := false, state := .faulted, starved := false, relocating := false, endPage := x, inFlight := q.inFlight - lost
          lostTotal := min (q.lostTotal + lost) 0xFFFFFFFF, endCause := if q.state = .capturing then some .fault else q.endCause }
        queue := [], held := none, starved := false
        chain := (s.chain r.stream).takeWhile (· ≠ r.source) ++ if r.slot = 0 then [] else [r.source]
        flushWaiters := s.bufs.flushWaiters.filter fun w => w.stream ≠ r.stream
        replies := s.link.replies ++ (s.bufs.flushWaiters.filter fun w => w.stream = r.stream).map fun w => replyOf .flush w.tag .fault
          (n8 r.stream.val ++ [5] ++ b8 w.sealed ++ n32 x)
        device := s.ctl.device, retiredCount := s.map.retiredCount + 1 + if r.slot = 0 then 1 else 0, relocations := (none, []) } := by
  intro q lost x
  have hcount := targetLost_count v s
  have hunit : (targetLost v s).unit r.source = s.unit r.source := targetLost_unit s hne
  have hlost : lost = 1 + (s.bufs.queue.filter fun e => e.stream = r.stream).length + (s.heldBuf r.stream).toList.length := by
    unfold lost
    rw [List.countP_eq_length_filter]
  have hview := streamView_abandonBody (st := r.stream) (u := r.source) (p := r.slot) (s := targetLost v s) r.buf (.inl (by omega))
  have hstands : streamView r.stream t = streamView r.stream (targetFail r v s) := ht.streamView r.stream
  obtain ⟨-, hstr, hbufs, hlink, -⟩ := targetLost_facts v s
  have hstream : (targetLost v s).stream r.stream = s.stream r.stream := congrArg (fun x => vget x r.stream) hstr
  rw [hstands, streamView_targetFail ha hn hw, hview, hunit, streamView_targetLost, hstream, hbufs, hlink, hlost]
  rfl

/-- What an abandonment leaves beside its stream: the target among the retired units, the other streams, and the source (R39, R40). -/
theorem abandonment_aside : t.reloc.copyBuffer = none ∧ v ∈ t.map.retiredSet ∧
    (∀ f, f ≠ r.stream → sameRelief (s.stream f) (t.stream f)) ∧
    ((s.chain r.stream).count r.source = 1 → r.source ∉ s.map.freeList → t.unit r.source = chainEnd r.slot (s.unit r.source)) := by
  have hunit : (targetLost v s).unit r.source = s.unit r.source := targetLost_unit s hne
  obtain ⟨hmap, hstr, -, -, -, hreloc, -⟩ := targetLost_facts v s
  have hchain := targetLost_chain v s r.stream
  rw [targetFail_abandons ha (.inl (by omega)) hw] at ht
  generalize targetLost v s = x at *
  obtain ⟨haside, hsource⟩ := abandonBody_facts r.stream r.source r.slot r.buf x
  have hv : v ∈ x.map.retiredSet := hmap ▸ mem_retiredInsert ..
  have hfree : x.map.freeList = s.map.freeList := (congrArg UnitMap.freeList hmap :)
  have hcopy : x.reloc.copyBuffer = none := (congrArg RelocCtl.copyBuffer hreloc :)
  rw [hchain, hfree, hunit] at hsource
  generalize abandonBody r.stream r.source r.slot r.buf x = y at *
  refine ⟨ht.copyBuffer.trans ((congrArg RelocCtl.copyBuffer haside.reloc).trans hcopy), ?_, fun f hf => ?_, fun hc hs => ?_⟩
  · rw [ht.map]
    exact haside.retired v hv
  · rw [ht.stream]
    exact (haside.others f hf).trans (sameRelief_of_streams hstr f)
  · rw [ht.unit]
    exact hsource hc hs

end

/-- Settles O50: the stream's own end by its view, the rest by what an abandonment leaves aside. -/
theorem abandonmentFaultsTheStream : Obligations.AbandonmentFaultsTheStream := by
  intro s r v op hrun hcur htarget hne hn hw hop hkind hreq ha q x lost
  have hex := exec_programDone hrun hop hkind false
  have heng := programEnd_engine false op s
  have hend := programEnd_relocation hreq hcur htarget false
  obtain ⟨a, n, hz⟩ : ∃ a n, slotEnded false op s = { s with array := a, freeUsed := n } := ⟨_, _, rfl⟩
  rw [if_neg Bool.false_ne_true, hz] at hend
  rw [hend] at hex heng
  have hst : Stands _ (settle s ((targetFail r v { s with array := a, freeUsed := n }).setOp none)) :=
    settle_stands (.inr (targetFail_abandons_device (s := { s with array := a, freeUsed := n }) ha hn hw).symm)
  generalize settle s _ = t at *
  have hview := abandonment_view (s := { s with array := a, freeUsed := n }) ha hn hw hst hne
  obtain ⟨hcopy, hmem, hothers, hsource⟩ := abandonment_aside (s := { s with array := a, freeUsed := n }) ha hn hw hst hne
  obtain ⟨h2, h12, h5, h7⟩ := abandonment_notices (s := { s with array := a, freeUsed := n }) ha hn hw hst
  have hself := (congrArg StreamView.run hview :)
  have hqueue := (congrArg StreamView.queue hview :)
  have hreloc := (congrArg StreamView.relocations hview :)
  refine ⟨t, hex, heng, (congrArg Prod.fst hreloc :), (congrArg Prod.snd hreloc :), hcopy, hmem, (congrArg StreamRec.state hself :),
    (congrArg StreamRec.endPage hself :), (congrArg StreamRec.starved hself :), (congrArg StreamRec.relocating hself :),
    (congrArg StreamRec.inFlight hself :), (congrArg StreamRec.lostTotal hself :), (congrArg StreamRec.config hself :),
    (congrArg StreamRec.runNumber hself :), (congrArg StreamRec.endCause hself :), h2, h12, h5, h7, hothers, fun e he hst => ?_,
    (congrArg StreamView.held hview :), of_decide_eq_false (congrArg StreamView.starved hview :), (congrArg StreamView.chain hview :), hsource,
    (congrArg StreamView.flushWaiters hview :), (congrArg StreamView.replies hview :)⟩
  have hin : e ∈ (streamView r.stream t).queue := List.mem_filter.2 ⟨he, decide_eq_true hst⟩
  rw [hqueue] at hin
  exact absurd hin List.not_mem_nil

end Sys2Proof.Machine
end

section
/-!
PROOFS. STREAM INFO (R69, R214): the record of a stream, field by field at its offset in the 83-byte reply.
-/
-- The theorems of this file are elaborated one after another: in parallel their waiting threads exceed the memory limit of the check.
set_option Elab.async false

namespace Sys2Proof.Machine

/-! ## Requests on one stream -/

theorem onStream_none {p : List Byte} (h : streamOf (field8 p 2) = none) (k : ReqKind) (tag : Byte) (f : StreamId → State → State) (s : State) :
    onStream k tag p f s = refuse k tag .badParam s := by
  unfold onStream
  rw [h]

theorem onStream_some {p : List Byte} {st : StreamId} (h : streamOf (field8 p 2) = some st) (k : ReqKind) (tag : Byte)
    (f : StreamId → State → State) (s : State) : onStream k tag p f s = f st s := by
  unfold onStream
  rw [h]

/-! ## Fields of a list of bytes -/

theorem fieldAt_append_right {a : List Byte} {off : Nat} (b : List Byte) (n : Nat) (h : a.length ≤ off) :
    fieldAt (a ++ b) off n = fieldAt b (off - a.length) n := by
  unfold fieldAt
  rw [List.drop_append, List.drop_eq_nil_of_le h, List.nil_append]

theorem fieldAt_append_left {a : List Byte} {off n : Nat} (b : List Byte) (h : off + n ≤ a.length) :
    fieldAt (a ++ b) off n = fieldAt a off n := by
  unfold fieldAt
  rw [List.drop_append_of_le_length (by omega), List.take_append_of_le_length (by rw [List.length_drop]; omega)]

/-! ## The gap entries -/

/-- One gap entry of STREAM INFO (R69). -/
def gapField (o : Option Gap) : List Byte :=
  match o with
  | some g => n32 g.first ++ n32 g.count
  | none => [0, 0, 0, 0, 0, 0, 0, 0]

theorem gapField_length (o : Option Gap) : (gapField o).length = 8 := by
  cases o <;> rfl

theorem gapBytes_eq (l : List Gap) :
    gapBytes l = gapField l[0]? ++ (gapField l[1]? ++ (gapField l[2]? ++ (gapField l[3]? ++ []))) := by
  have h (o : Option Gap) : gapField o = match o with
      | some g => n32 g.first ++ n32 g.count
      | none => n32 0 ++ n32 0 := by
    cases o <;> rfl
  unfold gapBytes
  simp only [h, List.flatMap_cons, List.flatMap_nil] <;> rfl

theorem gapBytes_length (l : List Gap) : (gapBytes l).length = 32 := by
  rw [gapBytes_eq]
  simp only [List.length_append, gapField_length, List.length_nil]

theorem fieldAt_gapBytes (l : List Gap) (rest : List Byte) (n : Fin 4) : fieldAt (gapBytes l ++ rest) (8 * n.val) 8 = gapField l[n.val]? := by
  have hl := gapField_length
  have take (o : Option Gap) (b : List Byte) : fieldAt (gapField o ++ b) 0 8 = gapField o := by
    rw [fieldAt_append_left _ (by rw [hl]), fieldAt, List.drop_zero, List.take_of_length_le (by rw [hl])]
  have skip (o : Option Gap) (b : List Byte) (k : Nat) : fieldAt (gapField o ++ b) (k + 8) 8 = fieldAt b k 8 := by
    rw [fieldAt_append_right _ _ (by rw [hl]; omega), hl, Nat.add_sub_cancel]
  rw [gapBytes_eq]
  simp only [List.append_assoc]
  match n with
  | 0 => exact take ..
  | 1 => exact (skip _ _ 0).trans (take ..)
  | 2 => exact (skip _ _ 8).trans ((skip _ _ 0).trans (take ..))
  | 3 => exact (skip _ _ 16).trans ((skip _ _ 8).trans ((skip _ _ 0).trans (take ..)))

/-! ## The reply -/

/-- The 35 bytes of a STREAM INFO reply before its gap entries, from a stream's record (R214). -/
def infoHead (tag : Byte) (st : StreamId) (r : StreamRec) : List Byte :=
  [0x96, tag, 0x00] ++ (n8 st.val ++ [streamStateCode r.state] ++ configBytes r ++ le16 r.runNumber ++ n32 r.keptWords ++ n8 r.skipCounter
    ++ n32 r.basePage ++ n32 r.endPage ++ n8 r.gaps.length)

/-- The 16 bytes of a STREAM INFO reply after its gap entries, with the words in the fill buffer and the length of the chain (R214). -/
def infoTail (r : StreamRec) (filled units : Nat) : List Byte :=
  n8 r.inFlight ++ n8 filled ++ n16 units ++ n16 r.droppedInRun ++ n32 r.droppedTotal ++ n32 r.lostTotal ++ [streamFlags r]
    ++ [endCauseCode r.endCause]

theorem infoBody_eq (tag : Byte) (st : StreamId) (s : State) : (replyOf .streamInfo tag .ok (infoContents st s)).body =
    infoHead tag st (s.stream st) ++ (gapBytes (s.stream st).gaps ++ infoTail (s.stream st) (fillWords s st) (s.chain st).length) := by
  unfold replyOf infoContents infoHead infoTail
  simp only [List.append_assoc, List.cons_append, List.nil_append]
  rfl

theorem infoHead_length (tag : Byte) (st : StreamId) (r : StreamRec) : (infoHead tag st r).length = 35 := by
  simp only [infoHead, configBytes, cfg8, b8, n8, n16, n32, le16, le32, List.length_append, List.length_cons, List.length_nil]

theorem fieldAt_infoHead {tag : Byte} {st : StreamId} {r : StreamRec} (rest : List Byte) {off n : Nat} (h : off + n ≤ 35) :
    fieldAt (infoHead tag st r ++ rest) off n = fieldAt (infoHead tag st r) off n :=
  fieldAt_append_left _ (by rw [infoHead_length]; exact h)

theorem fieldAt_infoTail {tag : Byte} {st : StreamId} {r : StreamRec} (l : List Gap) (tail : List Byte) (k n : Nat) :
    fieldAt (infoHead tag st r ++ (gapBytes l ++ tail)) (67 + k) n = fieldAt tail k n := by
  rw [fieldAt_append_right _ _ (by rw [infoHead_length]; omega), infoHead_length, fieldAt_append_right _ _ (by rw [gapBytes_length]; omega), gapBytes_length]
  congr 1
  omega

/-- The fields before the gap entries that do not depend on the configuration (R69, R214). -/
theorem infoHead_record (tag : Byte) (st : StreamId) (r : StreamRec) :
    fieldAt (infoHead tag st r) 0 3 = [0x96, tag, 0x00] ∧ fieldAt (infoHead tag st r) 3 1 = n8 st.val ∧
    fieldAt (infoHead tag st r) 4 1 = [streamStateCode r.state] ∧ fieldAt (infoHead tag st r) 19 2 = le16 r.runNumber ∧
    fieldAt (infoHead tag st r) 21 4 = n32 r.keptWords ∧ fieldAt (infoHead tag st r) 25 1 = n8 r.skipCounter ∧
    fieldAt (infoHead tag st r) 26 4 = n32 r.basePage ∧ fieldAt (infoHead tag st r) 30 4 = n32 r.endPage ∧
    fieldAt (infoHead tag st r) 34 1 = n8 r.gaps.length := by
  simp only [fieldAt, infoHead, configBytes, cfg8, b8, n8, n16, n32, le16, le32, List.cons_append, List.nil_append, List.drop_succ_cons,
    List.drop_zero, List.take_succ_cons, List.take_zero, and_self]

/-- The configuration's fields of an unconfigured stream (R69). -/
theorem infoHead_unconfigured {tag : Byte} {st : StreamId} {r : StreamRec} (h : r.config = none) : fieldAt (infoHead tag st r) 5 2 = [0xFF, 0xFF] ∧
    fieldAt (infoHead tag st r) 7 4 = [0, 0, 0, 0] ∧ fieldAt (infoHead tag st r) 11 2 = [0, 0] ∧
    fieldAt (infoHead tag st r) 13 3 = [0xFF, 0xFF, 0xFF] ∧ fieldAt (infoHead tag st r) 16 3 = [0, 0, 0] := by
  simp [fieldAt, infoHead, configBytes, cfg8, b8, n8, n16, n32, le16, le32, thresholdOf, StreamRec.rearms, h]

/-- The configuration's fields of a configured stream (R69). -/
theorem infoHead_configured {tag : Byte} {st : StreamId} {r : StreamRec} {cfg : StreamConfig} (h : r.config = some cfg) :
    fieldAt (infoHead tag st r) 5 1 = n8 cfg.lane.val ∧ fieldAt (infoHead tag st r) 6 1 = [modeCode cfg.mode] ∧
    fieldAt (infoHead tag st r) 7 4 = n32 (cfg.count.getD 0) ∧ fieldAt (infoHead tag st r) 11 2 = n16 cfg.skip ∧
    fieldAt (infoHead tag st r) 13 1 = [sourceCode cfg.start] ∧
    fieldAt (infoHead tag st r) 14 1 = [(cfg.stop.map sourceCode).getD 0xFF] ∧
    fieldAt (infoHead tag st r) 15 1 = [(cfg.peer.map (fun x => BitVec.ofNat 8 x.val)).getD 0xFF] ∧
    fieldAt (infoHead tag st r) 16 2 = le16 (cfg.threshold.getD 0) ∧ fieldAt (infoHead tag st r) 18 1 = b8 cfg.rearm := by
  simp [fieldAt, infoHead, configBytes, cfg8, b8, n8, n16, n32, le16, le32, thresholdOf, StreamRec.rearms, h]

/-- The fields behind the gap entries (R69, R214). -/
theorem infoTail_record (r : StreamRec) (filled units : Nat) :
    fieldAt (infoTail r filled units) 0 1 = n8 r.inFlight ∧ fieldAt (infoTail r filled units) 1 1 = n8 filled ∧
    fieldAt (infoTail r filled units) 2 2 = n16 units ∧ fieldAt (infoTail r filled units) 4 2 = n16 r.droppedInRun ∧
    fieldAt (infoTail r filled units) 6 4 = n32 r.droppedTotal ∧ fieldAt (infoTail r filled units) 10 4 = n32 r.lostTotal ∧
    fieldAt (infoTail r filled units) 14 1 =
      n8 (r.overrun.toNat + 2 * r.starved.toNat + 4 * r.relocating.toNat + 8 * r.runStartPending.toNat) ∧
    fieldAt (infoTail r filled units) 15 1 = [endCauseCode r.endCause] := by
  simp [fieldAt, infoTail, n8, n16, n32, le16, le32, streamFlags, flagByte]

/-! ## The request -/

theorem ownRequest_streamInfo (tag : Byte) (p : List Byte) (s : State) : ownRequest .streamInfo tag p s =
    onStream .streamInfo tag p (fun st s => finishRequest .streamInfo tag .ok (infoContents st s) none s) s := rfl

theorem infoContents_waiting (k : ReqKind) (tag : Byte) (p : List Byte) (s : State) (st : StreamId) :
    infoContents st (waiting k tag p s) = infoContents st s := rfl

theorem exec_streamInfo_noStream {tag : Byte} {p : List Byte} {s : State} (hacc : accepted .streamInfo tag p s = true)
    (hn : streamOf (field8 p 2) = none) :
    exec (commandOf .streamInfo tag p) s = .next (settle s (answered .streamInfo tag p .badParam [] s)) := by
  refine exec_refused hacc ?_
  rw [ownRequest_streamInfo, onStream_none hn]

theorem exec_streamInfo {tag : Byte} {p : List Byte} {s : State} {st : StreamId} (hacc : accepted .streamInfo tag p s = true)
    (hst : streamOf (field8 p 2) = some st) :
    exec (commandOf .streamInfo tag p) s = .next (settle s (answered .streamInfo tag p .ok (infoContents st s) s)) := by
  refine exec_answered hacc ?_
  rw [ownRequest_streamInfo, onStream_some hst, infoContents_waiting]

/-- Settles O24: the head by its own bytes, the gap entries one by one, and the tail behind them. -/
theorem streamInfoReportsTheRecord : Obligations.StreamInfoReportsTheRecord := by
  intro tag p s hacc
  refine ⟨exec_streamInfo_noStream hacc, fun st hst => ⟨infoContents st s, exec_streamInfo hacc hst, ?_⟩⟩
  intro r b
  have hb : b = _ := infoBody_eq tag st s
  clear_value b
  subst hb
  have head {off n : Nat} (h : off + n ≤ 35) := fieldAt_infoHead (tag := tag) (st := st) (r := r)
    (gapBytes r.gaps ++ infoTail r (fillWords s st) (s.chain st).length) h
  have tail := fieldAt_infoTail (tag := tag) (st := st) (r := r) r.gaps (infoTail r (fillWords s st) (s.chain st).length)
  obtain ⟨h0, h3, h4, h19, h21, h25, h26, h30, h34⟩ := infoHead_record tag st r
  obtain ⟨h67, h68, h69, h71, h73, h77, h81, h82⟩ := infoTail_record r (fillWords s st) (s.chain st).length
  refine ⟨?_, (head (by decide)).trans h0, (head (by decide)).trans h3, (head (by decide)).trans h4, fun hc => ?_, fun cfg hc => ?_,
    (head (by decide)).trans h19, (head (by decide)).trans h21, (head (by decide)).trans h25, (head (by decide)).trans h26,
    (head (by decide)).trans h30, (head (by decide)).trans h34, fun n => ?_, (tail 0 1).trans h67, (tail 1 1).trans h68, (tail 2 2).trans h69,
    (tail 4 2).trans h71, (tail 6 4).trans h73, (tail 10 4).trans h77, (tail 14 1).trans h81, (tail 15 1).trans h82⟩
  · rw [List.length_append, List.length_append, infoHead_length, gapBytes_length]
    rfl
  · obtain ⟨h1, h2, h3, h4, h5⟩ := infoHead_unconfigured (tag := tag) (st := st) hc
    exact ⟨(head (by decide)).trans h1, (head (by decide)).trans h2, (head (by decide)).trans h3, (head (by decide)).trans h4,
      (head (by decide)).trans h5⟩
  · obtain ⟨h1, h2, h3, h4, h5, h6, h7, h8, h9⟩ := infoHead_configured (tag := tag) (st := st) hc
    exact ⟨(head (by decide)).trans h1, (head (by decide)).trans h2, (head (by decide)).trans h3, (head (by decide)).trans h4,
      (head (by decide)).trans h5, (head (by decide)).trans h6, (head (by decide)).trans h7, (head (by decide)).trans h8,
      (head (by decide)).trans h9⟩
  · rw [fieldAt_append_right _ _ (by rw [infoHead_length]; omega), infoHead_length, Nat.add_sub_cancel_left]
    exact fieldAt_gapBytes ..

end Sys2Proof.Machine
end

section
/-!
PROOFS. DEFINE STREAM (R64, R65) and UNBIND (R68): the fields of the payload, the configuration they give, and what a stream's
record and its lanes become.
-/
-- The theorems of this file are elaborated one after another: in parallel their waiting threads exceed the memory limit of the check.
set_option Elab.async false

namespace Sys2Proof.Machine

/-! ## The field readers -/

theorem streamOf_eq_none {b : Byte} : streamOf b = none ↔ 7 < b.toNat := by
  unfold streamOf
  split
  · simp only [reduceCtorEq, false_iff]
    omega
  · simp only [true_iff]
    omega

theorem streamOf_eq_some {b : Byte} {st : StreamId} : streamOf b = some st ↔ b.toNat = st.val := by
  unfold streamOf
  have := st.isLt
  split
  · rw [Option.some.injEq, Fin.ext_iff]
  · simp only [reduceCtorEq, false_iff]
    omega

theorem laneOf_eq_none {b : Byte} : laneOf b = none ↔ 5 < b.toNat := by
  unfold laneOf
  split
  · simp only [reduceCtorEq, false_iff]
    omega
  · simp only [true_iff]
    omega

theorem laneOf_val {b : Byte} {l : LaneId} (h : laneOf b = some l) : l.val = b.toNat := by
  unfold laneOf at h
  split at h
  · cases h
    rfl
  · cases h

theorem modeOf_eq_none {b : Byte} : modeOf b = none ↔ 2 < b.toNat := by
  unfold modeOf
  split_ifs with h0 h1 h2
  · simp [h0]
  · simp [h1]
  · simp [h2]
  · simp only [true_iff]
    bv_omega

theorem modeCode_modeOf {b : Byte} {m : StreamMode} (h : modeOf b = some m) : modeCode m = b := by
  unfold modeOf at h
  split_ifs at h with h0 h1 h2 <;> cases h
  · exact h0.symm
  · exact h1.symm
  · exact h2.symm

theorem modeOf_count {b : Byte} {m : StreamMode} (h : modeOf b = some m) : m = .count ↔ b = 1 :=
  ⟨fun hm => (modeCode_modeOf h).symm.trans (congrArg modeCode hm), fun hb => Option.some.inj (h.symm.trans (congrArg modeOf hb))⟩

theorem modeOf_gate {b : Byte} {m : StreamMode} (h : modeOf b = some m) : m = .gate ↔ b = 2 :=
  ⟨fun hm => (modeCode_modeOf h).symm.trans (congrArg modeCode hm), fun hb => Option.some.inj (h.symm.trans (congrArg modeOf hb))⟩

theorem sourceOfCode_eq_none {b : Byte} : sourceOfCode b = none ↔ 15 ≤ b.toNat := by
  unfold sourceOfCode
  split_ifs <;> simp only [false_iff, true_iff] <;> bv_omega

theorem sourceCode_sourceOfCode {b : Byte} {x : TriggerSource} (h : sourceOfCode b = some x) : sourceCode x = b := by
  unfold sourceOfCode at h
  split_ifs at h with h0 h1 hrise hfall htimer hlevel hpeer <;> cases h
  · exact h0.symm
  · exact h1.symm
  · apply BitVec.eq_of_toNat_eq
    simp only [sourceCode, if_true, BitVec.toNat_ofNat, Fin.ofNat]
    bv_omega
  · apply BitVec.eq_of_toNat_eq
    simp only [sourceCode, Bool.false_eq_true, if_false, BitVec.toNat_ofNat, Fin.ofNat]
    bv_omega
  · apply BitVec.eq_of_toNat_eq
    simp only [sourceCode, BitVec.toNat_ofNat, Fin.ofNat]
    bv_omega
  · exact hlevel.symm
  · exact hpeer.symm

theorem sourceOfCode_level {b : Byte} {x : TriggerSource} (h : sourceOfCode b = some x) : x = .level ↔ b = 13 :=
  ⟨fun hx => (sourceCode_sourceOfCode h).symm.trans (congrArg sourceCode hx), fun hb => Option.some.inj (h.symm.trans (congrArg sourceOfCode hb))⟩

theorem sourceOfCode_peer {b : Byte} {x : TriggerSource} (h : sourceOfCode b = some x) : x = .peer ↔ b = 14 :=
  ⟨fun hx => (sourceCode_sourceOfCode h).symm.trans (congrArg sourceCode hx), fun hb => Option.some.inj (h.symm.trans (congrArg sourceOfCode hb))⟩

/-- The sources that GATE mode refuses are those whose code is not of an EXT source. -/
theorem sourceOfCode_isExt {b : Byte} {x : TriggerSource} (h : sourceOfCode b = some x) : x.isExt = false ↔ b.toNat < 2 ∨ 9 < b.toNat := by
  unfold sourceOfCode at h
  split_ifs at h with h0 h1 hrise hfall htimer hlevel hpeer <;> cases h <;>
    simp only [TriggerSource.isExt, Bool.true_eq_false, true_iff, false_iff] <;> bv_omega

theorem stopOf_eq_none {b : Byte} : stopOf b = none ↔ b ≠ 0xFF ∧ (b.toNat = 0 ∨ 12 < b.toNat) := by
  unfold stopOf
  split_ifs with hnone hbad
  · simp [hnone]
  · exact iff_of_true rfl ⟨hnone, hbad⟩
  · have : sourceOfCode b ≠ none := fun h => by
      have := sourceOfCode_eq_none.mp h
      omega
    simp [this, hbad]

theorem stopOf_code {b : Byte} {o : Option TriggerSource} (h : stopOf b = some o) : (o.map sourceCode).getD 0xFF = b := by
  unfold stopOf at h
  split_ifs at h with hnone hbad
  · cases h
    exact hnone.symm
  · obtain ⟨x, hx, rfl⟩ := Option.map_eq_some_iff.mp h
    exact sourceCode_sourceOfCode hx

theorem stopOf_isSome {b : Byte} {o : Option TriggerSource} (h : stopOf b = some o) : o.isSome = true ↔ b ≠ 0xFF := by
  unfold stopOf at h
  split_ifs at h with hnone hbad
  · cases h
    simp [hnone]
  · obtain ⟨x, hx, rfl⟩ := Option.map_eq_some_iff.mp h
    exact iff_of_true rfl hnone

/-! ## The configuration of a payload -/

/-- The configuration that a payload gives once its lane, mode, start source and stop source are read (R64). -/
def recorded (p : List Byte) (lane : LaneId) (mode : StreamMode) (start : TriggerSource) (stop : Option TriggerSource) : StreamConfig where
  lane := lane
  mode := mode
  count := if mode = .count then some (field32 p 5).toNat else none
  skip := (field16 p 9).toNat
  start := start
  stop := stop
  peer := if start = .peer then streamOf (field8 p 13) else none
  threshold := if start = .level then some (field16 p 14) else none
  rearm := field8 p 16 = 1

/-- The table of R64, line by line. -/
theorem badDefine_iff (p : List Byte) : badDefine p = true ↔
    7 < (field8 p 2).toNat ∨ 5 < (field8 p 3).toNat ∨ 2 < (field8 p 4).toNat ∨
    (field8 p 4 = 1 ∧ ((field32 p 5).toNat = 0 ∨ 16777215 < (field32 p 5).toNat)) ∨
    (field16 p 9).toNat = 0 ∨ 256 < (field16 p 9).toNat ∨ 15 ≤ (field8 p 11).toNat ∨
    (field8 p 12 ≠ 0xFF ∧ ((field8 p 12).toNat = 0 ∨ 12 < (field8 p 12).toNat)) ∨
    (field8 p 4 = 2 ∧ ((field8 p 11).toNat < 2 ∨ 9 < (field8 p 11).toNat ∨ field8 p 12 ≠ 0xFF)) ∨
    (field8 p 11 = 14 ∧ (7 < (field8 p 13).toNat ∨ field8 p 13 = field8 p 2)) ∨ 1 < (field8 p 16).toNat := by
  have code (b : Byte) (n : Nat) (h : n < 256) : b.toNat = n ↔ b = BitVec.ofNat 8 n := by
    constructor <;> intro hb
    · exact BitVec.eq_of_toNat_eq (by rw [hb, BitVec.toNat_ofNat, Nat.mod_eq_of_lt h])
    · rw [hb, BitVec.toNat_ofNat, Nat.mod_eq_of_lt h]
  have stop : (field8 p 12).toNat = 0 ∨ (field8 p 12).toNat = 13 ∨ (field8 p 12).toNat = 14 ∨ 12 < (field8 p 12).toNat ∧ (field8 p 12).toNat ≠ 255 ↔
      field8 p 12 ≠ 0xFF ∧ ((field8 p 12).toNat = 0 ∨ 12 < (field8 p 12).toNat) := by
    bv_omega
  simp only [badDefine, Bool.or_eq_true, Bool.and_eq_true, decide_eq_true_eq, beq_iff_eq, bne_iff_ne, or_assoc, ← stop]
  simp only [code _ 1 (by decide), code _ 2 (by decide), code _ 14 (by decide)]
  grind

/-- A payload whose lane, mode, start source and stop source are read is refused by the lines of R64 that look at what applies. -/
def refusedFields (st : StreamId) (p : List Byte) (mode : StreamMode) (start : TriggerSource) (stop : Option TriggerSource) : Prop :=
  (mode = .count ∧ ((field32 p 5).toNat = 0 ∨ maxCount < (field32 p 5).toNat)) ∨
  ((field16 p 9).toNat = 0 ∨ maxSkip < (field16 p 9).toNat) ∨
  (mode = .gate ∧ (start.isExt = false ∨ stop.isSome = true)) ∨
  (start = .peer ∧ (streamOf (field8 p 13) = none ∨ streamOf (field8 p 13) = some st)) ∨ 1 < (field8 p 16).toNat

section

variable {st : StreamId} {p : List Byte} {lane : LaneId} {mode : StreamMode} {start : TriggerSource} {stop : Option TriggerSource}

theorem configOf_refused (hl : laneOf (field8 p 3) = some lane) (hm : modeOf (field8 p 4) = some mode)
    (hs : sourceOfCode (field8 p 11) = some start) (ho : stopOf (field8 p 12) = some stop) (h : refusedFields st p mode start stop) :
    configOf st p = none := by
  unfold configOf
  rw [hl, hm, hs, ho]
  dsimp only
  split_ifs with hcount hskip hgate hpeer hrearm
  · rfl
  · rfl
  · rfl
  · rfl
  · rfl
  · rcases h with h | h | h | h | h <;> contradiction

theorem configOf_recorded (hl : laneOf (field8 p 3) = some lane) (hm : modeOf (field8 p 4) = some mode)
    (hs : sourceOfCode (field8 p 11) = some start) (ho : stopOf (field8 p 12) = some stop) (h : ¬refusedFields st p mode start stop) :
    configOf st p = some (recorded p lane mode start stop) := by
  simp only [refusedFields, not_or] at h
  obtain ⟨hcount, hskip, hgate, hpeer, hrearm⟩ := h
  unfold configOf
  rw [hl, hm, hs, ho]
  dsimp only
  rw [if_neg hcount, if_neg (not_or.mpr hskip), if_neg hgate, if_neg hpeer, if_neg hrearm]
  rfl

/-- The lines of R64 that do not ask whether a field names anything. -/
theorem refusedFields_iff (hst : streamOf (field8 p 2) = some st) (hm : modeOf (field8 p 4) = some mode)
    (hs : sourceOfCode (field8 p 11) = some start) (ho : stopOf (field8 p 12) = some stop) : refusedFields st p mode start stop ↔
    (field8 p 4 = 1 ∧ ((field32 p 5).toNat = 0 ∨ 16777215 < (field32 p 5).toNat)) ∨
    ((field16 p 9).toNat = 0 ∨ 256 < (field16 p 9).toNat) ∨
    (field8 p 4 = 2 ∧ (((field8 p 11).toNat < 2 ∨ 9 < (field8 p 11).toNat) ∨ field8 p 12 ≠ 0xFF)) ∨
    (field8 p 11 = 14 ∧ (7 < (field8 p 13).toNat ∨ field8 p 13 = field8 p 2)) ∨ 1 < (field8 p 16).toNat := by
  have hself : streamOf (field8 p 13) = some st ↔ field8 p 13 = field8 p 2 := by
    rw [streamOf_eq_some, ← streamOf_eq_some.mp hst, BitVec.toNat_inj]
  rw [refusedFields, modeOf_count hm, modeOf_gate hm, sourceOfCode_peer hs, sourceOfCode_isExt hs, stopOf_isSome ho, streamOf_eq_none, hself]
  rfl

end

/-- A payload that no line of R64 refuses: its stream, lane, mode, start source and stop source are read, and its configuration is
recorded. -/
theorem configOf_good {p : List Byte} (h : badDefine p = false) : ∃ st lane mode start stop, streamOf (field8 p 2) = some st ∧
    laneOf (field8 p 3) = some lane ∧ modeOf (field8 p 4) = some mode ∧ sourceOfCode (field8 p 11) = some start ∧
    stopOf (field8 p 12) = some stop ∧ configOf st p = some (recorded p lane mode start stop) := by
  have hb := mt (badDefine_iff p).mpr (by rw [h]; exact Bool.false_ne_true)
  simp only [not_or] at hb
  obtain ⟨hst, hl, hm, hcount, hskip0, hskip1, hs, ho, hgate, hpeer, hrearm⟩ := hb
  obtain ⟨st, hst⟩ := Option.ne_none_iff_exists'.mp (mt streamOf_eq_none.mp hst)
  obtain ⟨lane, hl⟩ := Option.ne_none_iff_exists'.mp (mt laneOf_eq_none.mp hl)
  obtain ⟨mode, hm⟩ := Option.ne_none_iff_exists'.mp (mt modeOf_eq_none.mp hm)
  obtain ⟨start, hs⟩ := Option.ne_none_iff_exists'.mp (mt sourceOfCode_eq_none.mp hs)
  obtain ⟨stop, ho⟩ := Option.ne_none_iff_exists'.mp (mt stopOf_eq_none.mp ho)
  refine ⟨st, lane, mode, start, stop, hst, hl, hm, hs, ho, configOf_recorded hl hm hs ho ?_⟩
  rw [refusedFields_iff hst hm hs ho]
  rintro (hc | (hc | hc) | ⟨hg, (hc | hc) | hc⟩ | hc | hc)
  · exact hcount hc
  · exact hskip0 hc
  · exact hskip1 hc
  · exact hgate ⟨hg, .inl hc⟩
  · exact hgate ⟨hg, .inr (.inl hc)⟩
  · exact hgate ⟨hg, .inr (.inr hc)⟩
  · exact hpeer hc
  · exact hrearm hc

/-- A payload that a line of R64 refuses has no configuration. -/
theorem configOf_bad {p : List Byte} {st : StreamId} (hst : streamOf (field8 p 2) = some st) (h : badDefine p = true) : configOf st p = none := by
  cases hl : laneOf (field8 p 3) with
  | none => unfold configOf; rw [hl]
  | some lane =>
    cases hm : modeOf (field8 p 4) with
    | none => unfold configOf; rw [hl, hm]
    | some mode =>
      cases hs : sourceOfCode (field8 p 11) with
      | none => unfold configOf; rw [hl, hm, hs]
      | some start =>
        cases ho : stopOf (field8 p 12) with
        | none => unfold configOf; rw [hl, hm, hs, ho]
        | some stop =>
          refine configOf_refused hl hm hs ho ((refusedFields_iff hst hm hs ho).mpr ?_)
          rcases (badDefine_iff p).mp h with hb | hb | hb | hb | hb | hb | hb | hb | ⟨hg, hb⟩ | hb | hb
          · rw [streamOf_eq_none.mpr hb] at hst
            cases hst
          · rw [laneOf_eq_none.mpr hb] at hl
            cases hl
          · rw [modeOf_eq_none.mpr hb] at hm
            cases hm
          · exact .inl hb
          · exact .inr (.inl (.inl hb))
          · exact .inr (.inl (.inr hb))
          · rw [sourceOfCode_eq_none.mpr hb] at hs
            cases hs
          · rw [stopOf_eq_none.mpr hb] at ho
            cases ho
          · exact .inr (.inr (.inl ⟨hg, or_assoc.mpr hb⟩))
          · exact .inr (.inr (.inr (.inl hb)))
          · exact .inr (.inr (.inr (.inr hb)))

/-! ## DEFINE STREAM -/

/-- The state `s` with the stream `st` bound by the configuration `c` and the lanes listening by the new bindings (R65, R71). -/
def boundBy (st : StreamId) (c : StreamConfig) (s : State) : State :=
  let streams := vset s.streams st ((s.stream st).define c)
  { s with streams := streams, lanes := listenTo streams s.lanes }

theorem relisten_define (st : StreamId) (c : StreamConfig) (s : State) : relisten (s.setStream st ((s.stream st).define c)) = boundBy st c s :=
  relisten_eq _

theorem boundBy_stream (st : StreamId) (c : StreamConfig) (s : State) : (boundBy st c s).stream st = (s.stream st).define c :=
  vget_vset_self ..

theorem defineAccepted_bound {tag : Byte} {st : StreamId} {s : State} (c : StreamConfig)
    (h : ¬((s.stream st).state = .armed ∨ (s.stream st).state = .capturing ∨ (s.stream st).state = .faulted)) :
    defineAccepted tag st c s = finishRequest .defineStream tag .ok
      (n8 st.val ++ [2] ++ n32 (s.stream st).endPage ++ le16 (s.stream st).runNumber) none (boundBy st c s) := by
  unfold defineAccepted
  dsimp only
  rw [if_neg h, relisten_define, boundBy_stream]
  rfl

section

variable {tag : Byte} {p : List Byte} {s : State} {st : StreamId}

theorem ownRequest_define_bad (h : streamOf (field8 p 2) = none ∨ ∃ st, streamOf (field8 p 2) = some st ∧ configOf st p = none) :
    ownRequest .defineStream tag p s = refuse .defineStream tag .badParam s := by
  unfold ownRequest defineRequest
  dsimp only
  rcases h with h | ⟨st, hst, hc⟩
  · rw [h]
  · rw [hst]
    dsimp only
    rw [hc]

theorem ownRequest_define {c : StreamConfig} (hst : streamOf (field8 p 2) = some st) (hc : configOf st p = some c) :
    ownRequest .defineStream tag p s = defineAccepted tag st c s := by
  unfold ownRequest defineRequest
  dsimp only
  rw [hst]
  dsimp only
  rw [hc]

theorem exec_define_bound {c : StreamConfig} (hacc : accepted .defineStream tag p s = true) (hst : streamOf (field8 p 2) = some st)
    (hc : configOf st p = some c)
    (h : ¬((s.stream st).state = .armed ∨ (s.stream st).state = .capturing ∨ (s.stream st).state = .faulted)) :
    exec (commandOf .defineStream tag p) s = .next (settle s (answered .defineStream tag p .ok
      (n8 st.val ++ [2] ++ n32 (s.stream st).endPage ++ le16 (s.stream st).runNumber) (boundBy st c s))) := by
  have hown : ownRequest .defineStream tag p (waiting .defineStream tag p s) = finishRequest .defineStream tag .ok
      (n8 st.val ++ [2] ++ n32 (s.stream st).endPage ++ le16 (s.stream st).runNumber) none
      (waiting .defineStream tag p (boundBy st c s)) :=
    (ownRequest_define hst hc).trans (defineAccepted_bound (s := waiting .defineStream tag p s) c h)
  rw [exec_accepted hacc, hown, finishRequest_waiting (s := boundBy st c s) _ _ (accepted_fresh hacc)]

end

/-- Settles O26: the table of R64 against the readers of the fields, and the configuration that the readers give. -/
theorem defineParametersAreChecked : Obligations.DefineParametersAreChecked := by
  intro tag p s hacc
  refine ⟨fun hbad => exec_refused hacc (ownRequest_define_bad ?_), fun hgood => ?_⟩
  · cases hst : streamOf (field8 p 2) with
    | none => exact .inl rfl
    | some st => exact .inr ⟨st, rfl, configOf_bad hst hbad⟩
  · obtain ⟨st, lane, mode, start, stop, hst, hl, hm, hs, ho, hc⟩ := configOf_good hgood
    refine ⟨st, recorded p lane mode start stop, streamOf_eq_some.mp hst, fun ha hca hf => ?_, laneOf_val hl, modeCode_modeOf hm,
      ite_congr (propext (modeOf_count hm)) (fun _ => rfl) fun _ => rfl, rfl, sourceCode_sourceOfCode hs, stopOf_code ho, ?_,
      ite_congr (propext (sourceOfCode_level hs)) (fun _ => rfl) fun _ => rfl, rfl⟩
    · have hd := settle_stands (s := answered .defineStream tag p .ok
        (n8 st.val ++ [2] ++ n32 (s.stream st).endPage ++ le16 (s.stream st).runNumber) (boundBy st (recorded p lane mode start stop) s))
        (a := s) (.inr rfl)
      refine ⟨_, exec_define_bound hacc hst hc (by simp [ha, hca, hf]), ?_⟩
      exact congrArg StreamRec.config ((congrArg (fun v => vget v st) hd.streams).trans (boundBy_stream ..))
    · by_cases hp : start = .peer
      · have hcode := (sourceOfCode_peer hs).mp hp
        obtain ⟨x, hx⟩ := Option.ne_none_iff_exists'.mp fun hn : streamOf (field8 p 13) = none =>
          absurd ((badDefine_iff p).mpr (.inr (.inr (.inr (.inr (.inr (.inr (.inr (.inr (.inr (.inl ⟨hcode, .inl (streamOf_eq_none.mp hn)⟩)))))))))))
            (by rw [hgood]; exact Bool.false_ne_true)
        rw [if_pos hcode, streamOf_eq_some.mp hx]
        simp only [recorded, if_pos hp, hx, Option.map_some]
      · rw [if_neg (mt (sourceOfCode_peer hs).mpr hp)]
        simp only [recorded, if_neg hp, Option.map_none]

/-- Settles O27: the refusal by the stream's state, and the record, the lanes and the reply of a stream that is bound. -/
theorem defineBindsTheStream : Obligations.DefineBindsTheStream := by
  intro tag p s st hacc hgood hst r
  obtain ⟨st', lane, mode, start, stop, hst', -, -, -, -, hc⟩ := configOf_good hgood
  obtain rfl : st' = st := Option.some.inj (hst'.symm.trans hst)
  refine ⟨fun h => exec_refused hacc ((ownRequest_define hst hc).trans (if_pos h)), fun h => ⟨recorded p lane mode start stop, ?_⟩⟩
  exact exec_define_bound hacc hst hc (by rcases h with h | h | h <;> simp [r, h])

/-! ## UNBIND -/

section

variable {tag : Byte} {p : List Byte} {s : State} {st : StreamId}

theorem ownRequest_unbind (tag : Byte) (p : List Byte) (s : State) :
    ownRequest .unbind tag p s = onStream .unbind tag p (unbindOn tag) s := rfl

theorem unbindOn_idle (h : (s.stream st).state = .dormant ∨ (s.stream st).state = .undefined) :
    unbindOn tag st s = finishRequest .unbind tag .ok [streamStateCode (s.stream st).state] none s := by
  unfold unbindOn
  rcases h with h | h <;> simp [h]

theorem unbindOn_bound (h : (s.stream st).state = .bound ∨ (s.stream st).state = .faulted) : unbindOn tag st s =
    finishRequest .unbind tag .ok [streamStateCode ((unbindStream st s).stream st).state] none (unbindStream st s) := by
  unfold unbindOn
  rcases h with h | h <;> simp [h]

end

/-- The state `s` with the stream `st` left without its configuration, and the lanes listening by the bindings that remain (R68, R71). -/
def unboundTo (st : StreamId) (r : StreamRec) (s : State) : State :=
  let streams := vset s.streams st r
  { s with streams := streams, lanes := listenTo streams s.lanes }

/-- The replies to the waiting reads of a stream that holds nothing any more (R147). -/
def lostReads (st : StreamId) (s : State) : List Reply :=
  (s.reads.waitList.filter (fun q => q.stream = st)).map fun q => replyOf .read q.tag .noData (n8 st.val ++ n32 q.pageNumber)

theorem unboundTo_stream (st : StreamId) (r : StreamRec) (s : State) : (unboundTo st r s).stream st = r := vget_vset_self ..

/-- A stream that holds data keeps it (R68). -/
theorem unbindStream_holding {st : StreamId} {s : State} (h : s.chain st ≠ [] ∨ 0 < (s.stream st).inFlight) :
    unbindStream st s = unboundTo st { s.stream st with state := .dormant, config := none } s :=
  (if_pos h).trans (relisten_eq _)

/-- The reads of a stream that becomes UNDEFINED are answered NO_DATA (R49, R68, R147). -/
theorem unbindStream_empty {st : StreamId} {s : State} (hc : s.chain st = []) (hf : (s.stream st).inFlight = 0) : ∃ rq, unbindStream st s =
    joinReplies rq (lostReads st s)
      ((unboundTo st StreamRec.undefined s).setReadWaits (s.reads.waitList.filter (fun q => q.stream ≠ st))) := by
  have hu : unbindStream st s = withdrawReads st (becomeUndefined st s) := if_neg (by simp [hc, hf])
  have hb : becomeUndefined st s = unboundTo st StreamRec.undefined s := becomeUndefined_eq ..
  obtain ⟨rq, hw⟩ := withdrawReads_eq st (becomeUndefined st s)
  have hlost : lostTo st ((becomeUndefined st s).stream st) = fun q => decide (q.stream = st) := by
    rw [hb, unboundTo_stream]
    funext q
    simp [lostTo, StreamRec.undefined]
  refine ⟨rq, hu.trans (hw.trans ?_)⟩
  rw [hlost, hb]
  simp only [decide_not]
  rfl

/-- Settles O34: the refusals, the stream that holds data, and the empty one with its waiting reads. -/
theorem unbindRemovesTheConfiguration : Obligations.UnbindRemovesTheConfiguration := by
  intro tag p s hacc
  refine ⟨fun hn => exec_refused hacc ((ownRequest_unbind ..).trans (onStream_none hn ..)), fun st hst => ?_⟩
  have hown : ownRequest .unbind tag p (waiting .unbind tag p s) = unbindOn tag st (waiting .unbind tag p s) :=
    (ownRequest_unbind ..).trans (onStream_some hst ..)
  intro r
  refine ⟨fun h => exec_refused hacc (hown.trans (if_pos h)), fun h => exec_answered hacc (hown.trans (unbindOn_idle h)), ?_, ?_⟩
  · intro h hd streams
    have hu : unbindOn tag st (waiting .unbind tag p s) = finishRequest .unbind tag .ok [1] none
        (waiting .unbind tag p (unboundTo st { s.stream st with state := .dormant, config := none } s)) := by
      rw [unbindOn_bound (s := waiting .unbind tag p s) h, unbindStream_holding (s := waiting .unbind tag p s) hd, unboundTo_stream]
      rfl
    refine (exec_accepted hacc).trans ?_
    rw [hown, hu, finishRequest_waiting (s := unboundTo st _ s) _ _ (accepted_fresh hacc)]
    rfl
  · intro h hc hf streams
    obtain ⟨rq, hu⟩ := unbindStream_empty (st := st) (s := waiting .unbind tag p s) hc hf
    have hend : ownRequest .unbind tag p (waiting .unbind tag p s) = finishRequest .unbind tag .ok [0] none
        (joinReplies rq (lostReads st s) ((unboundTo st StreamRec.undefined (waiting .unbind tag p s)).setReadWaits
          (s.reads.waitList.filter (fun q => q.stream ≠ st)))) := by
      rw [hown, unbindOn_bound (s := waiting .unbind tag p s) h, hu]
      exact congrArg (fun r : StreamRec => finishRequest .unbind tag .ok [streamStateCode r.state] none _) (unboundTo_stream st _ _)
    obtain ⟨hcore, hrep, -, -⟩ := settle_settled (a := s) (s := ownRequest .unbind tag p (waiting .unbind tag p s)) (by
      rw [hend]
      exact fun ⟨hr, hw⟩ => absurd (hr.symm.trans hw) (by decide))
    refine ⟨_, exec_accepted hacc, hcore.trans ?_, hrep.trans ?_⟩
    · rw [hend]
      rfl
    · rw [hend]
      rfl

end Sys2Proof.Machine
end

section
/-!
PROOFS. Run ends (R52, R56, R57): the partial page, the record that a run end leaves, and the next run that some run ends start.
-/
-- The theorems of this file are elaborated one after another: in parallel their waiting threads exceed the memory limit of the check.
set_option Elab.async false

namespace Sys2Proof.Machine

/-! ## Records that agree but for OVERRUN -/

theorem sameRun.eq {a b : StreamRec} (h : sameRun a b) : b = { a with overrun := b.overrun } :=
  have e : { b with overrun := false } = { a with overrun := false } := h
  (congrArg (fun r : StreamRec => { r with overrun := b.overrun }) e :)

theorem sameRun.symm {a b : StreamRec} (h : sameRun a b) : sameRun b a := Eq.symm h

/-! ## The partial page of a run that ends -/

/-- The stream's fill buffer holds words and a page number is left for them: a run end seals them (R52, R56). -/
def sealsPartial (s : State) (st : StreamId) : Prop :=
  ∃ b, s.fillBuf st = some b ∧ (s.buf b).words ≠ [] ∧ (s.stream st).endPage < 0xFFFFFFFF

/-- The record of a stream whose page is sealed, STARVED or not (R52, R100, R101). -/
def StreamRec.sealedAs (r : StreamRec) (starved : Bool) : StreamRec :=
  { r with endPage := r.endPage + 1, runStartPending := false, droppedInRun := 0, inFlight := r.inFlight + 1, starved := starved }

section

variable {st : StreamId} {s : State}

theorem closeFill_sealed {b : BufId} (hf : s.fillBuf st = some b) (hw : (s.buf b).words ≠ []) : closeFill st s = sealFill st b s := by
  unfold closeFill
  rw [hf]
  exact if_neg hw

/-- A run end that seals its partial page (R56, step 2). -/
theorem closeFill_seals (h : sealsPartial s st) :
    (∃ c, (closeFill st s).stream st = (s.stream st).sealedAs c) ∧ ∀ f, f ≠ st → (closeFill st s).stream f = s.stream f := by
  obtain ⟨b, hf, hw, he⟩ := h
  obtain ⟨hst, -, hother, -⟩ := sealFill_record b he
  rw [closeFill_sealed hf hw]
  exact ⟨hst, hother⟩

/-- A run end without a page to seal frees the fill buffer, when there is one (R52, R56). -/
theorem closeFill_frees (h : ¬sealsPartial s st) :
    (s.fillBuf st = none ∧ closeFill st s = s) ∨ ∃ b, s.fillBuf st = some b ∧ closeFill st s = freeBuffer b (s.setFill st none) := by
  unfold closeFill
  split
  · next hf => exact .inl ⟨hf, rfl⟩
  · next b hf =>
    refine .inr ⟨b, hf, ?_⟩
    split
    · rfl
    · next hw => exact if_pos (Nat.le_of_not_lt fun he => h ⟨b, hf, hw, he⟩)

theorem closeFill_keeps (h : ¬sealsPartial s st) (f : StreamId) : sameRun (s.stream f) ((closeFill st s).stream f) := by
  rcases closeFill_frees h with ⟨-, e⟩ | ⟨b, -, e⟩
  · rw [e]
    exact .refl _
  · rw [e]
    exact freeBuffer_sameRun b (s.setFill st none) f

/-- What step 2 of a run end makes of the stream's record. -/
theorem closeFill_record (st : StreamId) (s : State) : ∃ r, sameRun r ((closeFill st s).stream st) ∧
    ((sealsPartial s st ∧ ∃ c, r = (s.stream st).sealedAs c) ∨ (¬sealsPartial s st ∧ r = s.stream st)) := by
  by_cases h : sealsPartial s st
  · obtain ⟨⟨c, hst⟩, -⟩ := closeFill_seals h
    exact ⟨_, (congrArg (sameRun _) hst).mpr (.refl _), .inl ⟨h, c, rfl⟩⟩
  · exact ⟨_, closeFill_keeps h st, .inr ⟨h, rfl⟩⟩

end

/-! ## The state after a run end -/

theorem stateAfterRun_eq (cause : EndCause) (r : StreamRec) : stateAfterRun cause r.rearms = stateAfter cause r := by
  unfold StreamRec.rearms
  cases cause <;> rfl

/-- A run end leaves the stream ARMED on IMMEDIATE by the table of R57. -/
theorem restarts_iff (cause : EndCause) (r : StreamRec) :
    stateAfter cause r = .armed ∧ r.startSource = some .immediate ↔ restarts cause r = true := by
  unfold stateAfter restarts StreamRec.startSource
  cases cause <;> simp

/-- The record of a stream whose run ends with the cause, before any restart (R56, R57). -/
def StreamRec.ended (r : StreamRec) (cause : EndCause) : StreamRec :=
  { r with endCause := some cause, overrun := false, state := stateAfter cause r }

/-- Steps 1 to 5 of a run end (R56). -/
def runEnded (st : StreamId) (cause : EndCause) (s : State) : State := leaveRun st cause (closeFill st (recordCause st cause s))

/-- The record of a stream after a run end, with the start of its next run where R57 says so. -/
def StreamRec.afterEnd (r : StreamRec) (cause : EndCause) : StreamRec :=
  if restarts cause r = true then startedRun (r.ended cause) else r.ended cause

section

variable (r : StreamRec) (cause : EndCause)

theorem afterEnd_endCause : (r.afterEnd cause).endCause = some cause := by
  unfold StreamRec.afterEnd
  split <;> rfl
theorem afterEnd_state : (r.afterEnd cause).state = if restarts cause r then .capturing else stateAfter cause r := by
  unfold StreamRec.afterEnd
  split <;> rfl
theorem afterEnd_runNumber : (r.afterEnd cause).runNumber = r.runNumber + (if restarts cause r then 1 else 0) := by
  unfold StreamRec.afterEnd
  split
  · rfl
  · exact (BitVec.add_zero _).symm

/-- What a run end leaves of the record, whether it restarts or not (R56). -/
theorem afterEnd_keeps : (r.afterEnd cause).config = r.config ∧ (r.afterEnd cause).basePage = r.basePage ∧
    (r.afterEnd cause).endPage = r.endPage ∧ (r.afterEnd cause).inFlight = r.inFlight ∧ (r.afterEnd cause).starved = r.starved := by
  unfold StreamRec.afterEnd
  split <;> exact ⟨rfl, rfl, rfl, rfl, rfl⟩

end

/-- The cases of a run end's partial page: the record `r` from which the run ends is the one that a seal leaves, or the stream's own. -/
def closedFrom (s : State) (st : StreamId) (r : StreamRec) : Prop :=
  (sealsPartial s st ∧ ∃ c, r = (s.stream st).sealedAs c) ∨ (¬sealsPartial s st ∧ r = s.stream st)

theorem closedFrom.keeps {s : State} {st : StreamId} {r : StreamRec} (h : closedFrom s st r) :
    r.config = (s.stream st).config ∧ r.basePage = (s.stream st).basePage ∧ r.runNumber = (s.stream st).runNumber := by
  rcases h with ⟨-, c, rfl⟩ | ⟨-, rfl⟩ <;> exact ⟨rfl, rfl, rfl⟩

theorem closedFrom.sealed {s : State} {st : StreamId} {r : StreamRec} (h : closedFrom s st r) (hs : sealsPartial s st) :
    ∃ c, r = (s.stream st).sealedAs c := by
  rcases h with ⟨-, h⟩ | ⟨hn, -⟩
  · exact h
  · exact absurd hs hn

theorem closedFrom.plain {s : State} {st : StreamId} {r : StreamRec} (h : closedFrom s st r) (hs : ¬sealsPartial s st) : r = s.stream st := by
  rcases h with ⟨h, -⟩ | ⟨-, h⟩
  · exact absurd h hs
  · exact h

theorem not_sealsPartial {s : State} {st : StreamId} (h : s.fillBuf st = none ∨ (∃ b, s.fillBuf st = some b ∧ (s.buf b).words = []) ∨
    (s.stream st).endPage = 0xFFFFFFFF) : ¬sealsPartial s st := by
  rintro ⟨b, hb, hw, he⟩
  rcases h with h | ⟨b', hb', hw'⟩ | h
  · exact nomatch h.symm.trans hb
  · obtain rfl : b' = b := Option.some.inj (hb'.symm.trans hb)
    exact hw hw'
  · exact absurd h (Nat.ne_of_lt he)

section

variable {barred : List StreamId} {st : StreamId} {cause : EndCause} {s : State}

theorem leaveRun_stream (st : StreamId) (cause : EndCause) (s : State) : (leaveRun st cause s).stream st =
    { s.stream st with overrun := false, state := stateAfter cause (s.stream st) } := by
  rw [← stateAfterRun_eq]
  exact vget_vset_self ..

theorem recordCause_stream (st : StreamId) (cause : EndCause) (s : State) :
    (recordCause st cause s).stream st = { s.stream st with endCause := some cause } := vget_vset_self ..

theorem recordCause_sealsPartial (st : StreamId) (cause : EndCause) (s : State) :
    sealsPartial (recordCause st cause s) st ↔ sealsPartial s st := by
  unfold sealsPartial
  rw [recordCause_stream]
  rfl

/-- The record that steps 1 to 5 of a run end leave: the run's own, or the one that the seal of its partial page made of it. -/
theorem runEnded_record (st : StreamId) (cause : EndCause) (s : State) : ∃ r, (runEnded st cause s).stream st = r.ended cause ∧
    closedFrom s st r := by
  obtain ⟨r, hr, hcase⟩ := closeFill_record st (recordCause st cause s)
  rw [recordCause_sealsPartial, recordCause_stream] at hcase
  unfold runEnded
  rw [leaveRun_stream, hr.eq]
  rcases hcase with ⟨h, c, rfl⟩ | ⟨h, rfl⟩
  · exact ⟨(s.stream st).sealedAs c, rfl, .inl ⟨h, c, rfl⟩⟩
  · exact ⟨s.stream st, rfl, .inr ⟨h, rfl⟩⟩

theorem runEnded_waitList (st : StreamId) (cause : EndCause) (s : State) : st ∉ (runEnded st cause s).bufs.waitList :=
  fun h => absurd (List.mem_filter.1 h).2 (by simp)

theorem runEnded_step (st : StreamId) (cause : EndCause) (s : State) : RunStep (fun f => f = st) s (runEnded st cause s) :=
  (((RunStep.refl (fun f => f = st) s).recordCause st cause rfl).closeFill st rfl).leaveRun st cause rfl

theorem endRun_eq (barred : List StreamId) (st : StreamId) (cause : EndCause) (s : State) : endRun barred st cause s =
    if restarts cause (s.stream st) = true then startRun barred st (runEnded st cause s) else runEnded st cause s := by
  obtain ⟨r, hr, hcase⟩ := runEnded_record st cause s
  have hre : restarts cause r = restarts cause (s.stream st) := by
    unfold restarts
    rw [hcase.keeps.1]
  have hi : (((runEnded st cause s).stream st).state = .armed ∧ ((runEnded st cause s).stream st).startSource = some .immediate) ↔
      restarts cause (s.stream st) = true := by
    rw [hr, ← hre, ← restarts_iff]
    rfl
  exact ite_congr (propext hi) (fun _ => rfl) fun _ => rfl

theorem endRun_stays (h : restarts cause (s.stream st) = false) : endRun barred st cause s = runEnded st cause s := by
  rw [endRun_eq, h]
  rfl

/-- The record that a run end leaves. -/
theorem endRun_record (barred : List StreamId) (st : StreamId) (cause : EndCause) (s : State) :
    ∃ r, sameRun (r.afterEnd cause) ((endRun barred st cause s).stream st) ∧ closedFrom s st r := by
  obtain ⟨r, hr, hcase⟩ := runEnded_record st cause s
  refine ⟨r, ?_, hcase⟩
  rw [endRun_eq, StreamRec.afterEnd, ← hr, show restarts cause r = restarts cause (s.stream st) by unfold restarts; rw [hcase.keeps.1]]
  split
  · exact startRun_self ..
  · exact .refl _

theorem startRun_pendingSet (barred : List StreamId) (st : StreamId) (s : State) {i : Nat} (h : s.notices.pendingSet.getLsbD i = true) :
    (startRun barred st s).notices.pendingSet.getLsbD i = true := by
  obtain ⟨-, -, -, -, -, -, -, hp, -⟩ := beginRun_facts st s
  exact (starts_startRun barred st s).pendingSet i (hp i h)

theorem endRun_pendingSet (barred : List StreamId) (st : StreamId) (cause : EndCause) (s : State) :
    (endRun barred st cause s).notices.pendingSet.getLsbD 2 = true := by
  have h : (runEnded st cause s).notices.pendingSet.getLsbD 2 = true := raise_bit .runEnd _ _
  rw [endRun_eq]
  split
  · exact startRun_pendingSet _ _ _ h
  · exact h

/-- A run end without a restart takes its stream off the buffer wait list and leaves every other stream alone, but for an OVERRUN that a
freed buffer ends (R56, R93). -/
theorem endRun_leaves (h : restarts cause (s.stream st) = false) : ((endRun barred st cause s).stream st).overrun = false ∧
    st ∉ (endRun barred st cause s).bufs.waitList ∧ ∀ f, f ≠ st → sameRun (s.stream f) ((endRun barred st cause s).stream f) := by
  obtain ⟨r, he, -⟩ := runEnded_record st cause s
  rw [endRun_stays h]
  refine ⟨?_, runEnded_waitList st cause s, fun f hf => (runEnded_step st cause s).others f hf⟩
  rw [he]
  rfl

end

/-- Settles O29: the record that steps 1 to 5 leave, and the start that may follow them. -/
theorem runsEndByTheirCause : Obligations.RunsEndByTheirCause := by
  intro barred st cause s _ t r
  obtain ⟨r', hr, hcase⟩ := endRun_record barred st cause s
  obtain ⟨hconfig, hbase, hrun⟩ := hcase.keeps
  obtain ⟨hc, hb, he, hi, hs⟩ := afterEnd_keeps r' cause
  have hre : restarts cause r' = restarts cause r := by
    unfold restarts
    rw [hconfig]
  have hafter : stateAfter cause r' = stateAfter cause r := by
    unfold stateAfter
    rw [hconfig]
  have ht : t.stream st = _ := hr.eq
  have hstate := afterEnd_state r' cause
  have hnumber := afterEnd_runNumber r' cause
  rw [hre, hafter] at hstate
  rw [hre, hrun] at hnumber
  refine ⟨(congrArg StreamRec.endCause ht).trans (afterEnd_endCause r' cause), (congrArg StreamRec.state ht).trans hstate,
    (congrArg StreamRec.runNumber ht).trans hnumber, endRun_pendingSet .., (congrArg StreamRec.config ht).trans (hc.trans hconfig),
    (congrArg StreamRec.basePage ht).trans (hb.trans hbase), fun b hf hw hlt => ?_, fun h => ?_, endRun_leaves,
    ((RunMove.refl (fun f => f = st) s).endRun (barred := barred) st cause rfl).outside⟩
  · obtain ⟨c, rfl⟩ := hcase.sealed ⟨b, hf, hw, hlt⟩
    exact ⟨(congrArg StreamRec.endPage ht).trans he, (congrArg StreamRec.inFlight ht).trans hi⟩
  · obtain rfl := hcase.plain (not_sealsPartial h)
    exact ⟨(congrArg StreamRec.endPage ht).trans he, (congrArg StreamRec.inFlight ht).trans hi, (congrArg StreamRec.starved ht).trans hs⟩

end Sys2Proof.Machine
end

section
/-!
PROOFS. ARM and STOP (R66, R67): the start that ARM may bring with it, and the run, the arming or nothing that STOP ends.
-/
-- The theorems of this file are elaborated one after another: in parallel their waiting threads exceed the memory limit of the check.
set_option Elab.async false

namespace Sys2Proof.Machine

/-! ## Requests that move what runs move -/

/-- A request whose owning block leaves alone what runs leave alone: its effect stands at the end of its happening. -/
theorem exec_runs {k : ReqKind} {tag : Byte} {p : List Byte} {s u : State} (hacc : accepted k tag p s = true)
    (hown : ownRequest k tag p (waiting k tag p s) = u) (hout : u.outside = s.outside) :
    ∃ t, exec (commandOf k tag p) s = .next t ∧ t.outside = s.outside ∧ Stands u t := by
  refine ⟨_, exec_accepted hacc, ?_, ?_⟩
  · rw [settle_outside, hown]
    exact hout
  · rw [hown]
    exact settle_stands (.inr (congrArg (fun x => x.ctl.device) hout).symm)

/-! ## Operations whose replies complete FLUSH requests -/

/-- From `s` to `t` the replies that join the reply queue complete FLUSH requests (R114). -/
def flushesJoin (s t : State) : Prop :=
  ∃ l, t.link.replies = s.link.replies ++ l ∧ ∀ x ∈ l, ∃ flushTag, x.source = .request flushTag .flush

namespace flushesJoin

variable {s t r : State}

theorem ofLink (h : t.link = s.link) : flushesJoin s t :=
  ⟨[], by rw [h, List.append_nil], fun _ hx => absurd hx List.not_mem_nil⟩

theorem refl (s : State) : flushesJoin s s := ofLink rfl

theorem trans (h1 : flushesJoin s t) (h2 : flushesJoin t r) : flushesJoin s r := by
  obtain ⟨l1, e1, f1⟩ := h1
  obtain ⟨l2, e2, f2⟩ := h2
  exact ⟨l1 ++ l2, by rw [e2, e1, List.append_assoc], fun x hx => (List.mem_append.mp hx).elim (f1 x) (f2 x)⟩

theorem foldl {α : Type} {f : State → α → State} (hf : ∀ r x, flushesJoin r (f r x)) (l : List α) : ∀ s, flushesJoin s (l.foldl f s) := by
  induction l with
  | nil => exact refl
  | cons x l ih => exact fun s => (hf s x).trans (ih (f s x))

theorem completeFlushes (st : StreamId) (status : Status) (s : State) : flushesJoin s (completeFlushes st status s) := by
  obtain ⟨rq, h⟩ := completeFlushes_eq st status s
  refine ⟨flushReplies st status s, by rw [h]; rfl, fun x hx => ?_⟩
  obtain ⟨w, -, rfl⟩ := List.mem_map.mp hx
  exact ⟨w.tag, rfl⟩

theorem checkFlushes (st : StreamId) (s : State) : flushesJoin s (checkFlushes st s) := by
  unfold Machine.checkFlushes
  split
  · exact completeFlushes ..
  · exact refl s

theorem freeBuffer (b : BufId) (s : State) : flushesJoin s (freeBuffer b s) := ofLink (freeBuffer_frame b s).2.1

theorem placeSealed (st : StreamId) (b : BufId) (x : Nat) (s : State) : flushesJoin s (placeSealed st b x s) := by
  cases ha : acceptingUnit s st with
  | some u =>
    rw [placeSealed_accepted ha]
    exact ofLink rfl
  | none =>
    by_cases hn : s.map.freeList.length ≤ 24
    · rw [placeSealed_starves ha hn, starve_eq]
      exact (ofLink rfl : flushesJoin s (pageHeld st b s)).trans (completeFlushes ..)
    · obtain ⟨u, rest, hfree⟩ := List.exists_cons_of_ne_nil (l := s.map.freeList) fun h => hn (by rw [h]; exact Nat.zero_le _)
      obtain ⟨a, hta, ht⟩ := placeSealed_newUnit (b := b) (x := x) ha hfree (by rw [← hfree]; omega)
      rw [ht]
      exact ofLink hta.link

theorem sealFill (st : StreamId) (b : BufId) (s : State) : flushesJoin s (sealFill st b s) := by
  unfold Machine.sealFill
  split
  · exact (ofLink rfl : flushesJoin s (s.setFill st none)).trans (freeBuffer ..)
  · rw [sealPage_eq]
    exact (ofLink rfl : flushesJoin s (pageSealed st b s)).trans (placeSealed ..)

theorem closeFill (st : StreamId) (s : State) : flushesJoin s (closeFill st s) := by
  unfold Machine.closeFill
  split
  · exact refl s
  · split
    · exact (ofLink rfl : flushesJoin s (s.setFill st none)).trans (freeBuffer ..)
    · exact sealFill ..

theorem runEnded (st : StreamId) (cause : EndCause) (s : State) : flushesJoin s (runEnded st cause s) :=
  ((ofLink rfl : flushesJoin s (recordCause st cause s)).trans (closeFill ..)).trans (ofLink rfl)

theorem startRun (barred : List StreamId) (st : StreamId) (s : State) : flushesJoin s (startRun barred st s) := by
  obtain ⟨-, hl, -⟩ := beginRun_facts st s
  exact ofLink ((starts_startRun barred st s).link.trans hl)

theorem endRun (barred : List StreamId) (st : StreamId) (cause : EndCause) (s : State) : flushesJoin s (endRun barred st cause s) := by
  rw [endRun_eq]
  split
  · exact (runEnded ..).trans (startRun ..)
  · exact runEnded ..

end flushesJoin

/-! ## ARM -/

/-- The run starts in the happening of ARM: start source IMMEDIATE, or GATE mode with its pin at the active level (R66). -/
theorem startsAtArm_eq (s : State) (r : StreamRec) : startsAtArm s r =
    r.config.any (fun c => c.start == .immediate || (c.mode == .gate && (match c.start with
      | .ext pin high => s.triggers.ext.getLsbD pin.val == high
      | _ => false))) := by
  unfold startsAtArm gateActive StreamRec.startSource StreamRec.isGate
  cases r.config with
  | none => rfl
  | some c => cases hc : c.start <;> simp [hc]

/-- The state with the stream ARMED (R66). -/
def armedOn (st : StreamId) (s : State) : State := s.setStream st { s.stream st with state := .armed }

theorem armedOn_stream (st : StreamId) (s : State) : (armedOn st s).stream st = { s.stream st with state := .armed } := vget_vset_self ..

theorem armedOn_other {st f : StreamId} (s : State) (h : f ≠ st) : (armedOn st s).stream f = s.stream f := vget_vset_ne _ _ (Ne.symm h)

section

variable {tag : Byte} {st : StreamId} {s : State}

theorem armStream_eq (st : StreamId) (s : State) :
    armStream st s = if startsAtArm s (s.stream st) = true then startRun (capturingNow s) st (armedOn st s) else armedOn st s := by
  have h : startsAtArm (armedOn st s) ((armedOn st s).stream st) = startsAtArm s (s.stream st) := by
    rw [armedOn_stream]
    rfl
  rw [← h]
  rfl

theorem armOn_bound (h : (s.stream st).state = .bound) (he : (s.stream st).endPage ≠ 0xFFFFFFFF) : armOn tag st s =
    finishRequest .arm tag .ok ([streamStateCode ((armStream st s).stream st).state] ++ le16 ((armStream st s).stream st).runNumber) none
      (armStream st s) := by
  unfold armOn
  dsimp only
  exact (if_neg (not_not.mpr h)).trans (if_neg he)

end

/-- Settles O31: the refusals, the stream that waits ARMED, and the run that starts at once. -/
theorem armWaitsOrStarts : Obligations.ArmWaitsOrStarts := by
  intro tag p s hacc
  have hbase : ownRequest .arm tag p (waiting .arm tag p s) = onStream .arm tag p (armOn tag) (waiting .arm tag p s) := rfl
  refine ⟨fun hn => exec_refused hacc (hbase.trans (onStream_none hn ..)), fun st hst => ?_⟩
  have hown := hbase.trans (onStream_some hst ..)
  intro r starts
  have hstarts : startsAtArm (waiting .arm tag p s) ((waiting .arm tag p s).stream st) = starts := startsAtArm_eq ..
  refine ⟨fun h => exec_refused hacc (hown.trans (if_pos h)), fun h he => exec_refused hacc (hown.trans ?_), fun h he hno => ?_, fun h he hyes => ?_⟩
  · unfold armOn
    dsimp only
    exact (if_neg (not_not.mpr h)).trans (if_pos he)
  · have harm : armStream st (waiting .arm tag p s) = armedOn st (waiting .arm tag p s) := by
      rw [armStream_eq, hstarts, hno]
      rfl
    have hu := hown.trans (armOn_bound (s := waiting .arm tag p s) h he)
    rw [harm, armedOn_stream] at hu
    refine (exec_accepted hacc).trans (congrArg (fun x => Host.Outcome.next (settle s x)) (hu.trans ?_))
    exact finishRequest_waiting (s := armedOn st s) _ _ (accepted_fresh hacc)
  · have harm : armStream st (waiting .arm tag p s) = startRun (capturingNow s) st (armedOn st (waiting .arm tag p s)) := by
      rw [armStream_eq, hstarts, hyes]
      rfl
    have hu := hown.trans (armOn_bound (s := waiting .arm tag p s) h he)
    rw [harm] at hu
    have hself : sameRun (startedRun r) ((startRun (capturingNow s) st (armedOn st (waiting .arm tag p s))).stream st) := by
      have := startRun_self (capturingNow s) st (armedOn st (waiting .arm tag p s))
      rw [armedOn_stream] at this
      exact this
    have hother := fun f (hf : f ≠ st) => startRun_other (capturingNow s) st (armedOn st (waiting .arm tag p s)) hf
    have hstart := starts_startRun (capturingNow s) st (armedOn st (waiting .arm tag p s))
    obtain ⟨hmap, hlink, hqueue, -⟩ := beginRun_facts st (armedOn st (waiting .arm tag p s))
    have hout := startRun_outside (capturingNow s) st (armedOn st (waiting .arm tag p s))
    generalize startRun (capturingNow s) st (armedOn st (waiting .arm tag p s)) = v at *
    obtain ⟨t, hex, hto, ht⟩ := exec_runs hacc hu hout
    refine ⟨t, hex, ?_, ht.replies.trans ?_, fun f hf => ?_, hto, ?_, ?_⟩
    · rw [ht.stream]
      exact hself
    · change v.link.replies ++ [replyOf .arm tag .ok _] = _
      rw [hself.state, hself.runNumber, hstart.link, hlink]
      rfl
    · rw [ht.stream, ← armedOn_other s hf]
      exact (hother f hf).imp id fun ⟨hp, _, hs⟩ => ⟨hp, hs⟩
    · exact ht.map.trans (hstart.map.trans hmap)
    · exact (congrArg BufMgr.queue ht.bufs).trans (hstart.queue.trans hqueue)

/-! ## STOP -/

section

variable {tag : Byte} {st : StreamId} {s : State}

theorem stopOn_capturing (h : (s.stream st).state = .capturing) : stopOn tag st s =
    (let t := endRun (capturingNow s) st .stop s
     finishRequest .stop tag .ok ([streamStateCode (t.stream st).state, 1] ++ le16 (t.stream st).runNumber) none t) := by
  unfold stopOn stopStream
  simp only [h, beq_self_eq_true]
  rfl

theorem stopOn_armed (h : (s.stream st).state = .armed) : stopOn tag st s =
    finishRequest .stop tag .ok ([2, 0] ++ le16 (s.stream st).runNumber) none
      (s.setStream st { s.stream st with state := .bound }) := by
  have hst : (s.setStream st { s.stream st with state := .bound }).stream st = { s.stream st with state := .bound } := vget_vset_self ..
  unfold stopOn stopStream
  simp only [h, hst]
  rfl

theorem stopOn_idle (hc : (s.stream st).state ≠ .capturing) (ha : (s.stream st).state ≠ .armed) : stopOn tag st s =
    finishRequest .stop tag .ok ([streamStateCode (s.stream st).state, 0] ++ le16 (s.stream st).runNumber) none s := by
  unfold stopOn stopStream
  cases h : (s.stream st).state with
  | capturing => exact absurd h hc
  | armed => exact absurd h ha
  | _ => simp only [h] <;> rfl

end

/-- Settles O32: the run that STOP ends, the stream that it disarms, and the stream that it leaves alone. -/
theorem stopEndsTheRun : Obligations.StopEndsTheRun := by
  intro tag p s hacc
  have hbase : ownRequest .stop tag p (waiting .stop tag p s) = onStream .stop tag p (stopOn tag) (waiting .stop tag p s) := rfl
  refine ⟨fun hn => exec_refused hacc (hbase.trans (onStream_none hn ..)), fun st hst => ?_⟩
  have hown := hbase.trans (onStream_some hst ..)
  intro r
  refine ⟨fun h => ?_, fun h => ?_, fun hc ha => exec_answered hacc (hown.trans (stopOn_idle hc ha))⟩
  · have hu := hown.trans (stopOn_capturing (s := waiting .stop tag p s) h)
    obtain ⟨r', hr, hcase⟩ := endRun_record (capturingNow s) st .stop (waiting .stop tag p s)
    obtain ⟨hover, -, hothers⟩ := endRun_leaves (barred := capturingNow s) (st := st) (cause := .stop) (s := waiting .stop tag p s) rfl
    obtain ⟨l, hl, -⟩ := flushesJoin.endRun (capturingNow s) st .stop (waiting .stop tag p s)
    have hout := ((RunMove.refl (fun f => f = st) (waiting .stop tag p s)).endRun (barred := capturingNow s) st .stop rfl).outside
    rw [show capturingNow (waiting .stop tag p s) = capturingNow s from rfl] at hu
    generalize endRun (capturingNow s) st .stop (waiting .stop tag p s) = v at *
    have hstate : (v.stream st).state = .bound := hr.state.trans rfl
    have hnumber : (v.stream st).runNumber = r.runNumber := hr.runNumber.trans hcase.keeps.2.2
    dsimp only at hu
    rw [hstate, hnumber] at hu
    obtain ⟨t, hex, hto, ht⟩ := exec_runs hacc hu hout
    refine ⟨t, l, hex, ?_⟩
    rw [ht.stream]
    exact ⟨hstate, congrArg StreamRec.endCause hr.eq, hnumber, hover,
      ht.replies.trans (congrArg (fun l => l ++ [replyOf .stop tag .ok ([2, 1] ++ le16 r.runNumber)]) hl),
      fun f hf => by rw [ht.stream]; exact hothers f hf, hto⟩
  · have hu := hown.trans (stopOn_armed (s := waiting .stop tag p s) h)
    refine (exec_accepted hacc).trans (congrArg (fun x => Host.Outcome.next (settle s x)) (hu.trans ?_))
    exact finishRequest_waiting (s := s.setStream st { r with state := .bound }) _ _ (accepted_fresh hacc)

end Sys2Proof.Machine
end

section
/-!
PROOFS. FLUSH (R52, R113): the page that it seals in a run that continues, and the request that is answered at once or waits.
-/
-- The theorems of this file are elaborated one after another: in parallel their waiting threads exceed the memory limit of the check.
set_option Elab.async false

namespace Sys2Proof.Machine

/-! ## Operations that complete no FLUSH request -/

/-- From `s` to `t` no FLUSH request is completed: the host link and the FLUSH waiters stay. -/
def flushesStay (s t : State) : Prop := t.link = s.link ∧ t.bufs.flushWaiters = s.bufs.flushWaiters

namespace flushesStay

variable {s t r : State}

theorem refl (s : State) : flushesStay s s := ⟨rfl, rfl⟩

theorem trans (h1 : flushesStay s t) (h2 : flushesStay t r) : flushesStay s r := ⟨h2.1.trans h1.1, h2.2.trans h1.2⟩

theorem freeBuffer (b : BufId) (s : State) : flushesStay s (freeBuffer b s) := by
  obtain ⟨-, hl, -, -, -, -, hf⟩ := freeBuffer_frame b s
  exact ⟨hl, hf⟩

theorem askBuffer (st : StreamId) (s : State) : flushesStay s (askBuffer st s) := by
  unfold Machine.askBuffer
  split <;> exact ⟨rfl, rfl⟩

/-- A run end that seals no partial page completes no FLUSH request. -/
theorem runEnded {st : StreamId} {cause : EndCause} (h : ¬sealsPartial s st) : flushesStay s (runEnded st cause s) := by
  have hc : flushesStay s (closeFill st (recordCause st cause s)) := by
    rcases closeFill_frees (mt (recordCause_sealsPartial st cause s).mp h) with ⟨-, e⟩ | ⟨b, -, e⟩
    · rw [e]
      exact ⟨rfl, rfl⟩
    · rw [e]
      exact trans (t := (recordCause st cause s).setFill st none) ⟨rfl, rfl⟩ (freeBuffer b _)
  exact hc.trans ⟨rfl, rfl⟩

end flushesStay

/-! ## The seal in a run that continues -/

section

variable {barred : List StreamId} {st : StreamId} {s : State}

/-- A seal that leaves its stream as it was but for STARVED has placed the page, and no FLUSH request is completed (R101, R104). -/
theorem placeSealed_flushes (st : StreamId) (b : BufId) (x : Nat) (s : State) :
    ((placeSealed st b x s).stream st).starved = true ∨ flushesStay s (placeSealed st b x s) := by
  cases ha : acceptingUnit s st with
  | some u =>
    rw [placeSealed_accepted ha]
    exact .inr ⟨rfl, rfl⟩
  | none =>
    by_cases hn : s.map.freeList.length ≤ 24
    · obtain ⟨-, hs, -⟩ := starve_facts st b s
      rw [placeSealed_starves ha hn]
      exact .inl (congrArg StreamRec.starved ((congrArg (fun v => vget v st) hs).trans (vget_vset_self ..)))
    · obtain ⟨u, rest, hfree⟩ := List.exists_cons_of_ne_nil (l := s.map.freeList) fun h => hn (by rw [h]; exact Nat.zero_le _)
      obtain ⟨a, hta, ht⟩ := placeSealed_newUnit (b := b) (x := x) ha hfree (by rw [← hfree]; omega)
      rw [ht]
      exact .inr ⟨hta.link, (congrArg BufMgr.flushWaiters hta.bufs :)⟩

theorem askBuffer_sameRun (st : StreamId) (s : State) (f : StreamId) : sameRun (s.stream f) ((askBuffer st s).stream f) :=
  ((RunStep.refl (fun _ => False) s).askBuffer st).others f id

theorem endRun_limit_plain (h : ¬sealsPartial s st) : sameRun ((s.stream st).ended .limit) ((endRun barred st .limit s).stream st) ∧
    (∀ f, f ≠ st → sameRun (s.stream f) ((endRun barred st .limit s).stream f)) ∧ flushesStay s (endRun barred st .limit s) := by
  obtain ⟨r, hr, hcase⟩ := endRun_record barred st .limit s
  obtain rfl := hcase.plain h
  obtain ⟨-, -, ho⟩ := endRun_leaves (barred := barred) (st := st) (cause := .limit) (s := s) rfl
  refine ⟨hr, ho, ?_⟩
  rw [endRun_stays rfl]
  exact .runEnded h

theorem not_sealsPartial_exhausted (h : 0xFFFFFFFF ≤ (s.stream st).endPage) : ¬sealsPartial s st :=
  fun ⟨_, _, _, he⟩ => Nat.not_lt.mpr h he

/-- With no number left the words are discarded, and the run ends with LIMIT (R52, assumption 18). -/
theorem sealContinuing_exhausted (b : BufId) (h : 0xFFFFFFFF ≤ (s.stream st).endPage) :
    sameRun ((s.stream st).ended .limit) ((sealContinuing barred st b s).stream st) ∧ flushesStay s (sealContinuing barred st b s) := by
  have hfill : sealFill st b s = freeBuffer b (s.setFill st none) := if_pos h
  have hr : sameRun (s.stream st) ((sealFill st b s).stream st) := by
    rw [hfill]
    exact freeBuffer_sameRun b (s.setFill st none) st
  have hf : flushesStay s (sealFill st b s) := by
    rw [hfill]
    exact flushesStay.trans (t := s.setFill st none) ⟨rfl, rfl⟩ (.freeBuffer b _)
  have hend : 0xFFFFFFFF ≤ ((sealFill st b s).stream st).endPage := by
    rw [hr.eq]
    exact h
  have he : sealContinuing barred st b s = endRun barred st .limit (sealFill st b s) := if_pos hend
  obtain ⟨hr', -, hf'⟩ := endRun_limit_plain (barred := barred) (not_sealsPartial_exhausted hend)
  rw [he]
  refine ⟨.trans ?_ hr', hf.trans hf'⟩
  rw [hr.eq]
  rfl

/-- The record that a seal leaves in a run that continues: its own, or the one of a run that ends with LIMIT (R52, R103). -/
def StreamRec.sealedOn (r : StreamRec) (starved : Bool) : StreamRec :=
  if r.endPage + 1 = 0xFFFFFFFF then (r.sealedAs starved).ended .limit else r.sealedAs starved

theorem sealedOn_fields (r : StreamRec) (c : Bool) : (r.sealedOn c).endPage = r.endPage + 1 ∧ (r.sealedOn c).inFlight = r.inFlight + 1 ∧
    (r.sealedOn c).droppedInRun = 0 ∧ (r.sealedOn c).starved = c ∧ (r.sealedOn c).state = if r.endPage + 1 = 0xFFFFFFFF then .bound else r.state := by
  unfold StreamRec.sealedOn
  split <;> exact ⟨rfl, rfl, rfl, rfl, rfl⟩

/-- A page sealed in a run that continues (R52, R98 to R103). A FLUSH request is completed only when the page starves the stream. -/
theorem sealContinuing_numbered (barred : List StreamId) (b : BufId) (h : (s.stream st).endPage < 0xFFFFFFFF) :
    ∃ c, sameRun ((s.stream st).sealedOn c) ((sealContinuing barred st b s).stream st) ∧
      (∀ f, f ≠ st → sameRun (s.stream f) ((sealContinuing barred st b s).stream f)) ∧
      (c = true ∨ flushesStay s (sealContinuing barred st b s)) := by
  obtain ⟨⟨c, hst⟩, hfill, hother, -⟩ := sealFill_record b h
  have hflush : c = true ∨ flushesStay s (sealFill st b s) := by
    rw [sealFill_numbered b h] at hst ⊢
    exact (placeSealed_flushes st b _ (pageSealed st b s)).imp (fun hs => (congrArg StreamRec.starved hst).symm.trans hs)
      fun hs => flushesStay.trans (t := pageSealed st b s) ⟨rfl, rfl⟩ hs
  have hrec : (sealFill st b s).stream st = (s.stream st).sealedAs c := hst
  have hsame : ∀ f, f ≠ st → sameRun (s.stream f) ((sealFill st b s).stream f) := fun f hf => by
    rw [hother f hf]
    exact .refl _
  refine ⟨c, ?_⟩
  unfold StreamRec.sealedOn sealContinuing
  dsimp only
  generalize sealFill st b s = v at *
  have hend : (v.stream st).endPage = (s.stream st).endPage + 1 := congrArg StreamRec.endPage hrec
  have hst' : (v.stream st).starved = c := congrArg StreamRec.starved hrec
  by_cases hx : (s.stream st).endPage + 1 = 0xFFFFFFFF
  · rw [if_pos (show maxPage ≤ (v.stream st).endPage from Nat.le_of_eq (hend.trans hx).symm), if_pos hx, ← hrec]
    obtain ⟨hr, ho, hf⟩ := endRun_limit_plain (barred := barred) (st := st) (s := v) (not_sealsPartial (.inl hfill))
    exact ⟨hr, fun f hf => (hsame f hf).trans (ho f hf), hflush.imp_right fun hs => hs.trans hf⟩
  · rw [if_neg (show ¬maxPage ≤ (v.stream st).endPage from fun hle => hx (Nat.le_antisymm h (hle.trans_eq hend))), if_neg hx, hst', ← hrec]
    cases c with
    | true => exact ⟨.refl _, hsame, .inl rfl⟩
    | false => exact ⟨askBuffer_sameRun st v st, fun f hf => (hsame f hf).trans (askBuffer_sameRun st v f),
        hflush.imp_right fun hs => hs.trans (.askBuffer st v)⟩

end

theorem flushesJoin.sealContinuing (barred : List StreamId) (st : StreamId) (b : BufId) (s : State) :
    flushesJoin s (sealContinuing barred st b s) := by
  have h := flushesJoin.sealFill st b s
  unfold Machine.sealContinuing
  dsimp only
  split
  · exact h.trans (.endRun ..)
  · split
    · exact h
    · exact h.trans (.ofLink (flushesStay.askBuffer st _).1)

/-! ## FLUSH -/

section

variable {tag : Byte} {st : StreamId} {s : State}

theorem partialFill_some {b : BufId} (h : s.fillBuf st = some b) (hw : (s.buf b).words ≠ []) : partialFill s st = some b := by
  unfold partialFill
  rw [h]
  exact if_neg hw

theorem partialFill_none (h : ∀ b, s.fillBuf st = some b → (s.buf b).words = []) : partialFill s st = none := by
  unfold partialFill
  split
  · next b hb => exact if_pos (h b hb)
  · rfl

theorem lostItsHeldPage_iff : lostItsHeldPage s st = true ↔
    st ∈ s.bufs.heldAtWorn ∧ (s.stream st).endCause = some .worn ∧ (s.stream st).state = .bound := by
  simp [lostItsHeldPage, and_assoc]

theorem flushOn_starved (h : (s.stream st).starved = true) : flushOn tag st s = finishFlush ⟨tag, st, false⟩ .noSpace s := if_pos h

theorem flushOn_sealing {b : BufId} (h : (s.stream st).starved = false) (hb : s.fillBuf st = some b) (hw : (s.buf b).words ≠ []) :
    flushOn tag st s =
      flushAfterSeal ⟨tag, st, decide ((s.stream st).endPage < 0xFFFFFFFF)⟩ (sealContinuing (capturingNow s) st b s) := by
  unfold flushOn
  rw [h, partialFill_some hb hw]
  rfl

theorem flushOn_plain (h : (s.stream st).starved = false) (hw : ∀ b, s.fillBuf st = some b → (s.buf b).words = []) : flushOn tag st s =
    if lostItsHeldPage s st = true then flushAfterDiscard tag st s else flushAfterSeal ⟨tag, st, false⟩ s := by
  unfold flushOn
  rw [h, partialFill_none hw]
  rfl

/-- A FLUSH that sealed nothing is completed with no page in flight, and otherwise waits (R113, steps 4 and 5). -/
theorem flushAfterSeal_unsealed (tag : Byte) (st : StreamId) (s : State) : flushAfterSeal ⟨tag, st, false⟩ s =
    if (s.stream st).inFlight = 0 then finishFlush ⟨tag, st, false⟩ .ok s else s.setFlushWaiters (s.bufs.flushWaiters ++ [⟨tag, st, false⟩]) := by
  unfold flushAfterSeal
  exact if_neg (by simp)

/-- A FLUSH whose seal starved the stream is completed with NO_SPACE, and otherwise waits for its page (R113). -/
theorem flushAfterSeal_sealed (tag : Byte) (st : StreamId) (s : State) (h : (s.stream st).inFlight ≠ 0) : flushAfterSeal ⟨tag, st, true⟩ s =
    if (s.stream st).starved = true then finishFlush ⟨tag, st, true⟩ .noSpace s
    else s.setFlushWaiters (s.bufs.flushWaiters ++ [⟨tag, st, true⟩]) := by
  unfold flushAfterSeal
  simp [h]

/-- Steps 3 to 5 of a FLUSH complete it or let it wait (R113). -/
theorem flushAfterSeal_frame (w : FlushWaiter) (s : State) :
    (flushAfterSeal w s).outside = s.outside ∧ (flushAfterSeal w s).streams = s.streams := by
  unfold flushAfterSeal
  dsimp only
  split
  · exact ⟨rfl, rfl⟩
  · split <;> exact ⟨rfl, rfl⟩

/-- A FLUSH of a stream with a page to seal: its effect stands (R113). -/
theorem exec_flush_sealing {p : List Byte} {b : BufId} (hacc : accepted .flush tag p s = true) (hst : streamOf (field8 p 2) = some st)
    (h : (s.stream st).starved = false) (hb : s.fillBuf st = some b) (hw : (s.buf b).words ≠ []) :
    ∃ t, exec (.flush tag p) s = .next t ∧ t.outside = s.outside ∧
      Stands (flushAfterSeal ⟨tag, st, decide ((s.stream st).endPage < 0xFFFFFFFF)⟩
        (sealContinuing (capturingNow s) st b (waiting .flush tag p s))) t := by
  have hown : ownRequest .flush tag p (waiting .flush tag p s) = flushOn tag st (waiting .flush tag p s) := onStream_some hst ..
  refine exec_runs hacc (hown.trans (flushOn_sealing (s := waiting .flush tag p s) h hb hw)) ?_
  rw [(flushAfterSeal_frame ..).1]
  exact ((RunMove.refl (fun f => f = st) (waiting .flush tag p s)).sealContinuing st b rfl).outside

end

/-- Settles O33: by STARVED, by the fill buffer, and by what the seal leaves. -/
theorem flushSealsAndWaits : Obligations.FlushSealsAndWaits := by
  intro tag p s hacc
  have hbase : ownRequest .flush tag p (waiting .flush tag p s) = onStream .flush tag p (flushOn tag) (waiting .flush tag p s) := rfl
  refine ⟨fun hn => exec_refused hacc (hbase.trans (onStream_none hn ..)), fun st hst => ?_⟩
  have hown := hbase.trans (onStream_some hst ..)
  intro r plain noted placed
  have hdone : ∀ (u : State) status, u.link = s.link → u.streams = s.streams →
      finishFlush ⟨tag, st, false⟩ status (waiting .flush tag p u) = answered .flush tag p status plain u := fun u status hl hr => by
    have hc : flushContents st false (waiting .flush tag p u) = plain :=
      congrArg (fun v : Vector StreamRec 8 => n8 st.val ++ [streamStateCode (vget v st).state] ++ b8 false ++ n32 (vget v st).endPage) hr
    unfold finishFlush
    rw [hc]
    exact finishRequest_waiting _ _ (by rw [hl]; exact accepted_fresh hacc)
  have hplaced : ∀ u : State, u.link = s.link → u.streams = s.streams →
      flushAfterSeal ⟨tag, st, false⟩ (waiting .flush tag p u) = placed u := fun u hl hr => by
    rw [flushAfterSeal_unsealed, hdone u .ok hl hr, show ((waiting .flush tag p u).stream st).inFlight = r.inFlight from
      congrArg (fun v : Vector StreamRec 8 => (vget v st).inFlight) hr]
    rfl
  have hexec : ∀ {u : State}, ownRequest .flush tag p (waiting .flush tag p s) = u → exec (.flush tag p) s = .next (settle s u) := fun h =>
    (exec_accepted hacc).trans (congrArg (fun x => Host.Outcome.next (settle s x)) h)
  refine ⟨fun h => hexec ((hown.trans (flushOn_starved (s := waiting .flush tag p s) h)).trans (hdone s .noSpace rfl rfl)),
    fun h hw => ⟨fun hn => ?_, fun hn => ?_⟩, fun b h hb hw he => ?_, fun b h hb hw he => ?_⟩
  · exact hexec ((hown.trans (flushOn_plain (s := waiting .flush tag p s) h hw)).trans
      ((if_neg (mt lostItsHeldPage_iff.mp hn)).trans (hplaced s rfl rfl)))
  · intro drawn
    have hu := (hown.trans (flushOn_plain (s := waiting .flush tag p s) h hw)).trans (if_pos (lostItsHeldPage_iff.mpr hn))
    unfold flushAfterDiscard at hu
    dsimp only at hu
    split at hu
    · exact .inl (hexec (hu.trans (hdone drawn .noSpace rfl rfl)))
    · exact .inr (hexec (hu.trans (hplaced drawn rfl rfl)))
  · obtain ⟨t, hex, hto, ht⟩ := exec_flush_sealing hacc hst h hb hw
    rw [decide_eq_false (Nat.not_lt.mpr (Nat.le_of_eq he.symm))] at ht
    obtain ⟨hr, hf⟩ := sealContinuing_exhausted (barred := capturingNow s) (s := waiting .flush tag p s) b (Nat.le_of_eq he.symm)
    generalize sealContinuing (capturingNow s) st b (waiting .flush tag p s) = v at *
    have hrec := (ht.stream st).trans ((congrArg (fun x => vget x st) (flushAfterSeal_frame ⟨tag, st, false⟩ v).2).trans hr.eq)
    have hin : (v.stream st).inFlight = r.inFlight := (congrArg StreamRec.inFlight hr.eq :)
    rw [flushAfterSeal_unsealed, hin] at ht
    refine ⟨t, hex, (congrArg StreamRec.endPage hrec).trans he, (congrArg StreamRec.inFlight hrec :),
      congrArg StreamRec.state hrec, congrArg StreamRec.endCause hrec, hto, fun hpos => ?_, fun hzero => ?_⟩
    · rw [if_neg (Nat.ne_of_gt hpos)] at ht
      exact (congrArg BufMgr.flushWaiters ht.bufs).trans (congrArg (· ++ _) hf.2)
    · rw [if_pos hzero] at ht
      refine ht.replies.trans ?_
      unfold finishFlush flushContents
      dsimp only
      rw [hr.eq]
      exact congrArg₂ (fun l (x : Nat) => l ++ [replyOf .flush tag .ok (n8 st.val ++ [2, 0] ++ n32 x)]) (congrArg Link.replies hf.1) he
  · obtain ⟨t, hex, hto, ht⟩ := exec_flush_sealing hacc hst h hb hw
    rw [decide_eq_true he] at ht
    obtain ⟨c, hr, hothers, hf⟩ := sealContinuing_numbered (capturingNow s) (s := waiting .flush tag p s) b he
    obtain ⟨l, hl, -⟩ := flushesJoin.sealContinuing (capturingNow s) st b (waiting .flush tag p s)
    generalize sealContinuing (capturingNow s) st b (waiting .flush tag p s) = v at *
    have hstreams : ∀ f, t.stream f = v.stream f := fun f => (ht.stream f).trans
      (congrArg (fun x => vget x f) (flushAfterSeal_frame ⟨tag, st, true⟩ v).2)
    obtain ⟨hend, hin, -, hstarved, hstate⟩ := sealedOn_fields r c
    have hin' : (v.stream st).inFlight = r.inFlight + 1 := (congrArg StreamRec.inFlight hr.eq).trans hin
    have hstarved' : (v.stream st).starved = c := (congrArg StreamRec.starved hr.eq).trans hstarved
    rw [flushAfterSeal_sealed tag st v (by rw [hin']; exact Nat.succ_ne_zero _), hstarved'] at ht
    refine ⟨t, hex, ?_⟩
    rw [hstreams]
    refine ⟨(congrArg StreamRec.endPage hr.eq).trans hend, hin', hto, hr.state.trans hstate, fun f hne => ?_, fun hc => ?_, fun hc => ?_⟩
    · rw [hstreams]
      exact hothers f hne
    · obtain rfl : c = false := hstarved'.symm.trans hc
      have hf := hf.resolve_left Bool.false_ne_true
      rw [if_neg Bool.false_ne_true] at ht
      exact ⟨(congrArg BufMgr.flushWaiters ht.bufs).trans (congrArg (· ++ _) hf.2), ht.replies.trans (congrArg Link.replies hf.1 :)⟩
    · obtain rfl : c = true := hstarved'.symm.trans hc
      rw [if_pos rfl] at ht
      refine ⟨l, ht.replies.trans ?_⟩
      exact congrArg (· ++ [replyOf .flush tag .noSpace (flushContents st true v)]) hl

end Sys2Proof.Machine
end

section
/-!
PROOFS. Good words at a lane (R52, R60 to R62, R73): one stream's turn in the fan-out set, and what the turns of the others leave of it.
-/
-- The theorems of this file are elaborated one after another: in parallel their waiting threads exceed the memory limit of the check.
set_option Elab.async false

namespace Sys2Proof.Machine

/-! ## What a word counts in a record -/

/-- Two records of one configuration and run, with the same words counted and skipped. -/
def sameWords (a b : StreamRec) : Prop :=
  b.runNumber = a.runNumber ∧ b.keptWords = a.keptWords ∧ b.skipCounter = a.skipCounter ∧ b.config = a.config

theorem sameWords.refl (a : StreamRec) : sameWords a a := ⟨rfl, rfl, rfl, rfl⟩

theorem sameWords.trans {a b c : StreamRec} (h1 : sameWords a b) (h2 : sameWords b c) : sameWords a c := by
  obtain ⟨r1, k1, c1, g1⟩ := h1
  obtain ⟨r2, k2, c2, g2⟩ := h2
  exact ⟨r2.trans r1, k2.trans k1, c2.trans c1, g2.trans g1⟩

theorem sameRun.words {a b : StreamRec} (h : sameRun a b) : sameWords a b := by
  rw [h.eq]
  exact ⟨rfl, rfl, rfl, rfl⟩

theorem restarts_congr {a b : StreamRec} (h : b.config = a.config) (cause : EndCause) : restarts cause b = restarts cause a := by
  unfold restarts
  rw [h]

theorem stateAfter_congr {a b : StreamRec} (h : b.config = a.config) (cause : EndCause) : stateAfter cause b = stateAfter cause a := by
  unfold stateAfter
  rw [h]

theorem countReached_iff {r : StreamRec} :
    countReached r = true ↔ ∃ c, r.config = some c ∧ c.mode = .count ∧ c.count = some r.keptWords := by
  unfold countReached
  cases r.config <;> simp

/-- The record of a stream that keeps a word (R60). -/
def StreamRec.keepsWord (r : StreamRec) : StreamRec := { r with keptWords := keptAfter r }

theorem countReached_keepsWord (r : StreamRec) : countReached r.keepsWord = true ↔ countEnds r := countReached_iff

theorem advanceSkip_eq (r : StreamRec) : r.advanceSkip = { r with skipCounter := skipAfter r } := rfl

theorem dropWord_eq (r : StreamRec) : r.dropWord = oneDropped r := rfl

/-! ## The turn of one stream -/

section

variable {barred : List StreamId} {st : StreamId} {w : Word} {s : State}

/-- A run end without a restart keeps the counts of its words. -/
theorem endRun_words {cause : EndCause} (h : restarts cause (s.stream st) = false) :
    sameWords (s.stream st) ((endRun barred st cause s).stream st) := by
  obtain ⟨r, hr, hcase⟩ := endRun_record barred st cause s
  have hre : restarts cause r = false := (restarts_congr hcase.keeps.1 cause).trans h
  rw [StreamRec.afterEnd, hre, if_neg Bool.false_ne_true] at hr
  refine sameWords.trans ?_ hr.words
  rcases hcase with ⟨-, c, rfl⟩ | ⟨-, rfl⟩ <;> exact ⟨rfl, rfl, rfl, rfl⟩

/-- A seal in a run that continues keeps the counts of its words. -/
theorem sealContinuing_words (b : BufId) : sameWords (s.stream st) ((sealContinuing barred st b s).stream st) := by
  by_cases h : (s.stream st).endPage < 0xFFFFFFFF
  · obtain ⟨c, hr, -⟩ := sealContinuing_numbered (st := st) barred b h
    refine sameWords.trans ?_ hr.words
    unfold StreamRec.sealedOn
    split <;> exact ⟨rfl, rfl, rfl, rfl⟩
  · obtain ⟨hr, -⟩ := sealContinuing_exhausted (barred := barred) (st := st) b (Nat.le_of_not_lt h)
    exact sameWords.trans ⟨rfl, rfl, rfl, rfl⟩ hr.words

/-- A kept word that is placed leaves the record, and one that is not is dropped (R61). -/
theorem placeWord_stream (st : StreamId) (w : Word) (s : State) :
    (placeWord st w s).stream st = s.stream st ∨ (placeWord st w s).stream st = (s.stream st).dropWord := by
  unfold placeWord
  split
  · exact .inl rfl
  · exact .inr (vget_vset_self ..)

theorem placeWord_words (st : StreamId) (w : Word) (s : State) : sameWords (s.stream st) ((placeWord st w s).stream st) := by
  rcases placeWord_stream st w s with h | h <;> rw [h] <;> exact ⟨rfl, rfl, rfl, rfl⟩

/-- The state in which a kept word has been counted and placed, before what it brings about (R60, R61). -/
def wordPlaced (st : StreamId) (w : Word) (s : State) : State := placeWord st w (s.setStream st (s.stream st).keepsWord)

theorem keepWord_eq (barred : List StreamId) (st : StreamId) (w : Word) (s : State) : keepWord barred st w s =
    if countReached ((wordPlaced st w s).stream st) = true then endRun barred st .count (wordPlaced st w s)
    else match fullFill (wordPlaced st w s) st with
      | some b => sealContinuing barred st b (wordPlaced st w s)
      | none => wordPlaced st w s := rfl

theorem wordPlaced_words (st : StreamId) (w : Word) (s : State) : sameWords (s.stream st).keepsWord ((wordPlaced st w s).stream st) := by
  have h := placeWord_words st w (s.setStream st (s.stream st).keepsWord)
  rw [State.setStream_stream] at h
  exact h

theorem wordPlaced_count (st : StreamId) (w : Word) (s : State) :
    countReached ((wordPlaced st w s).stream st) = true ↔ countEnds (s.stream st) := by
  obtain ⟨-, hk, -, hc⟩ := wordPlaced_words st w s
  rw [← countReached_keepsWord, countReached_iff, countReached_iff, hk, hc]

/-- A kept word short of the count, or one that ends its run without a restart, is counted once (R60, R62). -/
theorem keepWord_words (h : countEnds (s.stream st) → restarts .count (s.stream st) = false) :
    sameWords (s.stream st).keepsWord ((keepWord barred st w s).stream st) := by
  have hw := wordPlaced_words st w s
  rw [keepWord_eq]
  split
  · next hc =>
    refine hw.trans (endRun_words ?_)
    exact (restarts_congr hw.2.2.2 .count).trans (h ((wordPlaced_count st w s).mp hc))
  · split
    · exact hw.trans (sealContinuing_words _)
    · exact hw

/-- The word that reaches the count of a COUNT run ends it (R57, R62). -/
theorem keepWord_ends (h : countEnds (s.stream st)) : ((keepWord barred st w s).stream st).endCause = some .count ∧
    ((keepWord barred st w s).stream st).state =
      if restarts .count (s.stream st) then .capturing else stateAfter .count (s.stream st) := by
  obtain ⟨-, -, -, hw⟩ := wordPlaced_words st w s
  obtain ⟨r, hr, hcase⟩ := endRun_record barred st .count (wordPlaced st w s)
  have hc : r.config = (s.stream st).config := hcase.keeps.1.trans hw
  rw [keepWord_eq, if_pos ((wordPlaced_count st w s).mpr h), hr.eq]
  rw [← restarts_congr hc, ← stateAfter_congr hc]
  exact ⟨afterEnd_endCause r .count, afterEnd_state r .count⟩

theorem deliverWord_skips (h : (s.stream st).skipCounter ≠ 0) : deliverWord barred st w s = s.setStream st (s.stream st).advanceSkip := by
  unfold deliverWord
  exact if_neg h

theorem deliverWord_keeps (h : (s.stream st).skipCounter = 0) :
    deliverWord barred st w s = keepWord barred st w (s.setStream st (s.stream st).advanceSkip) := by
  unfold deliverWord
  exact if_pos h

/-! ## The turns of the fan-out set -/

/-- A stream that is neither CAPTURING nor starts with the word is left alone by its turn (R73). -/
theorem offerWord_idle (hc : (s.stream st).state ≠ .capturing) (hl : ¬(isLevelArmed (s.stream st) ∧ thresholdOf (s.stream st) ≤ w)) :
    offerWord barred w s st = s := by
  unfold offerWord
  dsimp only
  rw [if_neg hc, if_neg hl]

theorem offerWord_capturing (h : (s.stream st).state = .capturing) : offerWord barred w s st = deliverWord barred st w s := by
  unfold offerWord
  exact if_pos h

theorem offerWord_starts (hl : isLevelArmed (s.stream st) = true) (ht : thresholdOf (s.stream st) ≤ w) :
    offerWord barred w s st = deliverWord barred st w (startRun barred st s) := by
  have hc : (s.stream st).state ≠ .capturing := fun h => by
    simp [isLevelArmed, h] at hl
  unfold offerWord
  dsimp only
  rw [if_neg hc, if_pos ⟨hl, ht⟩]

end

/-- A fan-out set is in ascending number, so that each stream has one turn in it. -/
theorem fanOut_split {s : State} {l : LaneId} {f : StreamId} (h : f ∈ fanOut s l) :
    ∃ as bs, fanOut s l = as ++ f :: bs ∧ f ∉ as ∧ f ∉ bs := by
  obtain ⟨as, bs, e⟩ := List.append_of_mem h
  have hn : (as ++ f :: bs).Nodup := e ▸ (by decide : allStreams.Nodup).filter _
  obtain ⟨-, hfb, hd⟩ := List.nodup_append.mp hn
  exact ⟨as, bs, e, fun hf => hd f hf f List.mem_cons_self rfl, (List.nodup_cons.mp hfb).1⟩

/-- The turns of other streams (R73). -/
theorem others_turns (barred : List StreamId) (w : Word) {f : StreamId} {l : List StreamId} (h : f ∉ l) (s : State) :
    RunMove barred (fun g => g ≠ f) s (l.foldl (offerWord barred w) s) :=
  RunMove.foldl (fun r x hx => (RunMove.refl _ r).offerWord x w fun e => h (e ▸ hx)) (.refl _ s)

theorem mem_fanOut {s : State} {l : LaneId} {f : StreamId} : f ∈ fanOut s l ↔
    (s.stream f).config.map (·.lane) = some l ∧ ((s.stream f).state = .capturing ∨ isLevelArmed (s.stream f) = true) := by
  simp [fanOut, mem_allStreams, boundTo]

theorem mem_capturingNow {s : State} {f : StreamId} : f ∈ capturingNow s ↔ (s.stream f).state = .capturing := by
  simp [capturingNow, mem_allStreams]

theorem isLevelArmed_iff {r : StreamRec} : isLevelArmed r = true ↔ r.state = .armed ∧ r.config.map (·.start) = some .level := by
  simp [isLevelArmed, StreamRec.startSource]

theorem not_peerArmed_of_start {r : StreamRec} (h : r.config.map (·.start) ≠ some .peer) : isPeerArmed r = false := by
  simp [isPeerArmed, h]

/-- No stream of a fan-out set waits for its peer. -/
theorem fanOut_not_peerArmed {s : State} {l : LaneId} {f : StreamId} (h : f ∈ fanOut s l) : isPeerArmed (s.stream f) = false := by
  rcases (mem_fanOut.mp h).2 with hc | hl
  · simp [isPeerArmed, hc]
  · exact not_peerArmed_of_start (by rw [(isLevelArmed_iff.mp hl).2]; simp)

section

variable {barred : List StreamId} {w : Word} {s : State} {l : LaneId} {f : StreamId}

/-- The turn of one stream of the fan-out set: the turns before it leave the stream's run alone, and those after it leave it as its own turn
did, or start it as a PEER follower. -/
theorem fanOut_turn (h : f ∈ fanOut s l) : ∃ v, sameRun (s.stream f) (v.stream f) ∧ RunMove barred (fun g => g ≠ f) s v ∧
    RunMove barred (fun g => g ≠ f) (offerWord barred w v f) ((fanOut s l).foldl (offerWord barred w) s) := by
  obtain ⟨as, bs, e, ha, hb⟩ := fanOut_split h
  have h1 := others_turns barred w ha s
  refine ⟨as.foldl (offerWord barred w) s, ?_, h1, ?_⟩
  · rcases h1.others f (not_not.mpr rfl) with h' | ⟨hp, -⟩
    · exact h'
    · rw [fanOut_not_peerArmed h] at hp
      cases hp
  · rw [e, List.foldl_append, List.foldl_cons]
    exact others_turns barred w hb _

/-- The stream's run at the end of the fan-out, from its own turn: no PEER start reaches a stream that was CAPTURING, or whose start source is
another one (R83). -/
theorem fanOut_stream (h : f ∈ fanOut s l)
    (hk : ∀ v, sameRun (s.stream f) (v.stream f) → f ∈ barred ∨ isPeerArmed ((offerWord barred w v f).stream f) = false) :
    ∃ v, sameRun (s.stream f) (v.stream f) ∧
      sameRun ((offerWord barred w v f).stream f) (((fanOut s l).foldl (offerWord barred w) s).stream f) := by
  obtain ⟨v, hv, -, ht⟩ := fanOut_turn (barred := barred) (w := w) h
  refine ⟨v, hv, ?_⟩
  rcases ht.others f (not_not.mpr rfl) with h' | ⟨hp, hb, -⟩
  · exact h'
  · rcases hk v hv with h' | h'
    · exact absurd h' hb
    · rw [h'] at hp
      cases hp

/-- The word neither reaches the record's run nor starts it (R73). -/
def idleFor (w : Word) (r : StreamRec) : Prop := r.state ≠ .capturing ∧ ¬(isLevelArmed r ∧ thresholdOf r ≤ w)

theorem idleFor.congr {a b : StreamRec} (h : sameRun a b) (ha : idleFor w a) : idleFor w b := by
  obtain ⟨hc, hl⟩ := ha
  refine ⟨by rw [h.state]; exact hc, ?_⟩
  unfold isLevelArmed thresholdOf at *
  rw [h.state, h.startSource, h.config]
  exact hl

theorem idle_turns {bs : List StreamId} (h : ∀ g ∈ bs, idleFor w (s.stream g)) : bs.foldl (offerWord barred w) s = s := by
  induction bs with
  | nil => rfl
  | cons g bs ih =>
    obtain ⟨hc, hl⟩ := h g List.mem_cons_self
    rw [List.foldl_cons, offerWord_idle hc hl]
    exact ih fun x hx => h x (List.mem_cons_of_mem _ hx)

/-- With no other stream to take the word, the fan-out is the turn of the one (R73). -/
theorem fanOut_sole (h : f ∈ fanOut s l) (hi : ∀ g ∈ fanOut s l, g ≠ f → idleFor w (s.stream g)) :
    (fanOut s l).foldl (offerWord barred w) s = offerWord barred w s f := by
  obtain ⟨as, bs, e, ha, hb⟩ := fanOut_split h
  have hmem : ∀ g, g ∈ as ∨ g ∈ bs → g ∈ fanOut s l ∧ g ≠ f := fun g hg => by
    rw [e]
    rcases hg with hg | hg
    · exact ⟨List.mem_append_left _ hg, fun x => ha (x ▸ hg)⟩
    · exact ⟨List.mem_append_right _ (List.mem_cons_of_mem _ hg), fun x => hb (x ▸ hg)⟩
  have hm := (RunMove.refl (barred := barred) (fun g => g = f) s).offerWord f w rfl
  rw [e, List.foldl_append, List.foldl_cons, idle_turns fun g hg => hi g (hmem g (.inl hg)).1 (hmem g (.inl hg)).2]
  refine idle_turns fun g hg => ?_
  obtain ⟨hg, hne⟩ := hmem g (.inr hg)
  rcases hm.others g hne with h' | ⟨hp, -⟩
  · exact (hi g hg hne).congr h'
  · rw [fanOut_not_peerArmed hg] at hp
    cases hp

end

/-! ## The turns that matter -/

section

variable {barred : List StreamId} {w : Word} {s : State} {f : StreamId}

/-- The state in which the word has moved the skip counter (R60). -/
def skipMoved (f : StreamId) (s : State) : State := s.setStream f (s.stream f).advanceSkip

theorem skipMoved_stream (f : StreamId) (s : State) : (skipMoved f s).stream f = { s.stream f with skipCounter := skipAfter (s.stream f) } :=
  vget_vset_self ..

theorem countEnds_congr {a b : StreamRec} (hc : b.config = a.config) (hk : b.keptWords = a.keptWords) : countEnds b ↔ countEnds a := by
  unfold countEnds keptAfter
  rw [hc, hk]

theorem sameRun.skipMoved {r : StreamRec} (h : sameRun r (s.stream f)) :
    sameRun { r with skipCounter := skipAfter r } ((skipMoved f s).stream f) := by
  rw [skipMoved_stream, h.eq]
  rfl

/-- A stream that starts with the word keeps it as the first of its run (R60, R73). A LEVEL start is no IMMEDIATE one, so that a run of one word
does not restart (R57). -/
theorem offerWord_starts_words (hl : isLevelArmed (s.stream f) = true) (ht : thresholdOf (s.stream f) ≤ w) :
    ((offerWord barred w s f).stream f).runNumber = (s.stream f).runNumber + 1 ∧ ((offerWord barred w s f).stream f).keptWords = 1 ∧
      ((offerWord barred w s f).stream f).config = (s.stream f).config := by
  have hs := startRun_self barred f s
  have hskip : ((startRun barred f s).stream f).skipCounter = 0 := congrArg StreamRec.skipCounter hs.eq
  have hm : sameRun _ ((skipMoved f (startRun barred f s)).stream f) := hs.skipMoved
  rw [offerWord_starts hl ht, deliverWord_keeps hskip]
  have hre : restarts .count ((skipMoved f (startRun barred f s)).stream f) = false := by
    rw [restarts_congr (a := s.stream f) (hm.config.trans rfl)]
    simp [restarts, (isLevelArmed_iff.mp hl).2]
  obtain ⟨hr, hk, -, hc⟩ := keepWord_words (barred := barred) (w := w) fun _ => hre
  rw [hm.eq] at hr hk hc
  exact ⟨hr, hk, hc⟩

variable {l : LaneId}

/-- The turn of a stream that starts with the word decides its run (R73). -/
theorem fanOut_starts (h : f ∈ fanOut s l) (hl : isLevelArmed (s.stream f) = true) (ht : thresholdOf (s.stream f) ≤ w) :
    (((fanOut s l).foldl (offerWord barred w) s).stream f).runNumber = (s.stream f).runNumber + 1 ∧
      (((fanOut s l).foldl (offerWord barred w) s).stream f).keptWords = 1 := by
  have hturn : ∀ v : State, sameRun (s.stream f) (v.stream f) → ((offerWord barred w v f).stream f).runNumber = (v.stream f).runNumber + 1 ∧
      ((offerWord barred w v f).stream f).keptWords = 1 ∧ ((offerWord barred w v f).stream f).config = (v.stream f).config := fun v hv => by
    refine offerWord_starts_words ?_ ?_
    · rw [hv.eq]
      exact hl
    · rw [hv.eq]
      exact ht
  obtain ⟨v, hv, hy⟩ := fanOut_stream (barred := barred) (w := w) h fun v hv => .inr (not_peerArmed_of_start (by
    rw [(hturn v hv).2.2, hv.config, (isLevelArmed_iff.mp hl).2]
    simp))
  obtain ⟨hr, hk, -⟩ := hturn v hv
  obtain ⟨hr', hk', -⟩ := hy.words
  exact ⟨hr'.trans (hr.trans (by rw [hv.runNumber])), hk'.trans hk⟩

/-- The turn of a CAPTURING stream decides its run: a stream that was CAPTURING starts no second run in the happening (R83). -/
theorem fanOut_captures (h : f ∈ fanOut s l) (hc : (s.stream f).state = .capturing) : ∃ v, sameRun (s.stream f) (v.stream f) ∧
    sameRun ((deliverWord (capturingNow s) f w v).stream f) (((fanOut s l).foldl (offerWord (capturingNow s) w) s).stream f) := by
  obtain ⟨v, hv, hy⟩ := fanOut_stream (barred := capturingNow s) (w := w) h fun _ _ => .inl (mem_capturingNow.mpr hc)
  rw [offerWord_capturing (hv.state.trans hc)] at hy
  exact ⟨v, hv, hy⟩

/-- A word that the skip counter passes over moves the counter alone (R60). -/
theorem fanOut_skips (h : f ∈ fanOut s l) (hc : (s.stream f).state = .capturing) (hs : (s.stream f).skipCounter ≠ 0) :
    sameRun { s.stream f with skipCounter := skipAfter (s.stream f) }
      (((fanOut s l).foldl (offerWord (capturingNow s) w) s).stream f) := by
  obtain ⟨v, hv, hy⟩ := fanOut_captures (w := w) h hc
  have hs' : (v.stream f).skipCounter ≠ 0 := by
    rw [hv.eq]
    exact hs
  rw [deliverWord_skips hs'] at hy
  exact hv.skipMoved.trans hy

/-- The turn of a CAPTURING stream that keeps the word (R60, R61). -/
theorem fanOut_keeps (h : f ∈ fanOut s l) (hc : (s.stream f).state = .capturing) (hs : (s.stream f).skipCounter = 0) :
    ∃ v, sameRun { s.stream f with skipCounter := skipAfter (s.stream f) } (v.stream f) ∧
      sameRun ((keepWord (capturingNow s) f w v).stream f) (((fanOut s l).foldl (offerWord (capturingNow s) w) s).stream f) := by
  obtain ⟨v, hv, hy⟩ := fanOut_captures (w := w) h hc
  have hs' : (v.stream f).skipCounter = 0 := by
    rw [hv.eq]
    exact hs
  rw [deliverWord_keeps hs'] at hy
  exact ⟨skipMoved f v, hv.skipMoved, hy⟩

theorem fanOut_counts (h : f ∈ fanOut s l) (hc : (s.stream f).state = .capturing) (hs : (s.stream f).skipCounter = 0)
    (hn : ¬countEnds (s.stream f)) :
    let r := s.stream f
    let t := ((fanOut s l).foldl (offerWord (capturingNow s) w) s).stream f
    t.runNumber = r.runNumber ∧ t.keptWords = keptAfter r ∧ t.skipCounter = skipAfter r := by
  obtain ⟨v, hv, hy⟩ := fanOut_keeps (w := w) h hc hs
  have hn' : ¬countEnds (v.stream f) := by
    rw [hv.eq]
    exact hn
  obtain ⟨hr, hk, hsk, -⟩ := (keepWord_words (barred := capturingNow s) (w := w) fun he => absurd he hn').trans hy.words
  rw [hv.eq] at hr hk hsk
  exact ⟨hr, hk, hsk⟩

theorem fanOut_ends (h : f ∈ fanOut s l) (hc : (s.stream f).state = .capturing) (hs : (s.stream f).skipCounter = 0)
    (hn : countEnds (s.stream f)) :
    let r := s.stream f
    let t := ((fanOut s l).foldl (offerWord (capturingNow s) w) s).stream f
    t.endCause = some .count ∧ t.state = (if restarts .count r then .capturing else stateAfter .count r) := by
  obtain ⟨v, hv, hy⟩ := fanOut_keeps (w := w) h hc hs
  have hn' : countEnds (v.stream f) := by
    rw [hv.eq]
    exact hn
  obtain ⟨he, hst⟩ := keepWord_ends (barred := capturingNow s) (w := w) hn'
  rw [restarts_congr (a := s.stream f) (hv.config.trans rfl), stateAfter_congr (a := s.stream f) (hv.config.trans rfl)] at hst
  exact ⟨hy.stage.2.trans he, hy.state.trans hst⟩

/-- A stream that the word neither reaches nor starts is left alone, or starts as a PEER follower (R73, R83). -/
theorem fanOut_idle (h : f ∈ fanOut s l → idleFor w (s.stream f)) :
    let t := ((fanOut s l).foldl (offerWord barred w) s).stream f
    sameRun (s.stream f) t ∨ (isPeerArmed (s.stream f) = true ∧ sameRun (startedRun (s.stream f)) t) := by
  have hm : RunMove barred (fun g => g ≠ f) s ((fanOut s l).foldl (offerWord barred w) s) := by
    by_cases hf : f ∈ fanOut s l
    · obtain ⟨v, hv, h1, h2⟩ := fanOut_turn (barred := barred) (w := w) hf
      obtain ⟨hc, hl⟩ := (h hf).congr hv
      rw [offerWord_idle hc hl] at h2
      exact h1.trans h2
    · exact others_turns barred w hf s
  exact (hm.others f (not_not.mpr rfl)).imp id fun ⟨hp, _, hs⟩ => ⟨hp, hs⟩

end

/-! ## The word of a sole stream -/

section

variable {barred : List StreamId} {w : Word} {s : State} {f : StreamId}

theorem fullFill_none (h : s.fillBuf f = none) : fullFill s f = none := by
  unfold fullFill
  rw [h]

theorem fullFill_room {b : BufId} (h : s.fillBuf f = some b) (hl : (s.buf b).words.length < 256) : fullFill s f = none := by
  unfold fullFill
  rw [h]
  exact if_neg (Nat.not_le.mpr hl)

theorem fullFill_full {b : BufId} (h : s.fillBuf f = some b) (hl : 256 ≤ (s.buf b).words.length) : fullFill s f = some b := by
  unfold fullFill
  rw [h]
  exact if_pos hl

theorem keepWord_continues (hn : ¬countEnds (s.stream f)) : keepWord barred f w s =
    match fullFill (wordPlaced f w s) f with
    | some b => sealContinuing barred f b (wordPlaced f w s)
    | none => wordPlaced f w s := by
  rw [keepWord_eq, if_neg (mt (wordPlaced_count f w s).mp hn)]

theorem wordPlaced_dropped (h : s.fillBuf f = none) : wordPlaced f w s = s.setStream f (oneDropped (s.stream f).keepsWord) := by
  have hs : (s.setStream f (s.stream f).keepsWord).fillBuf f = none := h
  unfold wordPlaced placeWord
  rw [hs]
  dsimp only
  rw [State.setStream_stream]
  exact congrArg (fun v => ({ s with streams := v } : State)) (vset_vset ..)

theorem wordPlaced_filled {b : BufId} (h : s.fillBuf f = some b) :
    wordPlaced f w s = (s.setStream f (s.stream f).keepsWord).setBuf b ((s.buf b).place1 f w s.time) := by
  have hs : (s.setStream f (s.stream f).keepsWord).fillBuf f = some b := h
  unfold wordPlaced placeWord
  rw [hs]
  rfl

theorem place1_length (pb : PageBuf) (f : StreamId) (w : Word) (t : Time) : (pb.place1 f w t).words.length = pb.words.length + 1 := by
  unfold PageBuf.place1
  split
  · next h => rw [h]; rfl
  · exact List.length_append

/-- A word that finds no fill buffer is dropped (R61). -/
theorem keepWord_dropped (hn : ¬countEnds (s.stream f)) (h : s.fillBuf f = none) :
    keepWord barred f w s = s.setStream f (oneDropped (s.stream f).keepsWord) := by
  rw [keepWord_continues hn, wordPlaced_dropped h, fullFill_none (s := s.setStream f (oneDropped (s.stream f).keepsWord)) h]

/-- A word that leaves its fill buffer room stays in it (R61). -/
theorem keepWord_filled {b : BufId} (hn : ¬countEnds (s.stream f)) (h : s.fillBuf f = some b) (hl : (s.buf b).words.length < 255) :
    keepWord barred f w s = (s.setStream f (s.stream f).keepsWord).setBuf b ((s.buf b).place1 f w s.time) := by
  have hb : ((wordPlaced f w s).buf b).words.length < 256 := by
    rw [wordPlaced_filled h, State.setBuf_buf, place1_length]
    exact Nat.succ_lt_succ hl
  have hf : (wordPlaced f w s).fillBuf f = some b := by
    rw [wordPlaced_filled h]
    exact h
  rw [keepWord_continues hn, fullFill_room hf hb, wordPlaced_filled h]

/-- The 256th word of a fill buffer seals it (R61, R98). -/
theorem keepWord_full {b : BufId} (hn : ¬countEnds (s.stream f)) (h : s.fillBuf f = some b) (hl : (s.buf b).words.length = 255) :
    ∃ v, v.stream f = (s.stream f).keepsWord ∧ keepWord barred f w s = sealContinuing barred f b v := by
  have hb : 256 ≤ ((wordPlaced f w s).buf b).words.length := by
    rw [wordPlaced_filled h, State.setBuf_buf, place1_length, hl]
  have hf : (wordPlaced f w s).fillBuf f = some b := by
    rw [wordPlaced_filled h]
    exact h
  refine ⟨wordPlaced f w s, ?_, ?_⟩
  · rw [wordPlaced_filled h]
    exact vget_vset_self ..
  · rw [keepWord_continues hn, fullFill_full hf hb]

end

/-! ## The obligation -/

/-- The state with a good word counted at the lane (R72, R73). -/
def wordCounted (l : LaneId) (s : State) : State :=
  { s with lanes := vset s.lanes l { s.lane l with goodWords := (s.lane l).goodWords + 1, phase := .afterWord 0 } }

theorem goodWord_eq (l : LaneId) (w : Word) (s : State) : goodWord l w (s.setPhase l (.afterWord 0)) =
    (fanOut (wordCounted l s) l).foldl (offerWord (capturingNow s) w) (wordCounted l s) := by
  have h : (s.setPhase l (.afterWord 0)).setLane l
      { (s.setPhase l (.afterWord 0)).lane l with goodWords := ((s.setPhase l (.afterWord 0)).lane l).goodWords + 1 } = wordCounted l s := by
    have hl : (s.setPhase l (.afterWord 0)).lane l = { s.lane l with phase := .afterWord 0 } := vget_vset_self ..
    rw [hl]
    exact congrArg (fun v => ({ s with lanes := v } : State)) (vset_vset ..)
  unfold goodWord
  dsimp only
  rw [h]
  rfl

theorem exec_goodWord {l : LaneId} {w : Word} {s : State} (hr : s.running = true) : exec (.laneGoodWord l w) s =
    .next (settle s (if (s.lane l).listening = true then goodWord l w (s.setPhase l (.afterWord 0)) else s)) :=
  congrArg Host.Outcome.next (happening_running hr)

/-- Settles O41: every stream by its own turn, and the sole stream of a word by the room in its fill buffer. -/
theorem goodWordsReachTheirStreams : Obligations.GoodWordsReachTheirStreams := by
  intro l w s hr
  refine ⟨fun hl => ?_, fun hl => ?_⟩
  · rw [exec_goodWord hr, hl]
    rfl
  intro lane lanes captures starts
  have hex := exec_goodWord (l := l) (w := w) hr
  rw [if_pos hl, goodWord_eq] at hex
  have hmem : ∀ f, (captures (s.stream f) ∨ starts (s.stream f)) → f ∈ fanOut (wordCounted l s) l := fun f h => mem_fanOut.mpr (by
    rcases h with ⟨hb, hc⟩ | ⟨hb, ha, hs, -⟩
    · exact ⟨hb, .inl hc⟩
    · exact ⟨hb, .inr (isLevelArmed_iff.mpr ⟨ha, hs⟩)⟩)
  have hidle : ∀ f, f ∈ fanOut (wordCounted l s) l → ¬captures (s.stream f) → ¬starts (s.stream f) → idleFor w (s.stream f) :=
    fun f hf hc hs => by
      obtain ⟨hb, -⟩ := mem_fanOut.mp hf
      refine ⟨fun h => hc ⟨hb, h⟩, fun ⟨ha, ht⟩ => hs ?_⟩
      obtain ⟨ha, hlevel⟩ := isLevelArmed_iff.mp ha
      exact ⟨hb, ha, hlevel, ht⟩
  have hout : ((fanOut (wordCounted l s) l).foldl (offerWord (capturingNow s) w) (wordCounted l s)).outside = (wordCounted l s).outside :=
    (RunMove.foldl (P := fun _ => True) (fun r x _ => (RunMove.refl _ r).offerWord x w trivial) (.refl _ _)).outside
  have hst : Stands _ (settle s ((fanOut (wordCounted l s) l).foldl (offerWord (capturingNow s) w) (wordCounted l s))) :=
    settle_stands (.inr (congrArg (fun x => x.ctl.device) hout).symm)
  refine ⟨⟨_, hex, (settle_outside ..).trans hout, fun f => ?_⟩, fun f => ?_⟩
  · intro r
    rw [hst.stream]
    exact ⟨fun hc hs => fanOut_idle (s := wordCounted l s) fun hf => hidle f hf hc hs,
      fun hs => fanOut_starts (s := wordCounted l s) (hmem f (.inr hs)) (isLevelArmed_iff.mpr ⟨hs.2.1, hs.2.2.1⟩) hs.2.2.2,
      fun hc => fanOut_skips (s := wordCounted l s) (hmem f (.inl hc)) hc.2,
      fun hc => fanOut_counts (s := wordCounted l s) (hmem f (.inl hc)) hc.2,
      fun hc => fanOut_ends (s := wordCounted l s) (hmem f (.inl hc)) hc.2⟩
  · intro r kept hc hs hn hsole
    have hone := fanOut_sole (barred := capturingNow s) (w := w) (s := wordCounted l s) (hmem f (.inl hc)) fun g hg hne =>
      hidle g hg (hsole g hne).1 (hsole g hne).2
    have hkept : offerWord (capturingNow s) w (wordCounted l s) f = keepWord (capturingNow s) f w (skipMoved f (wordCounted l s)) :=
      (offerWord_capturing (s := wordCounted l s) hc.2).trans (deliverWord_keeps (s := wordCounted l s) hs)
    have hrec : ((skipMoved f (wordCounted l s)).stream f).keepsWord = kept := by
      rw [skipMoved_stream]
      rfl
    have hn' : ¬countEnds ((skipMoved f (wordCounted l s)).stream f) := by
      rw [skipMoved_stream]
      exact hn
    have hset : ∀ x, (skipMoved f (wordCounted l s)).setStream f x = { s with lanes := lanes, streams := vset s.streams f x } := fun x =>
      congrArg (fun v => ({ s with lanes := lanes, streams := v } : State)) (vset_vset ..)
    rw [hone, hkept] at hst hex
    refine ⟨fun hb => hex.trans ?_, fun b hb hroom => ?_, fun b hb hfull => ⟨_, hex, ?_⟩⟩
    · rw [keepWord_dropped hn' hb, hrec, hset]
    · intro pb pb'
      refine hex.trans ?_
      rw [keepWord_filled hn' hb hroom, hrec, hset]
      rfl
    · obtain ⟨v, hv, he⟩ := keepWord_full (barred := capturingNow s) (w := w) hn' hb hfull
      rw [hrec] at hv
      rw [hst.stream, he]
      refine ⟨fun hlt => ?_, fun hmax => ?_⟩
      · obtain ⟨c, hy, -⟩ := sealContinuing_numbered (capturingNow s) b (show (v.stream f).endPage < 0xFFFFFFFF by rw [hv]; exact hlt)
        rw [hv] at hy
        obtain ⟨h1, h2, h3, -, h5⟩ := sealedOn_fields kept c
        rw [show kept.state = .capturing from hc.2] at h5
        rw [hy.eq]
        exact ⟨h1, h2, h3, h5⟩
      · obtain ⟨hy, -⟩ := sealContinuing_exhausted (barred := capturingNow s) b (show 0xFFFFFFFF ≤ (v.stream f).endPage by
          rw [hv]
          exact Nat.le_of_eq hmax.symm)
        rw [hv] at hy
        rw [hy.eq]
        exact ⟨hmax, rfl, rfl, rfl⟩

end Sys2Proof.Machine
end

section
/-!
PROOFS. The buffers at the end of a run (R56, R93, R101, R104): what the close of a stream's fill buffer can do to the buffers of the others, to
the held pages and to the lists.
-/
-- The theorems of this file are elaborated one after another: in parallel their waiting threads exceed the memory limit of the check.
set_option Elab.async false

namespace Sys2Proof.Machine

/-! ## A freed buffer -/

/-- A freed buffer is emptied, and only the head of the wait list can take it (R93). -/
theorem freeBuffer_bufs (b : BufId) (s : State) :
    (∀ c, c ≠ b → (freeBuffer b s).buf c = s.buf c) ∧ ((freeBuffer b s).buf b).words = [] ∧
      (∀ g, (freeBuffer b s).fillBuf g = s.fillBuf g ∨ ((freeBuffer b s).fillBuf g = some b ∧ g ∈ s.bufs.waitList)) ∧
      (freeBuffer b s).bufs.waitList.Sublist s.bufs.waitList ∧ (freeBuffer b s).bufs.heldAtWorn = s.bufs.heldAtWorn := by
  unfold freeBuffer
  split
  · next f rest hw =>
    refine ⟨fun c hc => vget_vset_ne _ _ (Ne.symm hc), ?_, fun g => ?_, hw ▸ List.sublist_cons_self .., rfl⟩
    · exact congrArg PageBuf.words (vget_vset_self ..)
    · by_cases hg : g = f
      · subst hg
        exact .inr ⟨vget_vset_self .., hw ▸ List.mem_cons_self⟩
      · exact .inl (vget_vset_ne _ _ (Ne.symm hg))
  · exact ⟨fun c hc => vget_vset_ne _ _ (Ne.symm hc), congrArg PageBuf.words (vget_vset_self ..), fun _ => .inl rfl, .refl _, rfl⟩

/-! ## A placed page -/

/-- Wherever a sealed page goes, it moves its own buffer, and the held page and the place in the starved list of its own stream (R101, R104). -/
theorem placeSealed_bufs (st : StreamId) (b : BufId) (x : Nat) (s : State) :
    (∀ c, c ≠ b → (placeSealed st b x s).buf c = s.buf c) ∧ (placeSealed st b x s).bufs.waitList = s.bufs.waitList ∧
      (placeSealed st b x s).bufs.heldAtWorn = s.bufs.heldAtWorn ∧
      (∀ g, (placeSealed st b x s).heldBuf g = s.heldBuf g ∨ (g = st ∧ (placeSealed st b x s).heldBuf g = some b)) ∧
      ((placeSealed st b x s).bufs.starvedList = s.bufs.starvedList ∨
        (placeSealed st b x s).bufs.starvedList = s.bufs.starvedList ++ [st]) := by
  cases ha : acceptingUnit s st with
  | some u =>
    rw [placeSealed_accepted ha]
    exact ⟨fun c hc => vget_vset_ne _ _ (Ne.symm hc), rfl, rfl, fun _ => .inl rfl, .inl rfl⟩
  | none =>
    by_cases hn : s.map.freeList.length ≤ 24
    · obtain ⟨-, -, -, -, -, hb⟩ := completeFlushes_frame st .noSpace (pageHeld st b s)
      rw [placeSealed_starves ha hn, starve_eq]
      have hheld : ∀ g, (completeFlushes st .noSpace (pageHeld st b s)).heldBuf g = (pageHeld st b s).heldBuf g := fun g =>
        (congrArg (fun m : BufMgr => vget m.held g) hb :)
      refine ⟨fun c hc => (congrArg (fun m : BufMgr => vget m.bufs c) hb).trans (vget_vset_ne _ _ (Ne.symm hc)),
        (congrArg BufMgr.waitList hb :), (congrArg BufMgr.heldAtWorn hb :), fun g => ?_, .inr (congrArg BufMgr.starvedList hb :)⟩
      rw [hheld]
      by_cases hg : g = st
      · subst hg
        exact .inr ⟨rfl, vget_vset_self ..⟩
      · exact .inl (vget_vset_ne _ _ (Ne.symm hg))
    · obtain ⟨u, rest, hfree⟩ := List.exists_cons_of_ne_nil (l := s.map.freeList) fun h => hn (by rw [h]; exact Nat.zero_le _)
      obtain ⟨a, hta, ht⟩ := placeSealed_newUnit (b := b) (x := x) ha hfree (by rw [← hfree]; omega)
      have hbuf : ∀ c, a.buf c = s.buf c := fun c => congrArg (fun m : BufMgr => vget m.bufs c) hta.bufs
      have hheld : ∀ g, a.heldBuf g = s.heldBuf g := fun g => congrArg (fun m : BufMgr => vget m.held g) hta.bufs
      rw [ht]
      exact ⟨fun c hc => (vget_vset_ne _ _ (Ne.symm hc)).trans (hbuf c), (congrArg BufMgr.waitList hta.bufs :),
        (congrArg BufMgr.heldAtWorn hta.bufs :), fun g => .inl (hheld g), .inl (congrArg BufMgr.starvedList hta.bufs :)⟩

theorem acceptingUnit_accepts {s : State} {st : StreamId} {u : UnitId} (h : acceptingUnit s st = some u) : (s.unit u).accepts := by
  unfold acceptingUnit at h
  split at h
  · cases h
  · dsimp only at h
    split at h
    · next ha =>
      cases h
      exact ha
    · cases h

/-- With the free list at the reserve a page takes a slot of an accepting unit or none: no list and no chain of the map moves (R26, R34). -/
theorem placeSealed_reserve {s : State} (h : s.map.freeList.length ≤ 24) (st : StreamId) (b : BufId) (x : Nat) :
    (placeSealed st b x s).map.freeList = s.map.freeList ∧ (∀ g, (placeSealed st b x s).chain g = s.chain g) ∧
      ∀ u, ¬(s.unit u).accepts → (placeSealed st b x s).unit u = s.unit u := by
  cases ha : acceptingUnit s st with
  | some v =>
    rw [placeSealed_accepted ha]
    exact ⟨rfl, fun _ => rfl, fun u hu => State.setUnit_unit_ne _ _ _ _ fun e => hu (e ▸ acceptingUnit_accepts ha)⟩
  | none =>
    obtain ⟨hm, -⟩ := starve_facts st b s
    rw [placeSealed_starves ha h]
    exact ⟨congrArg UnitMap.freeList hm, fun g => congrArg (fun m : UnitMap => vget m.chains g) hm,
      fun u _ => congrArg (fun m : UnitMap => vget m.units u) hm⟩

/-! ## The end of one run -/

/-- What the end of a run of `st` can do to the buffers: it moves its fill buffer, which a stream on the wait list may take, and it may hold the
page that it seals in it (R56, R93, R104). -/
structure EndsRun (st : StreamId) (s t : State) : Prop where
  bufs : ∀ c, s.fillBuf st ≠ some c → t.buf c = s.buf c
  emptied : ∀ c, (s.buf c).words = [] → (t.buf c).words = []
  fill : t.fillBuf st = none ∨ (t.fillBuf st = s.fillBuf st ∧ st ∈ s.bufs.waitList)
  fills : ∀ g, g ≠ st → t.fillBuf g = s.fillBuf g ∨ (t.fillBuf g = s.fillBuf st ∧ g ∈ s.bufs.waitList)
  granted : ∀ g c, t.fillBuf g = some c → s.fillBuf g = some c ∨ (t.buf c).words = []
  held : ∀ g, t.heldBuf g = s.heldBuf g ∨ (g = st ∧ t.heldBuf g = s.fillBuf st ∧ sealsPartial s st)
  starved : ∀ g, g ∈ s.bufs.starvedList → g ∈ t.bufs.starvedList
  starving : ∀ g, g ∈ t.bufs.starvedList → g ∈ s.bufs.starvedList ∨ g = st
  waits : ∀ g, g ∈ t.bufs.waitList → g ∈ s.bufs.waitList
  noted : t.bufs.heldAtWorn = s.bufs.heldAtWorn
  reserve : s.map.freeList.length ≤ 24 → t.map.freeList = s.map.freeList ∧ (∀ g, t.chain g = s.chain g) ∧
    ∀ u, ¬(s.unit u).accepts → t.unit u = s.unit u

section

variable {st : StreamId} {s : State}

/-- An operation that leaves the buffers and the map alone. -/
theorem EndsRun.ofSame {t : State} (hb : t.bufs = s.bufs) (hm : t.map = s.map) (hf : s.fillBuf st = none) : EndsRun st s t := by
  have hfill : ∀ g, t.fillBuf g = s.fillBuf g := fun g => congrArg (fun m : BufMgr => vget m.fill g) hb
  have hbuf : ∀ c, t.buf c = s.buf c := fun c => congrArg (fun m : BufMgr => vget m.bufs c) hb
  exact
    { bufs := fun c _ => hbuf c
      emptied := fun c h => (congrArg PageBuf.words (hbuf c)).trans h
      fill := .inl ((hfill st).trans hf)
      fills := fun g _ => .inl (hfill g)
      granted := fun g c h => .inl ((hfill g).symm.trans h)
      held := fun g => .inl (congrArg (fun m : BufMgr => vget m.held g) hb)
      starved := fun g h => by rw [hb]; exact h
      starving := fun g h => .inl (by rw [← hb]; exact h)
      waits := fun g h => by rw [← hb]; exact h
      noted := congrArg BufMgr.heldAtWorn hb
      reserve := fun _ => by
        rw [hm]
        exact ⟨rfl, fun g => congrArg (fun m : UnitMap => vget m.chains g) hm, fun u _ => congrArg (fun m : UnitMap => vget m.units u) hm⟩ }

/-- A fill buffer that is freed (R56, R93). -/
theorem EndsRun.freed {b : BufId} (hf : s.fillBuf st = some b) : EndsRun st s (freeBuffer b (s.setFill st none)) := by
  obtain ⟨hm, -, -, -, -, hh, -⟩ := freeBuffer_frame b (s.setFill st none)
  obtain ⟨hb, hw, hfill, hwait, hn⟩ := freeBuffer_bufs b (s.setFill st none)
  have hsl := freeBuffer_starvedList b (s.setFill st none)
  have hself : (s.setFill st none).fillBuf st = none := vget_vset_self ..
  have hother : ∀ g, g ≠ st → (s.setFill st none).fillBuf g = s.fillBuf g := fun g hg => vget_vset_ne _ _ (Ne.symm hg)
  exact
    { bufs := fun c hc => hb c fun e => hc (e ▸ hf)
      emptied := fun c h => by
        by_cases e : c = b
        · rw [e]
          exact hw
        · rw [hb c e]
          exact h
      fill := (hfill st).imp (fun h => h.trans hself) fun h => ⟨h.1.trans hf.symm, h.2⟩
      fills := fun g hg => (hfill g).imp (fun h => h.trans (hother g hg)) fun h => ⟨h.1.trans hf.symm, h.2⟩
      granted := fun g c h => by
        rcases hfill g with h' | ⟨h', -⟩
        · by_cases hg : g = st
          · rw [hg] at h h'
            exact nomatch (h.symm.trans h').trans hself
          · exact .inl ((hother g hg).symm.trans (h'.symm.trans h))
        · obtain rfl : c = b := Option.some.inj (h.symm.trans h')
          exact .inr hw
      held := fun g => .inl (congrArg (fun v => vget v g) hh)
      starved := fun g h => by rw [hsl]; exact h
      starving := fun g h => .inl (by rw [hsl] at h; exact h)
      waits := fun g h => hwait.subset h
      noted := hn
      reserve := fun _ => by
        rw [hm]
        exact ⟨rfl, fun g => congrArg (fun m : UnitMap => vget m.chains g) hm, fun u _ => congrArg (fun m : UnitMap => vget m.units u) hm⟩ }

/-- A fill buffer that is sealed (R56, R99 to R101). -/
theorem EndsRun.sealed {b : BufId} (hf : s.fillBuf st = some b) (hw : (s.buf b).words ≠ []) (he : (s.stream st).endPage < 0xFFFFFFFF) :
    EndsRun st s (sealFill st b s) := by
  rw [sealFill_numbered b he]
  obtain ⟨hb, hwait, hn, hh, hsl⟩ := placeSealed_bufs st b (s.stream st).endPage (pageSealed st b s)
  obtain ⟨-, hfill, -⟩ := placeSealed_facts st b (s.stream st).endPage (pageSealed st b s)
  have hbuf : ∀ c, c ≠ b → (placeSealed st b (s.stream st).endPage (pageSealed st b s)).buf c = s.buf c := fun c hc =>
    (hb c hc).trans (vget_vset_ne _ _ (Ne.symm hc))
  have hself : (placeSealed st b (s.stream st).endPage (pageSealed st b s)).fillBuf st = none :=
    (congrArg (fun v => vget v st) hfill).trans (vget_vset_self ..)
  have hother : ∀ g, g ≠ st → (placeSealed st b (s.stream st).endPage (pageSealed st b s)).fillBuf g = s.fillBuf g := fun g hg =>
    (congrArg (fun v => vget v g) hfill).trans (vget_vset_ne _ _ (Ne.symm hg))
  exact
    { bufs := fun c hc => hbuf c fun e => hc (e ▸ hf)
      emptied := fun c h => by
        have e : c ≠ b := fun e => hw (e ▸ h)
        rw [hbuf c e]
        exact h
      fill := .inl hself
      fills := fun g hg => .inl (hother g hg)
      granted := fun g c h => by
        by_cases hg : g = st
        · rw [hg] at h
          exact nomatch h.symm.trans hself
        · exact .inl ((hother g hg).symm.trans h)
      held := fun g => (hh g).imp id fun h => ⟨h.1, h.2.trans hf.symm, b, hf, hw, he⟩
      starved := fun g h => by
        rcases hsl with e | e <;> rw [e]
        · exact h
        · exact List.mem_append_left _ h
      starving := fun g h => by
        rcases hsl with e | e <;> rw [e] at h
        · exact .inl h
        · exact (List.mem_append.mp h).imp id List.mem_singleton.mp
      waits := fun g h => by rw [hwait] at h; exact h
      noted := hn
      reserve := fun h => placeSealed_reserve (s := pageSealed st b s) h st b _ }

theorem closeFill_endsRun (st : StreamId) (s : State) : EndsRun st s (closeFill st s) := by
  by_cases h : sealsPartial s st
  · obtain ⟨b, hf, hw, he⟩ := h
    rw [closeFill_sealed hf hw]
    exact .sealed hf hw he
  · rcases closeFill_frees h with ⟨hf, e⟩ | ⟨b, hf, e⟩ <;> rw [e]
    · exact .ofSame rfl rfl hf
    · exact .freed hf

theorem EndsRun.leaveRun {t : State} (h : EndsRun st s t) (cause : EndCause) : EndsRun st s (leaveRun st cause t) :=
  { bufs := h.bufs, emptied := h.emptied, fill := h.fill, fills := h.fills, granted := h.granted, held := h.held, starved := h.starved,
    starving := h.starving, waits := fun g hg => h.waits g (List.mem_filter.mp hg).1, noted := h.noted, reserve := h.reserve }

theorem EndsRun.ofRecordCause {t : State} {cause : EndCause} (h : EndsRun st (recordCause st cause s) t) : EndsRun st s t :=
  { bufs := h.bufs, emptied := h.emptied, fill := h.fill, fills := h.fills, granted := h.granted
    held := fun g => (h.held g).imp id fun x => ⟨x.1, x.2.1, (recordCause_sealsPartial st cause s).mp x.2.2⟩
    starved := h.starved, starving := h.starving, waits := h.waits, noted := h.noted, reserve := h.reserve }

/-- The end of a run that starts no other (R56). -/
theorem runEnded_endsRun (st : StreamId) (cause : EndCause) (s : State) : EndsRun st s (runEnded st cause s) :=
  ((closeFill_endsRun st (recordCause st cause s)).leaveRun cause).ofRecordCause

end

end Sys2Proof.Machine
end

section
/-!
PROOFS. The end of every run (R58, R107, R135, R182): each stream's turn, the pages held through the turns and the page that a turn seals and
cannot place.
-/
-- The theorems of this file are elaborated one after another: in parallel their waiting threads exceed the memory limit of the check.
set_option Elab.async false

namespace Sys2Proof.Machine

/-! ## The turns -/

/-- A run end with the cause leaves its stream BOUND whatever its rearm flag (R57). -/
def endsForGood (cause : EndCause) : Prop := ∀ r, restarts cause r = false ∧ stateAfter cause r = .bound

theorem worn_endsForGood : endsForGood .worn := fun _ => ⟨rfl, rfl⟩
theorem shutdown_endsForGood : endsForGood .shutdown := fun _ => ⟨rfl, rfl⟩

/-- One stream's turn in the end of all runs. -/
def endTurn (cause : EndCause) (s : State) (st : StreamId) : State := if (s.stream st).state = .capturing then runEnded st cause s else s

/-- The turns of every stream, in ascending number (R58). -/
def endTurns (cause : EndCause) (s : State) : State := allStreams.foldl (endTurn cause) s

/-- Every ARMED stream becomes BOUND (R58). -/
def disarmAll (s : State) : State := allStreams.foldl disarm s

section

variable {cause : EndCause} {s : State}

theorem endAllRuns_eq (h : endsForGood cause) (s : State) : endAllRuns cause s = disarmAll (endTurns cause s) := by
  have ht : (fun t st => if (t.stream st).state = .capturing then endRun (capturingNow s) st cause t else t) = endTurn cause := by
    funext t st
    exact ite_congr rfl (fun _ => endRun_stays (h _).1) fun _ => rfl
  unfold endAllRuns
  rw [ht]
  rfl

theorem allStreams_split (f : StreamId) : ∃ as bs, allStreams = as ++ f :: bs ∧ f ∉ as ∧ f ∉ bs := by
  obtain ⟨as, bs, e⟩ := List.append_of_mem (mem_allStreams f)
  have hn : (as ++ f :: bs).Nodup := e ▸ (by decide : allStreams.Nodup)
  obtain ⟨-, hfb, hd⟩ := List.nodup_append.mp hn
  exact ⟨as, bs, e, fun hf => hd f hf f List.mem_cons_self rfl, (List.nodup_cons.mp hfb).1⟩

theorem endTurn_capturing {st : StreamId} (h : (s.stream st).state = .capturing) : endTurn cause s st = runEnded st cause s := if_pos h
theorem endTurn_idle {st : StreamId} (h : (s.stream st).state ≠ .capturing) : endTurn cause s st = s := if_neg h

/-- The turns of other streams leave a stream's run alone. -/
theorem endTurns_others {f : StreamId} {l : List StreamId} (h : f ∉ l) (s : State) :
    sameRun (s.stream f) ((l.foldl (endTurn cause) s).stream f) := by
  have hr : RunStep (fun g => g ≠ f) s (l.foldl (endTurn cause) s) := by
    refine RunStep.foldl (fun r x hx => .ite (fun _ => ?_) fun _ => .refl _ r) (.refl _ s)
    exact (runEnded_step x cause r).mono fun g hg e => h (e ▸ hg ▸ hx)
  exact hr.others f (not_not.mpr rfl)

/-- A stream's run after every turn is as its own turn left it. -/
theorem endTurns_own (f : StreamId) (s : State) : ∃ v, sameRun (s.stream f) (v.stream f) ∧
    sameRun ((endTurn cause v f).stream f) ((endTurns cause s).stream f) := by
  obtain ⟨as, bs, e, ha, hb⟩ := allStreams_split f
  refine ⟨as.foldl (endTurn cause) s, endTurns_others ha s, ?_⟩
  unfold endTurns
  rw [e, List.foldl_append, List.foldl_cons]
  exact endTurns_others hb _

/-! ## The disarming -/

/-- The record of a stream that is disarmed when it is ARMED (R58). -/
def StreamRec.disarm (r : StreamRec) : StreamRec := if r.state = .armed then { r with state := .bound } else r

theorem StreamRec.disarm_disarm (r : StreamRec) : r.disarm.disarm = r.disarm := by
  unfold StreamRec.disarm
  by_cases h : r.state = .armed <;> simp [h]

theorem disarm_stream (s : State) (st f : StreamId) : (disarm s st).stream f = if st = f then (s.stream f).disarm else s.stream f := by
  unfold disarm StreamRec.disarm
  by_cases e : st = f
  · subst e
    rw [if_pos rfl]
    split
    · exact vget_vset_self ..
    · rfl
  · rw [if_neg e]
    split
    · exact vget_vset_ne _ _ e
    · rfl

theorem disarm_frame (s : State) (st : StreamId) :
    (disarm s st).bufs = s.bufs ∧ (disarm s st).link = s.link ∧ (disarm s st).notices = s.notices := by
  unfold disarm
  split <;> exact ⟨rfl, rfl, rfl⟩

theorem disarms_stream (f : StreamId) (l : List StreamId) : ∀ s : State,
    (l.foldl disarm s).stream f = if f ∈ l then (s.stream f).disarm else s.stream f := by
  induction l with
  | nil => exact fun s => rfl
  | cons x l ih =>
    intro s
    rw [List.foldl_cons, ih, disarm_stream]
    by_cases e : x = f
    · subst e
      simp [StreamRec.disarm_disarm]
    · simp [e, Ne.symm e]

theorem disarmAll_stream (f : StreamId) (s : State) : (disarmAll s).stream f = (s.stream f).disarm :=
  (disarms_stream f allStreams s).trans (if_pos (mem_allStreams f))

theorem disarms_frame (l : List StreamId) : ∀ s : State,
    (l.foldl disarm s).bufs = s.bufs ∧ (l.foldl disarm s).link = s.link ∧ (l.foldl disarm s).notices = s.notices := by
  induction l with
  | nil => exact fun s => ⟨rfl, rfl, rfl⟩
  | cons x l ih =>
    intro s
    obtain ⟨hb, hl, hn⟩ := disarm_frame s x
    obtain ⟨hb', hl', hn'⟩ := ih (disarm s x)
    exact ⟨hb'.trans hb, hl'.trans hl, hn'.trans hn⟩

theorem disarmAll_frame (s : State) :
    (disarmAll s).bufs = s.bufs ∧ (disarmAll s).link = s.link ∧ (disarmAll s).notices = s.notices := disarms_frame allStreams s

/-! ## The stage of each stream -/

/-- After the end of all runs a CAPTURING stream is BOUND with the cause, an ARMED one BOUND, and every other as it was (R58). -/
def allEnded (cause : EndCause) (a b : StreamRec) : Prop :=
  (a.state = .capturing → b.state = .bound ∧ b.endCause = some cause) ∧
  (a.state = .armed → b.state = .bound ∧ b.endCause = a.endCause) ∧
  (a.state ≠ .capturing → a.state ≠ .armed → b.state = a.state ∧ b.endCause = a.endCause)

theorem allEnded.stage {a b c : StreamRec} (h : allEnded cause a b) (hs : sameStage b c) : allEnded cause a c := by
  obtain ⟨h1, h2, h3⟩ := h
  obtain ⟨hst, hc⟩ := hs
  unfold allEnded
  rw [hst, hc]
  exact ⟨h1, h2, h3⟩

theorem endAllRuns_stage (h : endsForGood cause) (s : State) (f : StreamId) :
    allEnded cause (s.stream f) ((endAllRuns cause s).stream f) := by
  obtain ⟨v, hv, ht⟩ := endTurns_own (cause := cause) f s
  rw [endAllRuns_eq h, disarmAll_stream]
  generalize endTurns cause s = u at ht ⊢
  by_cases hc : (s.stream f).state = .capturing
  · rw [endTurn_capturing (hv.state.trans hc)] at ht
    obtain ⟨r, hr, -⟩ := runEnded_record f cause v
    rw [hr] at ht
    obtain ⟨hs, he⟩ := ht.stage
    have hb : (u.stream f).state = .bound := hs.trans (h r).2
    have hd : (u.stream f).disarm = u.stream f := if_neg (by rw [hb]; exact nofun)
    rw [hd]
    exact ⟨fun _ => ⟨hb, he⟩, fun ha => absurd (hc.symm.trans ha) nofun, fun hn => absurd hc hn⟩
  · rw [endTurn_idle (by rw [hv.state]; exact hc)] at ht
    obtain ⟨hs, he⟩ := (hv.trans ht).stage
    refine ⟨fun hc' => absurd hc' hc, fun ha => ?_, fun _ ha => ?_⟩
    · rw [StreamRec.disarm, if_pos (hs.trans ha)]
      exact ⟨rfl, he⟩
    · rw [StreamRec.disarm, if_neg (by rw [hs]; exact ha)]
      exact ⟨hs, he⟩

/-! ## The lists -/

/-- After the turns only a stream that was not CAPTURING can still wait for a buffer (R56, R93). -/
theorem endTurns_waits {f : StreamId} (hf : f ∈ (endTurns cause s).bufs.waitList) :
    f ∈ s.bufs.waitList ∧ (s.stream f).state ≠ .capturing := by
  have hsub : ∀ (l : List StreamId) (t : State), f ∈ (l.foldl (endTurn cause) t).bufs.waitList → f ∈ t.bufs.waitList := by
    intro l
    induction l with
    | nil => exact fun _ h => h
    | cons x l ih =>
      intro t h
      have hx := ih _ h
      unfold endTurn at hx
      split at hx
      · exact (runEnded_endsRun x cause t).waits f hx
      · exact hx
  unfold endTurns at hf
  refine ⟨hsub allStreams s hf, fun hc => ?_⟩
  obtain ⟨as, bs, e, ha, -⟩ := allStreams_split f
  rw [e, List.foldl_append, List.foldl_cons] at hf
  have hown := hsub bs _ hf
  rw [endTurn_capturing ((endTurns_others ha s).state.trans hc)] at hown
  exact runEnded_waitList f cause _ hown

/-- The turns keep the starved list, and add CAPTURING streams alone (R101, R104). -/
theorem endTurns_starving {f : StreamId} (hf : f ∈ (endTurns cause s).bufs.starvedList) :
    f ∈ s.bufs.starvedList ∨ (s.stream f).state = .capturing := by
  by_cases hc : (s.stream f).state = .capturing
  · exact .inr hc
  refine .inl ?_
  have hsub : ∀ (l : List StreamId) (t : State), (t.stream f).state ≠ .capturing → f ∈ (l.foldl (endTurn cause) t).bufs.starvedList →
      f ∈ t.bufs.starvedList := by
    intro l
    induction l with
    | nil => exact fun _ _ h => h
    | cons x l ih =>
      intro t ht h
      by_cases hx : (t.stream x).state = .capturing
      · have hne : f ≠ x := fun e => ht (e ▸ hx)
        rw [List.foldl_cons, endTurn_capturing hx] at h
        have hs : ((runEnded x cause t).stream f).state ≠ .capturing := by
          rw [((runEnded_step x cause t).others f hne).state]
          exact ht
        exact ((runEnded_endsRun x cause t).starving f (ih _ hs h)).resolve_right hne
      · rw [List.foldl_cons, endTurn_idle hx] at h
        exact ih t ht h
  unfold endTurns at hf
  exact hsub allStreams s hc hf

theorem endTurns_noted (cause : EndCause) (s : State) : (endTurns cause s).bufs.heldAtWorn = s.bufs.heldAtWorn := by
  have h : ∀ (l : List StreamId) (t : State), (l.foldl (endTurn cause) t).bufs.heldAtWorn = t.bufs.heldAtWorn := by
    intro l
    induction l with
    | nil => exact fun _ => rfl
    | cons x l ih =>
      intro t
      rw [List.foldl_cons, ih]
      unfold endTurn
      split
      · exact (runEnded_endsRun x cause t).noted
      · rfl
  unfold endTurns
  exact h allStreams s

end

end Sys2Proof.Machine
end

section
/-!
PROOFS. The held pages through the end of every run (R91, R101, R104, R107): the page that a STARVED stream holds, the page that a run end seals
and cannot place, and the discard of each.
-/
-- The theorems of this file are elaborated one after another: in parallel their waiting threads exceed the memory limit of the check.
set_option Elab.async false

namespace Sys2Proof.Machine

/-! ## A page held through the turns -/

/-- The stream `f` holds the sealed page `i` in the buffer `b`, with `n` pages in flight and `k` pages lost; no other stream holds or fills that
buffer, and the stream's own fill buffer, when it has one, is empty. -/
structure HoldsPage (f : StreamId) (b : BufId) (i : SealInfo) (n k : Nat) (s : State) : Prop where
  listed : f ∈ s.bufs.starvedList
  held : s.heldBuf f = some b
  sealed : (s.buf b).sealed = some i
  fills : ∀ g, s.fillBuf g ≠ some b
  others : ∀ g, g ≠ f → s.heldBuf g ≠ some b
  fillEmpty : ∀ c, s.fillBuf f = some c → (s.buf c).words = []
  inFlight : (s.stream f).inFlight = n
  lostTotal : (s.stream f).lostTotal = k

theorem holdsPage_of_holdsAlone {f : StreamId} {b : BufId} {i : SealInfo} {s : State} (h : holdsAlone f b i s) :
    HoldsPage f b i (s.stream f).inFlight (s.stream f).lostTotal s := by
  obtain ⟨hl, hh, hs, hf, hfills, hothers⟩ := h
  exact ⟨hl, hh, hs, hfills, hothers, fun c hc => absurd (hf.symm.trans hc) nofun, rfl, rfl⟩

section

variable {f : StreamId} {b : BufId} {i : SealInfo} {n k : Nat} {s : State} {cause : EndCause}

theorem HoldsPage.not_seals (h : HoldsPage f b i n k s) : ¬sealsPartial s f := fun ⟨c, hc, hw, _⟩ => hw (h.fillEmpty c hc)

theorem HoldsPage.endsRun {t : State} {st : StreamId} (h : HoldsPage f b i n k s) (ht : EndsRun st s t)
    (hr : (t.stream f).inFlight = n ∧ (t.stream f).lostTotal = k) : HoldsPage f b i n k t where
  listed := ht.starved f h.listed
  held := by
    rcases ht.held f with e | ⟨e, -, hs⟩
    · exact e.trans h.held
    · exact absurd (e ▸ hs) h.not_seals
  sealed := by
    rw [ht.bufs b (h.fills st)]
    exact h.sealed
  fills := fun g hg => by
    rcases ht.granted g b hg with e | e
    · exact h.fills g e
    · by_cases hgs : g = st
      · rcases ht.fill with e' | ⟨e', -⟩
        · exact nomatch (hgs ▸ hg).symm.trans e'
        · exact h.fills st (e'.symm.trans (hgs ▸ hg))
      · rcases ht.fills g hgs with e' | ⟨e', -⟩
        · exact h.fills g (e'.symm.trans hg)
        · exact h.fills st (e'.symm.trans hg)
  others := fun g hg hgb => by
    rcases ht.held g with e | ⟨-, e, -⟩
    · exact h.others g hg (e.symm.trans hgb)
    · exact h.fills st (e.symm.trans hgb)
  fillEmpty := fun c hc => by
    rcases ht.granted f c hc with e | e
    · exact ht.emptied c (h.fillEmpty c e)
    · exact e
  inFlight := hr.1
  lostTotal := hr.2

/-- A turn leaves a held page where it is (R56). -/
theorem HoldsPage.endTurn (h : HoldsPage f b i n k s) (st : StreamId) : HoldsPage f b i n k (endTurn cause s st) := by
  unfold Machine.endTurn
  split
  · refine h.endsRun (runEnded_endsRun st cause s) ?_
    by_cases e : f = st
    · subst e
      obtain ⟨r, hr, hcase⟩ := runEnded_record f cause s
      obtain rfl := hcase.plain h.not_seals
      rw [hr]
      exact ⟨h.inFlight, h.lostTotal⟩
    · rw [((runEnded_step st cause s).others f e).eq]
      exact ⟨h.inFlight, h.lostTotal⟩
  · exact h

theorem HoldsPage.endTurns (l : List StreamId) (h : HoldsPage f b i n k s) : HoldsPage f b i n k (l.foldl (Machine.endTurn cause) s) := by
  induction l generalizing s with
  | nil => exact h
  | cons x l ih => exact ih (h.endTurn x)

/-- An operation that leaves the buffers alone, and of the stream's record the pages in flight and the lost pages. -/
theorem HoldsPage.ofBufs {t : State} (h : HoldsPage f b i n k s) (hb : t.bufs = s.bufs)
    (hr : (t.stream f).inFlight = n ∧ (t.stream f).lostTotal = k) : HoldsPage f b i n k t := by
  have hfill : ∀ g, t.fillBuf g = s.fillBuf g := fun g => congrArg (fun m : BufMgr => vget m.fill g) hb
  have hheld : ∀ g, t.heldBuf g = s.heldBuf g := fun g => congrArg (fun m : BufMgr => vget m.held g) hb
  have hbuf : ∀ c, t.buf c = s.buf c := fun c => congrArg (fun m : BufMgr => vget m.bufs c) hb
  exact ⟨by rw [hb]; exact h.listed, (hheld f).trans h.held, by rw [hbuf]; exact h.sealed, fun g => by rw [hfill]; exact h.fills g,
    fun g hg => by rw [hheld]; exact h.others g hg, fun c hc => by rw [hbuf]; exact h.fillEmpty c ((hfill f).symm.trans hc), hr.1, hr.2⟩

theorem StreamRec.disarm_counts (r : StreamRec) : r.disarm.inFlight = r.inFlight ∧ r.disarm.lostTotal = r.lostTotal := by
  unfold StreamRec.disarm
  split <;> exact ⟨rfl, rfl⟩

theorem HoldsPage.disarmAll (h : HoldsPage f b i n k s) : HoldsPage f b i n k (disarmAll s) := by
  obtain ⟨hi, hl⟩ := StreamRec.disarm_counts (s.stream f)
  refine h.ofBufs (disarmAll_frame s).1 ?_
  rw [disarmAll_stream]
  exact ⟨hi.trans h.inFlight, hl.trans h.lostTotal⟩

/-! ## A page that its run's end seals and cannot place -/

/-- The turn of `f` is still to come, and it will seal the words in `b` into a page with no place for it. -/
structure WillHold (f : StreamId) (b : BufId) (r : StreamRec) (s : State) : Prop where
  run : sameRun r (s.stream f)
  fill : s.fillBuf f = some b
  words : (s.buf b).words ≠ []
  notWaiting : f ∉ s.bufs.waitList
  fills : ∀ g, g ≠ f → s.fillBuf g ≠ some b
  held : ∀ g, g ≠ f → s.heldBuf g ≠ some b
  reserve : s.map.freeList.length ≤ 24
  full : ∀ u, (s.chain f).getLast? = some u → ¬(s.unit u).accepts

theorem willHold_of_sealsToHeld (h : sealsToHeld f b s) : WillHold f b (s.stream f) s := by
  obtain ⟨-, -, hw, hf, hwords, -, hfills, hheld, hfree, hfull⟩ := h
  exact ⟨.refl _, hf, hwords, hw, hfills, hheld, hfree, hfull⟩

/-- The end of another stream's run leaves it so: no free unit is to be had, and no unit that accepts a page is the stream's (R26, R34). -/
theorem WillHold.endTurn {r : StreamRec} {st : StreamId} (h : WillHold f b r s) (hst : st ≠ f) : WillHold f b r (endTurn cause s st) := by
  unfold Machine.endTurn
  split
  · have ht := runEnded_endsRun st cause s
    obtain ⟨hfree, hchain, hunit⟩ := ht.reserve h.reserve
    have hb : (runEnded st cause s).buf b = s.buf b := ht.bufs b (h.fills st hst)
    refine ⟨h.run.trans ((runEnded_step st cause s).others f (Ne.symm hst)), ?_, by rw [hb]; exact h.words, fun hm => h.notWaiting (ht.waits f hm),
      fun g hg hgb => ?_, fun g hg hgb => ?_, by rw [hfree]; exact h.reserve, fun u hu => ?_⟩
    · rcases ht.fills f (Ne.symm hst) with e | ⟨-, e⟩
      · exact e.trans h.fill
      · exact absurd e h.notWaiting
    · by_cases hgs : g = st
      · rcases ht.fill with e | ⟨e, -⟩
        · exact nomatch (hgs ▸ hgb).symm.trans e
        · exact h.fills st hst (e.symm.trans (hgs ▸ hgb))
      · rcases ht.fills g hgs with e | ⟨e, -⟩
        · exact h.fills g hg (e.symm.trans hgb)
        · exact h.fills st hst (e.symm.trans hgb)
    · rcases ht.held g with e | ⟨-, e, -⟩
      · exact h.held g hg (e.symm.trans hgb)
      · exact h.fills st hst (e.symm.trans hgb)
    · rw [hchain] at hu
      have hu := h.full u hu
      rw [hunit u hu]
      exact hu
  · exact h

theorem WillHold.endTurns {r : StreamRec} {l : List StreamId} (hl : f ∉ l) (h : WillHold f b r s) :
    WillHold f b r (l.foldl (Machine.endTurn cause) s) := by
  induction l generalizing s with
  | nil => exact h
  | cons x l ih =>
    exact ih (fun hm => hl (List.mem_cons_of_mem _ hm)) (h.endTurn fun e => hl (e ▸ List.mem_cons_self))

theorem leaveRun_bufs (st : StreamId) (cause : EndCause) (s : State) :
    (leaveRun st cause s).bufs = { s.bufs with waitList := s.bufs.waitList.filter (· ≠ st) } := rfl

/-- The end of the run is the seal of a page that is held (R56, R101, R104). -/
theorem WillHold.closes {r : StreamRec} (h : WillHold f b r s) (he : r.endPage < 0xFFFFFFFF) :
    runEnded f cause s = leaveRun f cause (starve f b (pageSealed f b (recordCause f cause s))) := by
  have hend : ((recordCause f cause s).stream f).endPage < 0xFFFFFFFF := by
    rw [recordCause_stream, h.run.eq]
    exact he
  unfold runEnded
  rw [closeFill_sealed (s := recordCause f cause s) h.fill h.words, sealFill_numbered b hend]
  exact congrArg _ (placeSealed_starves (acceptingUnit_none (s := pageSealed f b (recordCause f cause s)) h.full) h.reserve)

/-- The stream's own turn seals the page and holds it (R56, R101, R104). -/
theorem WillHold.holds {r : StreamRec} (h : WillHold f b r s) (he : r.endPage < 0xFFFFFFFF) :
    ∃ i, i.pageNumber = r.endPage ∧ HoldsPage f b i (r.inFlight + 1) r.lostTotal (runEnded f cause s) := by
  have ht := runEnded_endsRun f cause s
  obtain ⟨r', hr, hcase⟩ := runEnded_record f cause s
  obtain ⟨c, rfl⟩ := hcase.sealed ⟨b, h.fill, h.words, by rw [h.run.eq]; exact he⟩
  obtain ⟨-, -, hfill, -, hsl, hh, hb, -⟩ := starve_facts f b (pageSealed f b (recordCause f cause s))
  have hbuf : (pageSealed f b (recordCause f cause s)).buf b = { s.buf b with
      sealed := some (sealInfo ((recordCause f cause s).stream f) (s.buf b)), words := padWords (s.buf b).words } := vget_vset_self ..
  have hself : (pageSealed f b (recordCause f cause s)).fillBuf f = none := vget_vset_self ..
  have hother : ∀ g, g ≠ f → (pageSealed f b (recordCause f cause s)).fillBuf g = s.fillBuf g := fun g hg => vget_vset_ne _ _ (Ne.symm hg)
  have hlist : f ∈ (pageSealed f b (recordCause f cause s)).bufs.starvedList ++ [f] := List.mem_append_right _ List.mem_cons_self
  rw [h.closes he] at ht hr ⊢
  rw [hbuf] at hb
  generalize pageSealed f b (recordCause f cause s) = p at *
  rw [← hsl] at hlist
  have hself' : (starve f b p).fillBuf f = none := (congrArg (fun v => vget v f) hfill).trans hself
  have hother' : ∀ g, g ≠ f → (starve f b p).fillBuf g = s.fillBuf g := fun g hg => (congrArg (fun v => vget v g) hfill).trans (hother g hg)
  generalize starve f b p = q at *
  refine ⟨sealInfo ((recordCause f cause s).stream f) (s.buf b), ?_, hlist, hh, congrArg PageBuf.sealed hb, fun g hg => ?_, fun g hg hgb => ?_,
    fun c' hc => absurd (hself'.symm.trans hc) nofun, ?_, ?_⟩
  · rw [recordCause_stream, h.run.eq]
    rfl
  · by_cases hgf : g = f
    · rw [hgf] at hg
      exact absurd (hself'.symm.trans hg) nofun
    · exact h.fills g hgf ((hother' g hgf).symm.trans hg)
  · rcases ht.held g with e | ⟨e, -⟩
    · exact h.held g hg (e.symm.trans hgb)
    · exact hg e
  · rw [hr, h.run.eq]
    rfl
  · rw [hr, h.run.eq]
    rfl

/-- The page that a stream's run end seals and cannot place is held when every run has ended. -/
theorem sealsToHeld_held (h : sealsToHeld f b s) : ∃ i, i.pageNumber = (s.stream f).endPage ∧
    HoldsPage f b i ((s.stream f).inFlight + 1) (s.stream f).lostTotal (Machine.endTurns cause s) := by
  obtain ⟨as, bs, e, ha, -⟩ := allStreams_split f
  have hw := (willHold_of_sealsToHeld h).endTurns (cause := cause) ha
  obtain ⟨hc, -, -, -, -, he, -⟩ := h
  obtain ⟨i, hi, hp⟩ := hw.holds (cause := cause) he
  refine ⟨i, hi, ?_⟩
  unfold Machine.endTurns
  rw [e, List.foldl_append, List.foldl_cons, endTurn_capturing (hw.run.state.trans hc)]
  exact hp.endTurns bs

theorem holdsAlone_held (h : holdsAlone f b i s) : HoldsPage f b i (s.stream f).inFlight (s.stream f).lostTotal (Machine.endTurns cause s) :=
  (holdsPage_of_holdsAlone h).endTurns allStreams

/-! ## The discard -/

/-- The stream's record and lists before its held page is let go (R107). -/
def unstarved (st : StreamId) (s : State) : State :=
  (s.setStarvedList (s.bufs.starvedList.filter (· ≠ st))).setStream st { s.stream st with starved := false }

/-- The state with the held page's number taken back and the page counted as lost (R107). -/
def pageLost (st : StreamId) (x : Nat) (s : State) : State :=
  raise .pageLost st.val (((unstarved st s).setStream st { ((unstarved st s).stream st).losePage with endPage := x }).setHeld st none)

theorem discardHeld_none {st : StreamId} (h : s.heldBuf st = none) : discardHeld st s = unstarved st s := by
  have h' : (unstarved st s).heldBuf st = none := h
  unfold discardHeld
  dsimp only
  rw [show ((s.setStarvedList (s.bufs.starvedList.filter (· ≠ st))).setStream st
    { (s.setStarvedList (s.bufs.starvedList.filter (· ≠ st))).stream st with starved := false }).heldBuf st = none from h']
  rfl

theorem discardHeld_some {st : StreamId} {b : BufId} (h : s.heldBuf st = some b) :
    ∃ x, (∀ i, (s.buf b).sealed = some i → x = i.pageNumber) ∧ discardHeld st s = checkFlushes st (freeBuffer b (pageLost st x s)) := by
  unfold discardHeld
  dsimp only
  rw [show ((s.setStarvedList (s.bufs.starvedList.filter (· ≠ st))).setStream st
    { (s.setStarvedList (s.bufs.starvedList.filter (· ≠ st))).stream st with starved := false }).heldBuf st = some b from h]
  refine ⟨_, fun i hi => ?_, rfl⟩
  rw [show ((s.setStarvedList (s.bufs.starvedList.filter (· ≠ st))).setStream st
    { (s.setStarvedList (s.bufs.starvedList.filter (· ≠ st))).stream st with starved := false }).buf b = s.buf b from rfl, hi]

theorem pageLost_stream (st : StreamId) (x : Nat) (s : State) : (pageLost st x s).stream st =
    { s.stream st with starved := false, endPage := x, inFlight := (s.stream st).inFlight - 1, lostTotal := min ((s.stream st).lostTotal + 1) 0xFFFFFFFF } := by
  have h1 : (unstarved st s).stream st = { s.stream st with starved := false } := vget_vset_self ..
  have h2 : (pageLost st x s).stream st = { ((unstarved st s).stream st).losePage with endPage := x } := vget_vset_self ..
  rw [h2, h1]
  rfl

/-- What the discard of the held page of `st` does to the buffers (R93, R107). -/
structure DiscardsHeld (st : StreamId) (s t : State) : Prop where
  heldSelf : t.heldBuf st = none
  heldOther : ∀ g, g ≠ st → t.heldBuf g = s.heldBuf g
  bufs : ∀ c, s.heldBuf st ≠ some c → t.buf c = s.buf c
  listed : t.bufs.starvedList = s.bufs.starvedList.filter (· ≠ st)
  noted : t.bufs.heldAtWorn = s.bufs.heldAtWorn
  pool : s.bufs.waitList = [] → t.bufs.waitList = [] ∧ (∀ c ∈ s.bufs.pool, c ∈ t.bufs.pool) ∧
    ∀ c, s.heldBuf st = some c → c ∈ t.bufs.pool ∧ t.buf c = PageBuf.empty

theorem discardHeld_bufs (st : StreamId) (s : State) : DiscardsHeld st s (discardHeld st s) := by
  cases hb : s.heldBuf st with
  | none =>
    rw [discardHeld_none hb]
    exact
      { heldSelf := hb, heldOther := fun _ _ => rfl, bufs := fun _ _ => rfl, listed := rfl, noted := rfl
        pool := fun h => ⟨h, fun _ hc => hc, fun c hc => absurd (hb.symm.trans hc) nofun⟩ }
  | some b =>
    obtain ⟨x, -, e⟩ := discardHeld_some hb
    obtain ⟨rq, hq⟩ := checkFlushes_eq st (freeBuffer b (pageLost st x s))
    obtain ⟨-, -, -, -, -, hheld, -⟩ := freeBuffer_frame b (pageLost st x s)
    obtain ⟨hbuf, -, -, hwait, hn⟩ := freeBuffer_bufs b (pageLost st x s)
    have hsl := freeBuffer_starvedList b (pageLost st x s)
    have hpool := freeBuffer_pool (b := b) (s := pageLost st x s)
    have hself : (pageLost st x s).heldBuf st = none := vget_vset_self ..
    have hother : ∀ g, g ≠ st → (pageLost st x s).heldBuf g = s.heldBuf g := fun g hg => vget_vset_ne _ _ (Ne.symm hg)
    have hl : (pageLost st x s).bufs.starvedList = s.bufs.starvedList.filter (· ≠ st) := rfl
    have hp : (pageLost st x s).bufs.pool = s.bufs.pool := rfl
    have hw : (pageLost st x s).bufs.waitList = s.bufs.waitList := rfl
    have hbuf' : ∀ c, (pageLost st x s).buf c = s.buf c := fun c => rfl
    have hn' : (pageLost st x s).bufs.heldAtWorn = s.bufs.heldAtWorn := rfl
    rw [e, hq]
    generalize pageLost st x s = p at *
    generalize freeBuffer b p = q at *
    exact
      { heldSelf := (congrArg (fun v => vget v st) hheld).trans hself
        heldOther := fun g hg => (congrArg (fun v => vget v g) hheld).trans (hother g hg)
        bufs := fun c hc => (hbuf c fun e => hc (e ▸ hb)).trans (hbuf' c)
        listed := hsl.trans hl
        noted := hn.trans hn'
        pool := fun h => by
          obtain ⟨hpool, hempty⟩ := hpool (hw.trans h)
          refine ⟨List.sublist_nil.mp (h ▸ hw ▸ hwait), fun c hc => ?_, fun c hc => ?_⟩
          · exact hpool ▸ List.mem_append_left _ (hp ▸ hc)
          · obtain rfl : b = c := Option.some.inj (hb.symm.trans hc)
            exact ⟨hpool ▸ List.mem_append_right _ List.mem_cons_self, hempty⟩ }

/-! ## One page through the discards -/

/-- The stream `f` holds the page `i` in `b` while held pages are discarded; under `W` no stream waits for a buffer. -/
structure HasPage (W : Prop) (f : StreamId) (b : BufId) (i : SealInfo) (n k : Nat) (s : State) : Prop where
  held : s.heldBuf f = some b
  sealed : (s.buf b).sealed = some i
  others : ∀ g, g ≠ f → s.heldBuf g ≠ some b
  inFlight : (s.stream f).inFlight = n
  lostTotal : (s.stream f).lostTotal = k
  waits : W → s.bufs.waitList = []

/-- The page of `f` in `b` has been discarded. -/
structure LostPage (W : Prop) (f : StreamId) (b : BufId) (e n k : Nat) (s : State) : Prop where
  held : s.heldBuf f = none
  others : ∀ g, s.heldBuf g ≠ some b
  starved : (s.stream f).starved = false
  endPage : (s.stream f).endPage = e
  inFlight : (s.stream f).inFlight = n
  lostTotal : (s.stream f).lostTotal = k
  raised : s.notices.pendingSet.getLsbD 5 = true
  pool : W → s.bufs.waitList = [] ∧ b ∈ s.bufs.pool ∧ s.buf b = PageBuf.empty

variable {W : Prop} {e : Nat}

theorem discardHeld_other {st : StreamId} (h : f ≠ st) (s : State) : sameRun (s.stream f) ((discardHeld st s).stream f) :=
  ((RunStep.refl (fun g => g = st) s).discardHeld st rfl).others f h

theorem HasPage.discardOther {st : StreamId} (h : HasPage W f b i n k s) (hst : st ≠ f) : HasPage W f b i n k (discardHeld st s) := by
  have hd := discardHeld_bufs st s
  have hr := (discardHeld_other (Ne.symm hst) s).eq
  exact
    { held := (hd.heldOther f (Ne.symm hst)).trans h.held
      sealed := by
        rw [hd.bufs b (h.others st hst)]
        exact h.sealed
      others := fun g hg => by
        by_cases e : g = st
        · rw [e, hd.heldSelf]
          exact nofun
        · rw [hd.heldOther g e]
          exact h.others g hg
      inFlight := (congrArg StreamRec.inFlight hr).trans h.inFlight
      lostTotal := (congrArg StreamRec.lostTotal hr).trans h.lostTotal
      waits := fun w => (hd.pool (h.waits w)).1 }

/-- The discard of the stream's own page (R107). -/
theorem HasPage.discardOwn (h : HasPage W f b i n k s) :
    LostPage W f b i.pageNumber (n - 1) (min (k + 1) 0xFFFFFFFF) (discardHeld f s) := by
  have hd := discardHeld_bufs f s
  obtain ⟨x, hx, e⟩ := discardHeld_some h.held
  obtain rfl := hx i h.sealed
  have hrec : sameRun ((pageLost f i.pageNumber s).stream f) ((discardHeld f s).stream f) := by
    rw [e]
    exact (((RunStep.refl (fun _ => False) (pageLost f i.pageNumber s)).freeBuffer b).checkFlushes f).others f id
  have hbit : (discardHeld f s).notices.pendingSet.getLsbD 5 = true := by
    have h5 : (pageLost f i.pageNumber s).notices.pendingSet.getLsbD 5 = true := raise_bit .pageLost _ _
    rw [e]
    exact (((Kept.refl (pageLost f i.pageNumber s)).freeBuffer b).checkFlushes f).pendingSet h5
  have hr := hrec.eq
  rw [pageLost_stream] at hr
  generalize discardHeld f s = t at *
  exact
    { held := hd.heldSelf
      others := fun g => by
        by_cases e : g = f
        · rw [e, hd.heldSelf]
          exact nofun
        · rw [hd.heldOther g e]
          exact h.others g e
      starved := congrArg StreamRec.starved hr
      endPage := congrArg StreamRec.endPage hr
      inFlight := (congrArg StreamRec.inFlight hr).trans (congrArg (· - 1) h.inFlight)
      lostTotal := (congrArg StreamRec.lostTotal hr).trans (congrArg (fun k => min (k + 1) 0xFFFFFFFF) h.lostTotal)
      raised := hbit
      pool := fun w => by
        obtain ⟨hw, -, hb⟩ := hd.pool (h.waits w)
        exact ⟨hw, hb b h.held⟩ }

/-- Every further discard leaves the discarded page so, that of the same stream too. -/
theorem LostPage.discard (h : LostPage W f b e n k s) (st : StreamId) : LostPage W f b e n k (discardHeld st s) := by
  have hd := discardHeld_bufs st s
  have hbit := ((Kept.refl s).discardHeld st).pendingSet h.raised
  have hr : ((discardHeld st s).stream f).starved = false ∧ ((discardHeld st s).stream f).endPage = e ∧
      ((discardHeld st s).stream f).inFlight = n ∧ ((discardHeld st s).stream f).lostTotal = k := by
    by_cases hst : f = st
    · subst hst
      have hu : (unstarved f s).stream f = { s.stream f with starved := false } := vget_vset_self ..
      rw [discardHeld_none h.held, hu]
      exact ⟨rfl, h.endPage, h.inFlight, h.lostTotal⟩
    · rw [(discardHeld_other hst s).eq]
      exact ⟨h.starved, h.endPage, h.inFlight, h.lostTotal⟩
  obtain ⟨h1, h2, h3, h4⟩ := hr
  have hheld : ∀ g, (discardHeld st s).heldBuf g = none ∨ (discardHeld st s).heldBuf g = s.heldBuf g := fun g => by
    by_cases e : g = st
    · exact .inl (e ▸ hd.heldSelf)
    · exact .inr (hd.heldOther g e)
  exact
    { held := (hheld f).elim id fun e => e.trans h.held
      others := fun g => (hheld g).elim (fun e => by rw [e]; exact nofun) fun e => by rw [e]; exact h.others g
      starved := h1, endPage := h2, inFlight := h3, lostTotal := h4, raised := hbit
      pool := fun w => by
        obtain ⟨hw, hb, hempty⟩ := h.pool w
        obtain ⟨hw', hp, -⟩ := hd.pool hw
        exact ⟨hw', hp b hb, (hd.bufs b (h.others st)).trans hempty⟩ }

theorem LostPage.discards (l : List StreamId) (h : LostPage W f b e n k s) :
    LostPage W f b e n k (l.foldl (fun s st => discardHeld st s) s) := by
  induction l generalizing s with
  | nil => exact h
  | cons x l ih => exact ih (h.discard x)

/-- A page held by a stream of the starved list is discarded with the others (R107). -/
theorem HasPage.discards {l : List StreamId} (hl : f ∈ l) (h : HasPage W f b i n k s) :
    LostPage W f b i.pageNumber (n - 1) (min (k + 1) 0xFFFFFFFF) (l.foldl (fun s st => discardHeld st s) s) := by
  induction l generalizing s with
  | nil => exact absurd hl List.not_mem_nil
  | cons x l ih =>
    by_cases hx : x = f
    · subst hx
      exact h.discardOwn.discards l
    · exact ih ((List.mem_cons.mp hl).resolve_left (Ne.symm hx)) (h.discardOther hx)

theorem discards_noted (l : List StreamId) : ∀ s : State,
    (l.foldl (fun s st => discardHeld st s) s).bufs.heldAtWorn = s.bufs.heldAtWorn := by
  induction l with
  | nil => exact fun _ => rfl
  | cons x l ih => exact fun s => (ih (discardHeld x s)).trans (discardHeld_bufs x s).noted

end

end Sys2Proof.Machine
end

section
/-!
PROOFS. WORN entry and SHUTDOWN (R58, R107, R135, R182): the end of every run and the discard of every held page, together.
-/
-- The theorems of this file are elaborated one after another: in parallel their waiting threads exceed the memory limit of the check.
set_option Elab.async false

namespace Sys2Proof.Machine

/-! ## The discard after the end of every run -/

/-- The states `w` and `v` have the same streams and, but for the note of the streams that hold a page (R137), the same buffers. -/
structure SameButNoted (w v : State) : Prop where
  stream : ∀ f, v.stream f = w.stream f
  heldBuf : ∀ f, v.heldBuf f = w.heldBuf f
  buf : ∀ b, v.buf b = w.buf b
  waitList : v.bufs.waitList = w.bufs.waitList
  starvedList : v.bufs.starvedList = w.bufs.starvedList

theorem SameButNoted.refl (w : State) : SameButNoted w w := ⟨fun _ => rfl, fun _ => rfl, fun _ => rfl, rfl, rfl⟩

theorem noteHeld_noted (w : State) : (noteHeld w).bufs.heldAtWorn = w.bufs.starvedList := rfl

theorem sameButNoted_noteHeld (w : State) : SameButNoted w (noteHeld w) := ⟨fun _ => rfl, fun _ => rfl, fun _ => rfl, rfl, rfl⟩

/-- What two states with the same core share, for the discards. -/
theorem core_blocks {s t : State} (h : t.core = s.core) :
    t.bufs = s.bufs ∧ t.streams = s.streams ∧ t.notices.pendingSet = s.notices.pendingSet :=
  ⟨(congrArg State.bufs h :), (congrArg State.streams h :), (congrArg (fun x : State => x.notices.pendingSet) h :)⟩

/-- What two states share that no run moves. -/
theorem outside_blocks {s t : State} (h : t.outside = s.outside) : t.engine = s.engine ∧ t.lanes = s.lanes ∧ t.triggers = s.triggers ∧
    t.reads = s.reads ∧ t.map.dirtyList = s.map.dirtyList ∧ t.ctl.device = s.ctl.device ∧ t.ctl.shutdown = s.ctl.shutdown ∧
    t.ctl.ckpt = s.ctl.ckpt ∧ t.ctl.waiters = s.ctl.waiters ∧ t.ctl.seqNo = s.ctl.seqNo :=
  ⟨(congrArg State.engine h :), (congrArg State.lanes h :), (congrArg State.triggers h :), (congrArg State.reads h :),
    (congrArg (fun x => x.map.dirtyList) h :), (congrArg (fun x => x.ctl.device) h :), (congrArg (fun x => x.ctl.shutdown) h :),
    (congrArg (fun x => x.ctl.ckpt) h :), (congrArg (fun x => x.ctl.waiters) h :), (congrArg (fun x => x.ctl.seqNo) h :)⟩

section

variable {cause : EndCause} {u v : State} {f : StreamId} {b : BufId} {i : SealInfo} {n k : Nat}

theorem endAllRuns_bufs (hc : endsForGood cause) (u : State) : (endAllRuns cause u).bufs = (endTurns cause u).bufs := by
  rw [endAllRuns_eq hc]
  exact (disarmAll_frame _).1

/-- No stream waits for a buffer once every run has ended, when only CAPTURING streams did (R56). -/
theorem endAllRuns_waits (hc : endsForGood cause) (hw : ∀ g ∈ u.bufs.waitList, (u.stream g).state = .capturing) :
    (endAllRuns cause u).bufs.waitList = [] := by
  rw [endAllRuns_bufs hc]
  refine List.eq_nil_iff_forall_not_mem.mpr fun g hg => ?_
  obtain ⟨hm, hn⟩ := endTurns_waits hg
  exact hn (hw g hm)

theorem runsEnded_discards (hc : endsForGood cause) (h : SameButNoted (endAllRuns cause u) v) (hp : HoldsPage f b i n k (endTurns cause u)) :
    LostPage (∀ g ∈ u.bufs.waitList, (u.stream g).state = .capturing) f b i.pageNumber (n - 1) (min (k + 1) 0xFFFFFFFF) (discardAllHeld v) := by
  have hp := hp.disarmAll
  have hw := endAllRuns_waits (u := u) hc
  rw [← endAllRuns_eq hc] at hp
  generalize endAllRuns cause u = r at *
  have hv : HasPage (∀ g ∈ u.bufs.waitList, (u.stream g).state = .capturing) f b i n k v :=
    { held := (h.heldBuf f).trans hp.held, sealed := by rw [h.buf]; exact hp.sealed
      others := fun g hg => by rw [h.heldBuf]; exact hp.others g hg
      inFlight := by rw [h.stream]; exact hp.inFlight, lostTotal := by rw [h.stream]; exact hp.lostTotal
      waits := fun w => h.waitList.trans (hw w) }
  unfold discardAllHeld
  exact hv.discards (by rw [h.starvedList]; exact hp.listed)

theorem LostPage.pageDiscarded {s t : State} {x : Nat} (h : LostPage (∀ g ∈ s.bufs.waitList, (s.stream g).state = .capturing) f b x n
    (min ((s.stream f).lostTotal + 1) 0xFFFFFFFF) t) : pageDiscarded f b x n s t :=
  ⟨h.held, h.starved, h.endPage, h.inFlight, h.lostTotal, h.raised, fun w => (h.pool w).2⟩

/-- The page that a STARVED stream holds is discarded (R107). -/
theorem holdsAlone_discarded (hc : endsForGood cause) (h : SameButNoted (endAllRuns cause u) v) (ha : holdsAlone f b i u) :
    pageDiscarded f b i.pageNumber ((u.stream f).inFlight - 1) u (discardAllHeld v) := (runsEnded_discards hc h (holdsAlone_held ha)).pageDiscarded

/-- The page that a run end seals and cannot place is discarded (R107). -/
theorem sealsToHeld_discarded (hc : endsForGood cause) (h : SameButNoted (endAllRuns cause u) v) (ha : sealsToHeld f b u) :
    pageDiscarded f b (u.stream f).endPage (u.stream f).inFlight u (discardAllHeld v) := by
  obtain ⟨i, hi, hp⟩ := sealsToHeld_held (cause := cause) ha
  have hl := runsEnded_discards hc h hp
  rw [hi, Nat.add_sub_cancel] at hl
  exact hl.pageDiscarded

theorem pageDiscarded.later {s t w : State} {x : Nat} (h : pageDiscarded f b x n s t) (hb : w.bufs = t.bufs) (hs : w.streams = t.streams)
    (hn : t.notices.pendingSet.getLsbD 5 = true → w.notices.pendingSet.getLsbD 5 = true) : pageDiscarded f b x n s w := by
  obtain ⟨h1, h2, h3, h4, h5, h6, h7⟩ := h
  have hst : w.stream f = t.stream f := congrArg (fun v => vget v f) hs
  have hbuf : w.buf b = t.buf b := congrArg (fun m : BufMgr => vget m.bufs b) hb
  refine ⟨(congrArg (fun m : BufMgr => vget m.held f) hb).trans h1, ?_⟩
  rw [hst, hbuf, hb]
  exact ⟨h2, h3, h4, h5, hn h6, h7⟩

/-- The stage of each stream after the discards. -/
theorem runsEnded_stage (hc : endsForGood cause) (h : SameButNoted (endAllRuns cause u) v) (f : StreamId) :
    allEnded cause (u.stream f) ((discardAllHeld v).stream f) := by
  have hs := endAllRuns_stage hc u f
  rw [← h.stream] at hs
  exact hs.stage ((discardAllHeld_facts v).2 f)

theorem discardAllHeld_noted (s : State) : (discardAllHeld s).bufs.heldAtWorn = s.bufs.heldAtWorn := by
  unfold discardAllHeld
  exact discards_noted s.bufs.starvedList s

theorem discardAllHeld_outside (s : State) : (discardAllHeld s).outside = s.outside := (RunStep.refl _ s).discardAllHeld.outside

end

/-! ## WORN entry -/

theorem enterWorn_eq (s : State) : enterWorn s = discardAllHeld (noteHeld (endAllRuns .worn s)) := by
  unfold enterWorn
  rfl

/-- Settles O58: the rest of WORN entry, which the end of the happening leaves alone. -/
theorem wornEntryEndsTheRuns : Obligations.WornEntryEndsTheRuns := by
  intro a u ha hu t
  have hw : settleWorn a u = enterWorn u := if_pos ⟨ha, hu⟩
  have hcore : t.core = (enterWorn u).core := hw ▸ (settled_after_worn a u).core
  have hout : t.outside = u.outside := settle_outside a u
  have hempty := (enterWorn_facts u).1
  rw [enterWorn_eq] at hcore hempty
  obtain ⟨hbufs, hstreams, hpending⟩ := core_blocks hcore
  have hbit : (discardAllHeld (noteHeld (endAllRuns .worn u))).notices.pendingSet.getLsbD 5 = true → t.notices.pendingSet.getLsbD 5 = true := fun h => by
    rw [hpending]
    exact h
  have hr := sameButNoted_noteHeld (endAllRuns .worn u)
  have hnoted : t.bufs.heldAtWorn = (endTurns .worn u).bufs.starvedList := by
    have h := discardAllHeld_noted (noteHeld (endAllRuns .worn u))
    rw [hbufs, ← endAllRuns_bufs worn_endsForGood u, h, noteHeld_noted]
  obtain ⟨hengine, hlanes, htriggers, -, -, hdevice, -⟩ := outside_blocks hout
  rw [hnoted]
  refine ⟨hdevice.trans hu, by rw [hbufs]; exact hempty, hengine, hlanes, htriggers, fun f b i h => ?_, fun f b h => ?_,
    fun f h => endTurns_starving h, fun f => ?_⟩
  · exact ⟨(holdsAlone_discarded worn_endsForGood hr h).later hbufs hstreams hbit, (holdsAlone_held h).listed⟩
  · obtain ⟨i, -, hp⟩ := sealsToHeld_held (cause := .worn) h
    exact ⟨(sealsToHeld_discarded worn_endsForGood hr h).later hbufs hstreams hbit, hp.listed⟩
  · have hst : t.stream f = (discardAllHeld (noteHeld (endAllRuns .worn u))).stream f := congrArg (fun x => vget x f) hstreams
    rw [hst]
    exact runsEnded_stage worn_endsForGood hr f

/-! ## SHUTDOWN -/

namespace flushesJoin

theorem endAllRuns {cause : EndCause} (h : endsForGood cause) (s : State) : flushesJoin s (endAllRuns cause s) := by
  have hturn : ∀ (r : State) (x : StreamId), flushesJoin r (endTurn cause r x) := fun r x => by
    unfold endTurn
    split
    · exact runEnded ..
    · exact refl r
  rw [endAllRuns_eq h]
  exact (foldl hturn allStreams s).trans (ofLink (disarmAll_frame _).2.1)

theorem discardHeld (st : StreamId) (s : State) : flushesJoin s (discardHeld st s) := by
  cases hb : s.heldBuf st with
  | none =>
    rw [discardHeld_none hb]
    exact ofLink rfl
  | some b =>
    obtain ⟨x, -, e⟩ := discardHeld_some hb
    rw [e]
    exact ((ofLink rfl : flushesJoin s (pageLost st x s)).trans (freeBuffer ..)).trans (checkFlushes ..)

theorem discardAllHeld (s : State) : flushesJoin s (discardAllHeld s) := foldl (fun r x => discardHeld x r) _ s

end flushesJoin

/-- The state in which SHUTDOWN ends the runs: SHUTTING_DOWN, with the request in the shutdown record (R182). -/
def shuttingDown (tag : Byte) (s : State) : State :=
  s.setCtl { s.ctl with device := .shuttingDown, shutdown := some ⟨tag, false, none⟩ }

/-- The state that SHUTDOWN leaves: checkpoint pending for the final one (R182). -/
def finalPending (s : State) : State := s.setCtl { s.ctl with ckptPending := true }

theorem ownRequest_shutdown (tag : Byte) (p : List Byte) (s : State) : ownRequest .shutdown tag p s =
    finalPending (discardAllHeld (endAllRuns .shutdown (shuttingDown tag s))) := by
  unfold ownRequest shutdownRequest finalPending shuttingDown
  dsimp only

/-- Settles O20: the end of every run and the discard of every held page, in the happening of the request. -/
theorem shutdownIsTaken : Obligations.ShutdownIsTaken := by
  intro tag p s hacc
  have hr := SameButNoted.refl (endAllRuns .shutdown (shuttingDown tag (waiting .shutdown tag p s)))
  have hflush := (flushesJoin.endAllRuns shutdown_endsForGood (shuttingDown tag (waiting .shutdown tag p s))).trans (.discardAllHeld _)
  have hout := (discardAllHeld_outside (endAllRuns .shutdown (shuttingDown tag (waiting .shutdown tag p s)))).trans
    (RunMove.endAllRuns (shuttingDown tag (waiting .shutdown tag p s)) .shutdown)
  have hheld := fun f b i (h : holdsAlone f b i s) =>
    holdsAlone_discarded shutdown_endsForGood hr (show holdsAlone f b i (shuttingDown tag (waiting .shutdown tag p s)) from h)
  have hsealed := fun f b (h : sealsToHeld f b s) =>
    sealsToHeld_discarded shutdown_endsForGood hr (show sealsToHeld f b (shuttingDown tag (waiting .shutdown tag p s)) from h)
  have hstage := runsEnded_stage shutdown_endsForGood hr
  have hempty := (discardAllHeld_facts (endAllRuns .shutdown (shuttingDown tag (waiting .shutdown tag p s)))).1
  have hnoted := (discardAllHeld_noted (endAllRuns .shutdown (shuttingDown tag (waiting .shutdown tag p s)))).trans
    ((congrArg BufMgr.heldAtWorn (endAllRuns_bufs shutdown_endsForGood _)).trans (endTurns_noted ..))
  have hex := exec_accepted hacc
  rw [ownRequest_shutdown] at hex
  generalize discardAllHeld (endAllRuns .shutdown (shuttingDown tag (waiting .shutdown tag p s))) = d at *
  have hdev := (outside_blocks hout).2.2.2.2.2.1
  have ht : Stands (finalPending d) (settle s (finalPending d)) :=
    settle_stands (.inl (by rw [show (finalPending d).ctl.device = d.ctl.device from rfl, hdev]; exact nofun))
  have hall : (settle s (finalPending d)).outside = (shuttingDown tag (waiting .shutdown tag p s)).outside :=
    (settle_outside ..).trans hout
  generalize settle s (finalPending d) = t at *
  obtain ⟨hengine, hlanes, htriggers, hreads, hdirty, hdevice, hshutdown, hckpt, hwaiters, hseq⟩ := outside_blocks hall
  have hstream : ∀ f, t.stream f = d.stream f := ht.stream
  refine ⟨t, hex, hdevice, hshutdown, ht.ckptPending rfl, hckpt, hwaiters, hseq, (congrArg BufMgr.starvedList ht.bufs).trans hempty,
    fun f => ?_, fun f => ?_, fun f => ?_, fun f b i h => (hheld f b i h).later ht.bufs ht.streams ht.pendingSet,
    fun f b h => (hsealed f b h).later ht.bufs ht.streams ht.pendingSet, ?_, hengine, hlanes, htriggers, hreads, hdirty,
    (congrArg BufMgr.heldAtWorn ht.bufs).trans hnoted⟩
  · rw [hstream]
    exact (hstage f).1
  · rw [hstream]
    exact (hstage f).2.1
  · rw [hstream]
    exact (hstage f).2.2
  · obtain ⟨l, hl, hsrc⟩ := hflush
    exact ⟨l, ht.replies.trans hl, hsrc⟩

end Sys2Proof.Machine
end

section
/-!
PROOFS. The relocation groups of the mount (R178): what the settling of one group moves, and what stands when every group is settled.
-/
-- The theorems of this file are elaborated one after another: in parallel their waiting threads exceed the memory limit of the check.
set_option Elab.async false

namespace Sys2Proof.Machine

/-! ## Copies -/

theorem isCopyOf_iff {v u : Owned} : isCopyOf v u = true ↔
    v.unit ≠ u.unit ∧ v.origin.toNat = u.unit.val ∧ v.stream = u.stream ∧ v.first = u.first := by
  simp [isCopyOf, and_assoc]

/-- A unit is a copy of at most one unit. -/
theorem isCopyOf_unique {x p q : Owned} (hp : isCopyOf x p = true) (hq : isCopyOf x q = true) : p.unit = q.unit := by
  obtain ⟨-, hp, -⟩ := isCopyOf_iff.mp hp
  obtain ⟨-, hq, -⟩ := isCopyOf_iff.mp hq
  exact Fin.ext (hp.symm.trans hq)

/-- A copy that the choice of R178 puts before another, or the same one. -/
def copyBefore (v y : Owned) : Prop := y.count < v.count ∨ (y.count = v.count ∧ v.unit.val ≤ y.unit.val)

theorem copyBefore.trans {a b c : Owned} (h1 : copyBefore a b) (h2 : copyBefore b c) : copyBefore a c := by
  unfold copyBefore at *
  omega

theorem bestOf_none {l : List Owned} (h : bestOf l = none) : l = [] := by
  cases l with
  | nil => rfl
  | cons v l =>
    unfold bestOf at h
    split at h
    · cases h
    · split at h <;> cases h

/-- The choice among copies is one of them, and before every one of them (R178). -/
theorem bestOf_some {l : List Owned} {v : Owned} (h : bestOf l = some v) : v ∈ l ∧ ∀ y ∈ l, copyBefore v y := by
  induction l generalizing v with
  | nil => cases h
  | cons a l ih =>
    have hself : ∀ x : Owned, copyBefore x x := fun x => .inr ⟨rfl, le_refl _⟩
    unfold bestOf at h
    split at h
    · next hn =>
      cases h
      obtain rfl := bestOf_none hn
      exact ⟨List.mem_cons_self, fun y hy => List.mem_singleton.mp hy ▸ hself _⟩
    · next w hw =>
      obtain ⟨hm, hb⟩ := ih hw
      split at h
      · next hlt =>
        cases h
        refine ⟨List.mem_cons_of_mem _ hm, fun y hy => ?_⟩
        rcases List.mem_cons.mp hy with rfl | hy
        · exact hlt.imp id fun ⟨e, hu⟩ => ⟨e, Nat.le_of_lt (Fin.lt_def.mp hu)⟩
        · exact hb y hy
      · next hlt =>
        cases h
        refine ⟨List.mem_cons_self, fun y hy => ?_⟩
        have haw : copyBefore a w := by
          rw [Fin.lt_def] at hlt
          unfold copyBefore
          omega
        rcases List.mem_cons.mp hy with rfl | hy
        · exact hself _
        · exact haw.trans (hb y hy)

/-! ## The state of the settling -/

/-- What stands while groups are settled: `todo` holds the units whose own group is still to come (R178). -/
structure GroupsStand (owned : List Owned) (todo : List UnitId) (g : Groups) : Prop where
  left : ∀ x, x ∈ g.owned ↔ x ∈ owned ∧ x.unit ∉ g.retire ∧ x.unit ∉ g.dirty
  ordered : g.owned.Sublist owned
  losers : ∀ v, v ∈ g.dirty ↔ ∃ x ∈ owned, x.unit = v ∧ ∃ p ∈ owned, isCopyOf x p = true ∧ p.unit ∉ todo ∧ ¬winsGroup owned x p
  retired : ∀ v, v ∈ g.retire ↔ ∃ o ∈ owned, o.unit = v ∧ o.unit ∉ todo ∧ ∃ c ∈ owned, isCopyOf c o = true ∧ o.count ≤ c.count
  winners : ∀ v, v ∈ g.won ↔ ∃ o ∈ owned, o.unit = v ∧ o.unit ∉ todo ∧ (∃ c ∈ owned, isCopyOf c o = true) ∧
    ∀ c ∈ owned, isCopyOf c o = true → c.count < o.count
  nodup : g.retire.Nodup
  settled : ∀ x ∈ owned, x.unit ∉ todo → x.unit ∉ g.dirty
  origins : ∀ x ∈ owned, x.unit ∉ todo → ∀ p ∈ owned, isCopyOf x p = true → p.unit ∉ todo ∨ p.unit ∈ g.dirty

/-- The scan's owned units, each with a number of its own. -/
def distinctUnits (owned : List Owned) : Prop := ∀ a ∈ owned, ∀ b ∈ owned, a.unit = b.unit → a = b

theorem groupsStand_start (owned : List Owned) : GroupsStand owned (owned.map (·.unit)) ⟨owned, [], [], []⟩ := by
  have hin : ∀ x ∈ owned, ¬x.unit ∉ owned.map (·.unit) := fun x hx h => h (List.mem_map_of_mem hx)
  exact
    { left := fun x => by simp
      ordered := .refl _
      losers := fun v => ⟨fun h => absurd h List.not_mem_nil, fun ⟨_, _, _, p, hp, _, hn, _⟩ => absurd hn (hin p hp)⟩
      retired := fun v => ⟨fun h => absurd h List.not_mem_nil, fun ⟨o, ho, _, hn, _⟩ => absurd hn (hin o ho)⟩
      winners := fun v => ⟨fun h => absurd h List.not_mem_nil, fun ⟨o, ho, _, hn, _⟩ => absurd hn (hin o ho)⟩
      nodup := List.nodup_nil
      settled := fun x hx hn => absurd hn (hin x hx)
      origins := fun x hx hn => absurd hn (hin x hx) }

/-! ## One group -/

/-- The unit whose group is settled next is owned, its own group is still to come, and it is a copy of no such unit. -/
theorem nextGroup_some {todo : List UnitId} {g : Groups} {u : Owned} (h : nextGroup todo g = some u) :
    u ∈ g.owned ∧ u.unit ∈ todo ∧ ∀ p ∈ g.owned, p.unit ∈ todo → isCopyOf u p = false := by
  unfold nextGroup at h
  have hm := List.mem_of_find?_eq_some h
  have hp := List.find?_some h
  obtain ⟨hu, ht⟩ := List.mem_filter.mp hm
  refine ⟨hu, by simpa using ht, fun p hpo hpt => ?_⟩
  have hp' := (Bool.not_eq_true' _).mp hp
  by_contra hc
  rw [Bool.not_eq_false] at hc
  rw [List.any_eq_true.mpr ⟨p, List.mem_filter.mpr ⟨hpo, by simpa using hpt⟩, hc⟩] at hp'
  cases hp'

theorem mem_todo_filter {todo : List UnitId} {v w : UnitId} : v ∉ todo.filter (· ≠ w) ↔ v ∉ todo ∨ v = w := by
  simp only [List.mem_filter, ne_eq, decide_not, Bool.not_eq_true', decide_eq_false_iff_not]
  tauto

/-- What the settling of the group of `u` moves, told from the units that the scan found (R178). -/
structure GroupMoved (owned : List Owned) (u : Owned) (g g' : Groups) : Prop where
  left : ∀ x, x ∈ g'.owned ↔ x ∈ g.owned ∧ (x.unit = u.unit → x.unit ∉ g'.retire) ∧ ¬(isCopyOf x u = true ∧ ¬winsGroup owned x u)
  ordered : g'.owned.Sublist g.owned
  losers : ∀ v, v ∈ g'.dirty ↔ v ∈ g.dirty ∨ ∃ c ∈ owned, c.unit = v ∧ isCopyOf c u = true ∧ ¬winsGroup owned c u
  retired : g'.retire = g.retire ∧ (¬∃ c ∈ owned, isCopyOf c u = true ∧ u.count ≤ c.count) ∨
    g'.retire = g.retire ++ [u.unit] ∧ ∃ c ∈ owned, isCopyOf c u = true ∧ u.count ≤ c.count
  winners : ∀ v, v ∈ g'.won ↔ v ∈ g.won ∨ (v = u.unit ∧ (∃ c ∈ owned, isCopyOf c u = true) ∧
    ∀ c ∈ owned, isCopyOf c u = true → c.count < u.count)

section

variable {owned : List Owned} {todo : List UnitId} {g : Groups} {u : Owned}

/-- Every copy of a unit whose group is still to come is still owned. -/
theorem GroupsStand.copies (h : GroupsStand owned todo g) (hd : distinctUnits owned) (hu : u ∈ g.owned) (ht : u.unit ∈ todo)
    (c : Owned) : c ∈ g.owned.filter (fun v => isCopyOf v u) ↔ c ∈ owned ∧ isCopyOf c u = true := by
  obtain ⟨huo, -, hud⟩ := (h.left u).mp hu
  rw [List.mem_filter, h.left]
  refine ⟨fun ⟨⟨hc, _⟩, hcp⟩ => ⟨hc, hcp⟩, fun ⟨hc, hcp⟩ => ⟨⟨hc, fun hr => ?_, fun hdirty => ?_⟩, hcp⟩⟩
  · obtain ⟨o, ho, he, hn, -⟩ := (h.retired _).mp hr
    obtain rfl := hd o ho c hc he
    exact (h.origins o hc hn u huo hcp).elim (fun hn => hn ht) hud
  · obtain ⟨y, hy, he, p, hp, hyp, hn, -⟩ := (h.losers _).mp hdirty
    obtain rfl := hd y hy c hc he
    exact hn (isCopyOf_unique hyp hcp ▸ ht)

/-- The copy that the choice prefers wins the group when it has the count of its origin, and no other copy does (R178). -/
theorem winsGroup_best (hd : distinctUnits owned) {l : List Owned} {v : Owned} (hl : ∀ c, c ∈ l ↔ c ∈ owned ∧ isCopyOf c u = true)
    (hv : bestOf l = some v) (c : Owned) (hc : c ∈ owned) (hcp : isCopyOf c u = true) :
    winsGroup owned c u ↔ c.unit = v.unit ∧ u.count ≤ v.count := by
  obtain ⟨hm, hb⟩ := bestOf_some hv
  obtain ⟨hvo, hvp⟩ := (hl v).mp hm
  constructor
  · rintro ⟨hle, hall⟩
    have hcv : copyBefore v c := hb c ((hl c).mpr ⟨hc, hcp⟩)
    rcases hall v hvo hvp with rfl | hlt | ⟨he, hlt⟩
    · exact ⟨rfl, hle⟩
    · unfold copyBefore at hcv
      omega
    · rw [Fin.lt_def] at hlt
      unfold copyBefore at hcv
      omega
  · rintro ⟨he, hle⟩
    obtain rfl := hd c hc v hvo he
    refine ⟨hle, fun y hy hyp => ?_⟩
    by_cases hyv : y = c
    · exact .inl hyv
    · have hne : c.unit.val ≠ y.unit.val := fun e => hyv (hd y hy c hc (Fin.ext e.symm))
      have hcy : copyBefore c y := hb y ((hl y).mpr ⟨hy, hyp⟩)
      unfold copyBefore at hcy
      rw [Fin.lt_def]
      omega

theorem settleGroup_none (h : bestOf (g.owned.filter fun v => isCopyOf v u) = none) : settleGroup u g = g := by
  unfold settleGroup
  simp only [h]

/-- The group is won by its source (R178). -/
theorem settleGroup_source {v : Owned} (h : bestOf (g.owned.filter fun v => isCopyOf v u) = some v) (hlt : v.count < u.count) :
    settleGroup u g = { g with
      owned := g.owned.filter fun x => !isCopyOf x u
      dirty := g.dirty ++ (g.owned.filter fun v => isCopyOf v u).map (·.unit)
      won := g.won ++ [u.unit] } := by
  unfold settleGroup
  simp only [h]
  exact if_pos hlt

/-- The group is won by a copy (R178). -/
theorem settleGroup_copy {v : Owned} (h : bestOf (g.owned.filter fun v => isCopyOf v u) = some v) (hle : ¬v.count < u.count) :
    settleGroup u g = { g with
      owned := g.owned.filter fun x => x.unit != u.unit && (x.unit == v.unit || !isCopyOf x u)
      retire := g.retire ++ [u.unit]
      dirty := g.dirty ++ ((g.owned.filter fun v => isCopyOf v u).filter fun x => x.unit != v.unit).map (·.unit) } := by
  unfold settleGroup
  simp only [h]
  exact if_neg hle

/-- The group of the unit that comes next is settled by what the scan found (R178). -/
theorem settleGroup_moved (h : GroupsStand owned todo g) (hd : distinctUnits owned) (hu : u ∈ g.owned) (ht : u.unit ∈ todo) :
    GroupMoved owned u g (settleGroup u g) := by
  have hl := h.copies hd hu ht
  obtain ⟨huo, hur, -⟩ := (h.left u).mp hu
  have hself : isCopyOf u u = false := by simp [isCopyOf]
  have hin : ∀ x ∈ g.owned, x ∈ owned := fun x hx => ((h.left x).mp hx).1
  cases hb : bestOf (g.owned.filter fun v => isCopyOf v u) with
  | none =>
    have hno : ∀ c ∈ owned, isCopyOf c u = true → False := fun c hc hcp =>
      absurd ((hl c).mpr ⟨hc, hcp⟩) (bestOf_none hb ▸ List.not_mem_nil)
    rw [settleGroup_none hb]
    exact
      { left := fun x => ⟨fun hx => ⟨hx, fun _ => ((h.left x).mp hx).2.1, fun ⟨hcp, _⟩ => hno x (hin x hx) hcp⟩, fun hx => hx.1⟩
        ordered := .refl _
        losers := fun v => ⟨.inl, fun hv => hv.elim id fun ⟨c, hc, _, hcp, _⟩ => (hno c hc hcp).elim⟩
        retired := .inl ⟨rfl, fun ⟨c, hc, hcp, _⟩ => hno c hc hcp⟩
        winners := fun v => ⟨.inl, fun hv => hv.elim id fun ⟨_, ⟨c, hc, hcp⟩, _⟩ => (hno c hc hcp).elim⟩ }
  | some v =>
    obtain ⟨hm, hbest⟩ := bestOf_some hb
    obtain ⟨hvo, hvp⟩ := (hl v).mp hm
    have hw := winsGroup_best hd hl hb
    by_cases hlt : v.count < u.count
    · have hall : ∀ c ∈ owned, isCopyOf c u = true → c.count < u.count := fun c hc hcp => by
        have hcv : copyBefore v c := hbest c ((hl c).mpr ⟨hc, hcp⟩)
        unfold copyBefore at hcv
        omega
      have hnw : ∀ c ∈ owned, isCopyOf c u = true → ¬winsGroup owned c u := fun c hc hcp hwin =>
        absurd ((hw c hc hcp).mp hwin).2 (by omega)
      rw [settleGroup_source hb hlt]
      exact
        { left := fun x => by
            rw [List.mem_filter, Bool.not_eq_true']
            refine ⟨fun ⟨hx, hn⟩ => ⟨hx, fun _ => ((h.left x).mp hx).2.1, fun ⟨hcp, _⟩ => ?_⟩, fun ⟨hx, _, hn⟩ => ⟨hx, ?_⟩⟩
            · rw [hn] at hcp
              cases hcp
            · exact (Bool.not_eq_true _).mp fun hcp => hn ⟨hcp, hnw x (hin x hx) hcp⟩
          ordered := List.filter_sublist
          losers := fun w => by
            rw [List.mem_append, List.mem_map]
            refine or_congr_right ⟨fun ⟨c, hc, he⟩ => ?_, fun ⟨c, hc, he, hcp, _⟩ => ⟨c, (hl c).mpr ⟨hc, hcp⟩, he⟩⟩
            obtain ⟨hc, hcp⟩ := (hl c).mp hc
            exact ⟨c, hc, he, hcp, hnw c hc hcp⟩
          retired := .inl ⟨rfl, fun ⟨c, hc, hcp, hle⟩ => absurd (hall c hc hcp) (by omega)⟩
          winners := fun w => by
            rw [List.mem_append, List.mem_singleton]
            exact or_congr_right ⟨fun e => ⟨e, ⟨v, hvo, hvp⟩, hall⟩, fun hx => hx.1⟩ }
    · have hiff : ∀ c ∈ owned, isCopyOf c u = true → (¬winsGroup owned c u ↔ c.unit ≠ v.unit) := fun c hc hcp => by
        rw [hw c hc hcp]
        exact not_congr (and_iff_left (Nat.le_of_not_lt hlt))
      rw [settleGroup_copy hb hlt]
      exact
        { left := fun x => by
            rw [List.mem_filter, Bool.and_eq_true, bne_iff_ne, Bool.or_eq_true, beq_iff_eq, Bool.not_eq_true']
            refine and_congr_right fun hx => and_congr ⟨fun hne e => absurd e hne, fun hr e => hr e ?_⟩ ?_
            · exact List.mem_append.mpr (.inr (List.mem_singleton.mpr e))
            · cases hcp : isCopyOf x u with
              | false => simp
              | true =>
                rw [hiff x (hin x hx) hcp]
                simp
          ordered := List.filter_sublist
          losers := fun w => by
            rw [List.mem_append, List.mem_map]
            refine or_congr_right ⟨fun ⟨c, hc, he⟩ => ?_, fun ⟨c, hc, he, hcp, hn⟩ => ?_⟩
            · obtain ⟨hc, hne⟩ := List.mem_filter.mp hc
              obtain ⟨hc, hcp⟩ := (hl c).mp hc
              exact ⟨c, hc, he, hcp, (hiff c hc hcp).mpr (bne_iff_ne.mp hne)⟩
            · exact ⟨c, List.mem_filter.mpr ⟨(hl c).mpr ⟨hc, hcp⟩, bne_iff_ne.mpr ((hiff c hc hcp).mp hn)⟩, he⟩
          retired := .inr ⟨rfl, v, hvo, hvp, by omega⟩
          winners := fun w => ⟨.inl, fun hx => hx.elim id fun ⟨_, _, hall⟩ => absurd (hall v hvo hvp) hlt⟩ }

/-- With the group of the next unit settled, what stands stands for the units that are left. -/
theorem GroupsStand.next (h : GroupsStand owned todo g) (hd : distinctUnits owned) (hn : nextGroup todo g = some u) :
    GroupsStand owned (todo.filter (· ≠ u.unit)) (settleGroup u g) := by
  obtain ⟨hu, ht, hfree⟩ := nextGroup_some hn
  have hm := settleGroup_moved h hd hu ht
  obtain ⟨huo, hur, hud⟩ := (h.left u).mp hu
  generalize settleGroup u g = g' at hm
  have hself : ¬isCopyOf u u = true := by simp [isCopyOf]
  have hret : ∀ v, v ∈ g'.retire ↔ v ∈ g.retire ∨
      (v = u.unit ∧ ∃ c ∈ owned, isCopyOf c u = true ∧ u.count ≤ c.count) := fun v => by
    rcases hm.retired with ⟨e, hno⟩ | ⟨e, hyes⟩
    · rw [e]
      exact ⟨.inl, fun hv => hv.elim id fun hv => absurd hv.2 hno⟩
    · rw [e, List.mem_append, List.mem_singleton]
      exact or_congr_right ⟨fun e => ⟨e, hyes⟩, fun hv => hv.1⟩
  have horig : ∀ x ∈ owned, x.unit ∉ todo ∨ x.unit = u.unit → ∀ p ∈ owned, isCopyOf x p = true →
      p.unit ∉ todo ∨ p.unit ∈ g.dirty := by
    rintro x hx (hxn | e) p hp hxp
    · exact h.origins x hx hxn p hp hxp
    · obtain rfl := hd x hx u huo e
      by_contra hc
      obtain ⟨hpt, hpd⟩ := not_or.mp hc
      have hpr : p.unit ∉ g.retire := fun hr => by
        obtain ⟨o, -, he, hon, -⟩ := (h.retired _).mp hr
        exact hpt (he ▸ hon)
      exact absurd hxp (Bool.not_eq_true _ ▸ hfree p ((h.left p).mpr ⟨hp, hpr, hpd⟩) (not_not.mp hpt))
  exact
    { left := fun x => by
        rw [hm.left, h.left, hret, hm.losers]
        refine ⟨fun ⟨⟨hx, hxr, hxd⟩, hk, hl⟩ => ⟨hx, ?_, ?_⟩,
          fun ⟨hx, hxr, hxd⟩ => ⟨⟨hx, fun hr => hxr (.inl hr), fun hr => hxd (.inl hr)⟩, ?_, ?_⟩⟩
        · exact fun hr => hr.elim hxr fun hr => hk hr.1 (.inr hr)
        · rintro (hr | ⟨c, hc, e, hcp, hnw⟩)
          · exact hxd hr
          · obtain rfl := hd c hc x hx e
            exact hl ⟨hcp, hnw⟩
        · exact fun _ hr => hxr hr
        · exact fun ⟨hcp, hnw⟩ => hxd (.inr ⟨x, hx, rfl, hcp, hnw⟩)
      ordered := hm.ordered.trans h.ordered
      losers := fun v => by
        rw [hm.losers, h.losers]
        constructor
        · rintro (⟨x, hx, e, p, hp, hxp, hpn, hnw⟩ | ⟨c, hc, e, hcp, hnw⟩)
          · exact ⟨x, hx, e, p, hp, hxp, mem_todo_filter.mpr (.inl hpn), hnw⟩
          · exact ⟨c, hc, e, u, huo, hcp, mem_todo_filter.mpr (.inr rfl), hnw⟩
        · rintro ⟨x, hx, e, p, hp, hxp, hpn, hnw⟩
          rcases mem_todo_filter.mp hpn with hpn | he
          · exact .inl ⟨x, hx, e, p, hp, hxp, hpn, hnw⟩
          · obtain rfl := hd p hp u huo he
            exact .inr ⟨x, hx, e, hxp, hnw⟩
      retired := fun v => by
        rw [hret, h.retired]
        constructor
        · rintro (⟨o, ho, e, hon, hc⟩ | ⟨e, hc⟩)
          · exact ⟨o, ho, e, mem_todo_filter.mpr (.inl hon), hc⟩
          · exact ⟨u, huo, e.symm, mem_todo_filter.mpr (.inr rfl), hc⟩
        · rintro ⟨o, ho, e, hon, hc⟩
          rcases mem_todo_filter.mp hon with hon | he
          · exact .inl ⟨o, ho, e, hon, hc⟩
          · obtain rfl := hd o ho u huo he
            exact .inr ⟨e.symm, hc⟩
      winners := fun v => by
        rw [hm.winners, h.winners]
        constructor
        · rintro (⟨o, ho, e, hon, hc⟩ | ⟨e, hc⟩)
          · exact ⟨o, ho, e, mem_todo_filter.mpr (.inl hon), hc⟩
          · exact ⟨u, huo, e.symm, mem_todo_filter.mpr (.inr rfl), hc⟩
        · rintro ⟨o, ho, e, hon, hc⟩
          rcases mem_todo_filter.mp hon with hon | he
          · exact .inl ⟨o, ho, e, hon, hc⟩
          · obtain rfl := hd o ho u huo he
            exact .inr ⟨e.symm, hc⟩
      nodup := by
        rcases hm.retired with ⟨e, -⟩ | ⟨e, -⟩
        · exact e ▸ h.nodup
        · exact e ▸ h.nodup.append (List.nodup_singleton _) (List.disjoint_singleton.mpr hur)
      settled := fun x hx hxn hxd => by
        rcases (hm.losers _).mp hxd with hr | ⟨c, hc, e, hcp, -⟩
        · rcases mem_todo_filter.mp hxn with hxn | e
          · exact h.settled x hx hxn hr
          · exact hud (e ▸ hr)
        · obtain rfl := hd c hc x hx e
          rcases mem_todo_filter.mp hxn with hxn | e
          · exact (h.origins c hx hxn u huo hcp).elim (fun hn => hn ht) hud
          · obtain rfl := hd c hx u huo e
            exact hself hcp
      origins := fun x hx hxn p hp hxp =>
        (horig x hx (mem_todo_filter.mp hxn) p hp hxp).imp (fun hn => mem_todo_filter.mpr (.inl hn)) fun hr => (hm.losers _).mpr (.inl hr) }

/-! ## Every group -/

/-- While no group comes next, every unit still to do is a copy of one still to do. -/
theorem openOrigin {x : Owned} (h : nextGroup todo g = none) (hx : x ∈ g.owned) (ht : x.unit ∈ todo) :
    ∃ p ∈ g.owned, p.unit ∈ todo ∧ isCopyOf x p = true := by
  unfold nextGroup at h
  have hany := List.find?_eq_none.mp h x (List.mem_filter.mpr ⟨hx, by simpa using ht⟩)
  rw [Bool.not_eq_true', Bool.not_eq_false, List.any_eq_true] at hany
  obtain ⟨p, hp, hxp⟩ := hany
  obtain ⟨hp, hpt⟩ := List.mem_filter.mp hp
  exact ⟨p, hp, by simpa using hpt, hxp⟩

/-- Without a circle of origins, a group is still to be settled while a unit still to do is owned. -/
theorem nextGroup_none (hc : noCircle owned) (hin : ∀ x ∈ g.owned, x ∈ owned) (h : nextGroup todo g = none) :
    ∀ x ∈ g.owned, x.unit ∉ todo := by
  obtain ⟨depth, hdepth⟩ := hc
  -- A unit still to do is a copy of another one that stands nearer to the first unit.
  have key : ∀ n, ∀ x ∈ g.owned, x.unit ∈ todo → depth x.unit ≤ n → False := by
    intro n
    induction n with
    | zero =>
      intro x hx ht hn
      obtain ⟨p, hp, -, hxp⟩ := openOrigin h hx ht
      exact absurd (hdepth x (hin x hx) p (hin p hp) hxp) (by omega)
    | succ n ih =>
      intro x hx ht hn
      obtain ⟨p, hp, hpt, hxp⟩ := openOrigin h hx ht
      have hlt := hdepth x (hin x hx) p (hin p hp) hxp
      exact ih p hp hpt (by omega)
  exact fun x hx ht => key _ x hx ht le_rfl

/-- With as many turns as units are open, every group is settled. -/
theorem settleGroups_stand (hd : distinctUnits owned) (hc : noCircle owned) (n : Nat) :
    ∀ (todo : List UnitId) (g : Groups), GroupsStand owned todo g → (g.owned.filter (fun x => todo.contains x.unit)).length ≤ n →
      ∃ done, GroupsStand owned done (settleGroups n todo g) ∧ ∀ x ∈ (settleGroups n todo g).owned, x.unit ∉ done := by
  induction n with
  | zero =>
    intro todo g h hn
    refine ⟨todo, h, fun x hx ht => ?_⟩
    have hm : x ∈ g.owned.filter (fun x => todo.contains x.unit) := List.mem_filter.mpr ⟨hx, by simpa using ht⟩
    rw [List.eq_nil_of_length_eq_zero (Nat.le_zero.mp hn)] at hm
    exact List.not_mem_nil hm
  | succ n ih =>
    intro todo g h hn
    unfold settleGroups
    cases hg : nextGroup todo g with
    | none => exact ⟨todo, h, nextGroup_none hc (fun x hx => ((h.left x).mp hx).1) hg⟩
    | some u =>
      obtain ⟨hu, ht, -⟩ := nextGroup_some hg
      refine ih _ _ (h.next hd hg) (Nat.le_of_lt_succ (Nat.lt_of_lt_of_le ?_ hn))
      have hs : ((settleGroup u g).owned.filter fun x => (todo.filter (· ≠ u.unit)).contains x.unit).Sublist
          ((g.owned.filter fun x => todo.contains x.unit).filter fun x => x.unit ≠ u.unit) := by
        have e : (fun x : Owned => decide (x.unit ≠ u.unit) && todo.contains x.unit) =
            fun x => (todo.filter (· ≠ u.unit)).contains x.unit := by
          funext x
          simp [Bool.and_comm]
        rw [List.filter_filter, e]
        exact (settleGroup_moved h hd hu ht).ordered.filter _
      refine Nat.lt_of_le_of_lt hs.length_le (List.length_filter_lt_length_iff_exists.mpr ⟨u, ?_, by simp⟩)
      exact List.mem_filter.mpr ⟨hu, by simpa using ht⟩

end

/-- A unit of the scan is still owned when its own relocation group comes to be settled, told from the groups when all are settled. -/
def Groups.stays (g : Groups) (v : UnitId) : Prop := v ∉ g.dirty

/-- What step 4 of the mount leaves (R178). -/
structure GroupsDone (owned : List Owned) (g : Groups) : Prop where
  settled : groupsSettled owned g.stays
  ordered : g.owned.Sublist owned
  leaves : ∀ o, o ∈ g.owned ↔ groupLeaves owned g.stays o
  retires : ∀ v, v ∈ g.retire ↔ ∃ o, groupRetires owned g.stays o ∧ o.unit = v
  nodup : g.retire.Nodup
  found : ∀ v ∈ g.dirty, ∃ o ∈ owned, o.unit = v
  won : ∀ o ∈ g.owned, g.won.contains o.unit = owned.any fun v => isCopyOf v o

theorem GroupsStand.finish {owned : List Owned} {todo : List UnitId} {g : Groups} (h : GroupsStand owned todo g)
    (hd : distinctUnits owned) (hdone : ∀ x ∈ g.owned, x.unit ∉ todo) : GroupsDone owned g := by
  have hstays : ∀ x ∈ owned, x.unit ∉ todo ↔ g.stays x.unit := fun x hx => by
    refine ⟨h.settled x hx, fun hs ht => ?_⟩
    by_cases hr : x.unit ∈ g.retire
    · obtain ⟨o, -, e, hn, -⟩ := (h.retired _).mp hr
      exact hn (e ▸ ht)
    · exact hdone x ((h.left x).mpr ⟨hx, hr, hs⟩) ht
  have hret : ∀ v, v ∈ g.retire ↔ ∃ o, groupRetires owned g.stays o ∧ o.unit = v := fun v => by
    rw [h.retired]
    exact ⟨fun ⟨o, ho, e, hn, hc⟩ => ⟨o, ⟨ho, (hstays o ho).mp hn, hc⟩, e⟩,
      fun ⟨o, ⟨ho, hs, hc⟩, e⟩ => ⟨o, ho, e, (hstays o ho).mpr hs, hc⟩⟩
  have hleaves : ∀ o, o ∈ g.owned ↔ groupLeaves owned g.stays o := fun o => by
    rw [h.left, hret]
    constructor
    · rintro ⟨ho, hr, hs⟩
      refine ⟨ho, hs, fun v hv hvo => ?_⟩
      by_contra hle
      exact hr ⟨o, ⟨ho, hs, v, hv, hvo, by omega⟩, rfl⟩
    · rintro ⟨ho, hs, hall⟩
      refine ⟨ho, ?_, hs⟩
      rintro ⟨y, ⟨hy, -, v, hv, hvy, hle⟩, e⟩
      obtain rfl := hd y hy o ho e
      exact absurd (hall v hv hvy) (by omega)
  exact
    { settled := fun x hx => by
        unfold Groups.stays
        rw [h.losers]
        constructor
        · intro hn p hp hxp hs
          by_contra hw
          exact hn ⟨x, hx, rfl, p, hp, hxp, (hstays p hp).mpr hs, hw⟩
        · rintro hall ⟨y, hy, e, p, hp, hyp, hpn, hw⟩
          obtain rfl := hd y hy x hx e
          exact hw (hall p hp hyp ((hstays p hp).mp hpn))
      ordered := h.ordered
      leaves := hleaves
      retires := hret
      nodup := h.nodup
      found := fun v hv => by
        obtain ⟨x, hx, e, -⟩ := (h.losers v).mp hv
        exact ⟨x, hx, e⟩
      won := fun o ho => by
        obtain ⟨hoo, hs, hall⟩ := (hleaves o).mp ho
        rw [Bool.eq_iff_iff, List.contains_iff_mem, List.any_eq_true, h.winners]
        constructor
        · rintro ⟨y, hy, e, -, hc, -⟩
          obtain rfl := hd y hy o hoo e
          exact hc
        · exact fun hc => ⟨o, hoo, rfl, (hstays o hoo).mpr hs, hc, hall⟩ }

/-- Step 4 of the mount, for an array without a circle of origins (R178). -/
theorem groupsOf_done {results : List ScanResult} (hd : distinctUnits (ownedOf results)) (hc : noCircle (ownedOf results)) :
    GroupsDone (ownedOf results) (groupsOf results) := by
  obtain ⟨done, h, hdone⟩ := settleGroups_stand hd hc (ownedOf results).length _ _ (groupsStand_start (ownedOf results))
    (List.length_filter_le ..)
  exact h.finish hd hdone

end Sys2Proof.Machine
end

section
/-!
PROOFS. Overlaps and chains of the mount (R179, R180): the sorting of owned units, the units kept, and the cut of a chain with too many gaps.
-/
-- The theorems of this file are elaborated one after another: in parallel their waiting threads exceed the memory limit of the check.
set_option Elab.async false

namespace Sys2Proof.Machine

/-! ## Sorting -/

section

variable {before : Owned → Owned → Bool}

theorem orderedInsert_perm (x : Owned) (l : List Owned) : (orderedInsert before x l).Perm (x :: l) := by
  induction l with
  | nil => exact .refl _
  | cons y l ih =>
    unfold orderedInsert
    split
    · exact .refl _
    · exact (ih.cons y).trans (.swap x y l)

theorem orderedInsert_pairwise (htrans : ∀ a b c, before a b = true → before b c = true → before a c = true) {x : Owned} {l : List Owned}
    (hl : l.Pairwise (fun a b => before a b = true)) (hx : ∀ y ∈ l, before x y = false → before y x = true) :
    (orderedInsert before x l).Pairwise (fun a b => before a b = true) := by
  induction l with
  | nil => exact List.pairwise_singleton _ _
  | cons y l ih =>
    obtain ⟨hy, hl'⟩ := List.pairwise_cons.mp hl
    unfold orderedInsert
    split
    · next h =>
      refine List.pairwise_cons.mpr ⟨fun z hz => ?_, hl⟩
      rcases List.mem_cons.mp hz with rfl | hz
      · exact h
      · exact htrans x y z h (hy z hz)
    · next h =>
      refine List.pairwise_cons.mpr ⟨fun z hz => ?_, ih hl' fun z hz => hx z (List.mem_cons_of_mem _ hz)⟩
      rcases List.mem_cons.mp ((orderedInsert_perm x l).mem_iff.mp hz) with rfl | hz
      · exact hx y List.mem_cons_self ((Bool.not_eq_true _).mp h)
      · exact hy z hz

theorem sortOwned_snoc (l : List Owned) (x : Owned) : sortOwned before (l ++ [x]) = orderedInsert before x (sortOwned before l) := by
  unfold sortOwned
  rw [List.foldl_append]
  rfl

theorem sortOwned_perm (l : List Owned) : (sortOwned before l).Perm l := by
  induction l using List.reverseRecOn with
  | nil => exact .refl _
  | append_singleton l x ih =>
    rw [sortOwned_snoc]
    exact (orderedInsert_perm x _).trans ((ih.cons x).trans (List.perm_append_singleton x l).symm)

/-- Units of which any two are in order one way or the other are sorted strictly. -/
theorem sortOwned_pairwise (htrans : ∀ a b c, before a b = true → before b c = true → before a c = true) {l : List Owned}
    (hl : l.Pairwise (fun a b => before b a = false → before a b = true)) :
    (sortOwned before l).Pairwise (fun a b => before a b = true) := by
  induction l using List.reverseRecOn with
  | nil => exact List.Pairwise.nil
  | append_singleton l x ih =>
    obtain ⟨hl, -, hx⟩ := List.pairwise_append.mp hl
    rw [sortOwned_snoc]
    exact orderedInsert_pairwise htrans (ih hl) fun y hy => hx y ((sortOwned_perm l).mem_iff.mp hy) x (List.mem_singleton_self x)

end

/-! ## Overlaps -/

theorem takenBefore_iff {a b : Owned} :
    takenBefore a b = true ↔ b.count < a.count ∨ (a.count = b.count ∧ a.unit.val < b.unit.val) := by
  simp [takenBefore]

theorem takenBefore_trans (a b c : Owned) (h1 : takenBefore a b = true) (h2 : takenBefore b c = true) : takenBefore a c = true := by
  rw [takenBefore_iff] at *
  omega

theorem takenBefore_asymm {a b : Owned} (h1 : takenBefore a b = true) (h2 : takenBefore b a = true) : False := by
  rw [takenBefore_iff] at h1 h2
  omega

theorem takenBefore_total {a b : Owned} (hne : a.unit ≠ b.unit) (h : takenBefore b a = false) : takenBefore a b = true := by
  have hv : a.unit.val ≠ b.unit.val := fun e => hne (Fin.ext e)
  have h : ¬takenBefore b a = true := (Bool.not_eq_true _).mpr h
  rw [takenBefore_iff] at *
  omega

theorem overlaps_iff {a b : Owned} :
    overlaps a b = true ↔ a.stream = b.stream ∧ a.first < b.first + b.count ∧ b.first < a.first + a.count := by
  simp [overlaps, and_assoc]

theorem overlaps_comm (a b : Owned) : overlaps a b = overlaps b a := by
  rw [Bool.eq_iff_iff, overlaps_iff, overlaps_iff]
  exact ⟨fun ⟨h1, h2, h3⟩ => ⟨h1.symm, h3, h2⟩, fun ⟨h1, h2, h3⟩ => ⟨h1.symm, h3, h2⟩⟩

/-- One unit of step 5 (R179). -/
def keepStep (acc : List Owned × List UnitId) (x : Owned) : List Owned × List UnitId :=
  if acc.1.any (overlaps x) then (acc.1, acc.2 ++ [x.unit]) else (acc.1 ++ [x], acc.2)

/-- What step 5 keeps of units in its order, and what it makes DIRTY (R179). -/
structure UnitsKept (l : List Owned) (kd : List Owned × List UnitId) : Prop where
  ordered : kd.1.Sublist l
  kept : ∀ o ∈ l, o ∈ kd.1 ↔ ∀ y ∈ kd.1, takenBefore y o = true → overlaps y o = false
  dirty : ∀ v, v ∈ kd.2 ↔ ∃ o ∈ l, o.unit = v ∧ o ∉ kd.1
  apart : kd.1.Pairwise (fun a b => overlaps a b = false)

/-- A unit that comes after every unit so far is kept, or made DIRTY, by the units kept so far. -/
theorem UnitsKept.snoc {l : List Owned} {kd : List Owned × List UnitId} {x : Owned} (h : UnitsKept l kd)
    (hx : ∀ y ∈ l, takenBefore y x = true) : UnitsKept (l ++ [x]) (keepStep kd x) := by
  obtain ⟨hsub, hkept, hdirty, hapart⟩ := h
  have hxl : x ∉ l := fun hm => takenBefore_asymm (hx x hm) (hx x hm)
  have hxk : x ∉ kd.1 := fun hm => hxl (hsub.subset hm)
  unfold keepStep
  split
  · next hany =>
    obtain ⟨y, hy, hxy⟩ := List.any_eq_true.mp hany
    refine ⟨hsub.trans (List.sublist_append_left ..), fun o ho => ?_, fun v => ?_, hapart⟩
    · rcases List.mem_append.mp ho with ho | ho
      · exact hkept o ho
      · obtain rfl := List.mem_singleton.mp ho
        refine iff_of_false hxk fun hall => ?_
        have hno := hall y hy (hx y (hsub.subset hy))
        rw [overlaps_comm, hxy] at hno
        cases hno
    · dsimp only
      rw [List.mem_append, hdirty, List.mem_singleton]
      constructor
      · rintro (⟨o, ho, e, hn⟩ | rfl)
        · exact ⟨o, List.mem_append_left _ ho, e, hn⟩
        · exact ⟨x, List.mem_append_right _ (List.mem_singleton_self x), rfl, hxk⟩
      · rintro ⟨o, ho, e, hn⟩
        rcases List.mem_append.mp ho with ho | ho
        · exact .inl ⟨o, ho, e, hn⟩
        · exact .inr (List.mem_singleton.mp ho ▸ e.symm)
  · next hany =>
    have hnone : ∀ y ∈ kd.1, overlaps y x = false := fun y hy => by
      rw [overlaps_comm]
      exact (Bool.not_eq_true _).mp fun hxy => hany (List.any_eq_true.mpr ⟨y, hy, hxy⟩)
    refine ⟨hsub.append (.refl _), fun o ho => ?_, fun v => ?_, ?_⟩
    · dsimp only
      rcases List.mem_append.mp ho with ho | ho
      · have hox : o ≠ x := fun e => hxl (e ▸ ho)
        rw [List.mem_append, List.mem_singleton, or_iff_left hox, hkept o ho]
        refine ⟨fun hall y hy hyo => ?_, fun hall y hy => hall y (List.mem_append_left _ hy)⟩
        rcases List.mem_append.mp hy with hy | hy
        · exact hall y hy hyo
        · exact (takenBefore_asymm (hx o ho) (List.mem_singleton.mp hy ▸ hyo)).elim
      · obtain rfl := List.mem_singleton.mp ho
        refine iff_of_true (List.mem_append_right _ ho) fun y hy hyo => ?_
        rcases List.mem_append.mp hy with hy | hy
        · exact hnone y hy
        · obtain rfl := List.mem_singleton.mp hy
          exact (takenBefore_asymm hyo hyo).elim
    · rw [hdirty]
      constructor
      · rintro ⟨o, ho, e, hn⟩
        refine ⟨o, List.mem_append_left _ ho, e, fun hm => ?_⟩
        rcases List.mem_append.mp hm with hm | hm
        · exact hn hm
        · exact hxl (List.mem_singleton.mp hm ▸ ho)
      · rintro ⟨o, ho, e, hn⟩
        rcases List.mem_append.mp ho with ho | ho
        · exact ⟨o, ho, e, fun hm => hn (List.mem_append_left _ hm)⟩
        · exact absurd (List.mem_append_right _ ho) hn
    · refine List.pairwise_append.mpr ⟨hapart, List.pairwise_singleton _ _, fun y hy z hz => ?_⟩
      exact List.mem_singleton.mp hz ▸ hnone y hy

theorem unitsKept_sorted {l : List Owned} (hl : l.Pairwise (fun a b => takenBefore a b = true)) :
    UnitsKept l (l.foldl keepStep ([], [])) := by
  induction l using List.reverseRecOn with
  | nil => exact ⟨.slnil, fun o ho => absurd ho List.not_mem_nil, fun v => by simp, .nil⟩
  | append_singleton l x ih =>
    obtain ⟨hl, -, hx⟩ := List.pairwise_append.mp hl
    rw [List.foldl_append]
    exact (ih hl).snoc fun y hy => hx y hy x (List.mem_singleton_self x)

/-- Step 5 of the mount, of units with numbers of their own (R179). -/
theorem keepUnits_kept {l : List Owned} (hl : l.Pairwise (fun a b => a.unit ≠ b.unit)) : UnitsKept (sortOwned takenBefore l) (keepUnits l) :=
  unitsKept_sorted (sortOwned_pairwise takenBefore_trans (hl.imp fun hne => takenBefore_total hne))

/-! ## Gaps -/

theorem gapsOf_eq_gapsIn (l : List Owned) : gapsOf l = gapsIn l := by
  induction l with
  | nil => rfl
  | cons a l ih =>
    cases l with
    | nil => rfl
    | cons b l =>
      unfold gapsOf
      rw [ih]
      unfold gapsIn
      simp only [List.tail_cons, List.zip_cons_cons, List.filterMap_cons]
      split <;> rfl

/-- The units of a chain in order, none of them empty. -/
def inChainOrder (l : List Owned) : Prop := l.Pairwise (fun a b => a.first < b.first) ∧ ∀ o ∈ l, 1 ≤ o.count

theorem gapsOf_cons (a b : Owned) : ∃ p, (∀ l, gapsOf (a :: b :: l) = p ++ gapsOf (b :: l)) ∧
    (p = [] ∨ a.first + a.count < b.first ∧ p = [⟨a.first + a.count, b.first - (a.first + a.count)⟩]) := by
  by_cases h : a.first + a.count < b.first
  · exact ⟨[⟨a.first + a.count, b.first - (a.first + a.count)⟩], fun l => if_pos h, .inr ⟨h, rfl⟩⟩
  · exact ⟨[], fun l => if_neg h, .inl rfl⟩

/-- A chain splits in two at the gap `g`, with the gaps `G1` before it and `G2` behind it. -/
def splitsAt (g : Gap) (G1 G2 : List Gap) (l : List Owned) : Prop :=
  ∃ A B, l = A ++ B ∧ A ≠ [] ∧ gapsOf A = G1 ∧ gapsOf B = G2 ∧ (∀ o ∈ A, o.first < g.first) ∧ ∀ o ∈ B, g.first ≤ o.first

/-- A chain splits at each of its gaps. -/
theorem gapsOf_split {g : Gap} {G2 : List Gap} {l : List Owned} (hl : inChainOrder l) : ∀ {G1 : List Gap}, gapsOf l = G1 ++ g :: G2 →
    splitsAt g G1 G2 l := by
  induction l with
  | nil => exact fun h => absurd h.symm (List.append_ne_nil_of_right_ne_nil _ nofun)
  | cons a l ih =>
    intro G1 h
    obtain ⟨hfirst, hcount⟩ := hl
    obtain ⟨ha, hfirst⟩ := List.pairwise_cons.mp hfirst
    cases l with
    | nil => exact absurd h.symm (List.append_ne_nil_of_right_ne_nil _ nofun)
    | cons b l =>
      obtain ⟨p, hp, hcase⟩ := gapsOf_cons a b
      have hab := ha b List.mem_cons_self
      have later : ∀ G, G1 = p ++ G → gapsOf (b :: l) = G ++ g :: G2 → splitsAt g G1 G2 (a :: b :: l) := fun G hG hrest => by
        obtain ⟨A, B, e, hA, hgA, hgB, hlt, hle⟩ := ih ⟨hfirst, fun o ho => hcount o (List.mem_cons_of_mem _ ho)⟩ hrest
        obtain ⟨b', A, rfl⟩ := List.exists_cons_of_ne_nil hA
        obtain ⟨rfl, e⟩ := List.cons.inj e
        refine ⟨a :: b :: A, B, by rw [e]; rfl, nofun, by rw [hp, hgA, hG], hgB, fun o ho => ?_, hle⟩
        rcases List.mem_cons.mp ho with rfl | ho
        · exact lt_trans hab (hlt b List.mem_cons_self)
        · exact hlt o ho
      rw [hp] at h
      rcases hcase with rfl | ⟨hgap, rfl⟩
      · exact later G1 rfl h
      · cases G1 with
        | cons g1 G =>
          obtain ⟨rfl, hrest⟩ := List.cons.inj h
          exact later G rfl hrest
        | nil =>
          obtain ⟨rfl, hrest⟩ := List.cons.inj h
          refine ⟨[a], b :: l, rfl, nofun, rfl, hrest, fun o ho => ?_, fun o ho => ?_⟩
          · obtain rfl := List.mem_singleton.mp ho
            have hpos := hcount o List.mem_cons_self
            dsimp only
            omega
          · rcases List.mem_cons.mp ho with rfl | ho
            · exact le_of_lt hgap
            · exact le_of_lt (lt_trans hgap ((List.pairwise_cons.mp hfirst).1 o ho))

/-- Step 6 cuts a chain in order as R180 says, and tells its gaps and the units that leave it (assumption 13). -/
theorem trimChain_cut {l : List Owned} (hl : inChainOrder l) : ∃ gone, chainCut l gone (trimChain l).1 ∧
    (trimChain l).2.1 = gapsIn (trimChain l).1 ∧ (trimChain l).2.2 = gone.map (·.unit) := by
  by_cases hg : maxGaps < (gapsOf l).length
  · obtain ⟨g, G2, hG⟩ : ∃ g G2, (gapsOf l).drop ((gapsOf l).length - maxGaps) = g :: G2 :=
      List.exists_cons_of_ne_nil fun h => by
        have := List.drop_eq_nil_iff.mp h
        have : 0 < maxGaps := by decide
        omega
    have hlen : (g :: G2).length = 4 := by
      rw [← hG, List.length_drop]
      have : maxGaps = 4 := rfl
      omega
    have hsplit := List.take_append_drop ((gapsOf l).length - maxGaps) (gapsOf l)
    rw [hG] at hsplit
    obtain ⟨A, B, rfl, -, hA, hB, hlt, hle⟩ := gapsOf_split hl hsplit.symm
    have ht : trimChain (A ++ B) = (B, gapsOf B, A.map (·.unit)) := by
      have hstay : (A ++ B).filter (fun x => decide (g.first ≤ x.first)) = B := by
        rw [List.filter_append, List.filter_eq_nil_iff.mpr fun o ho => by simpa using hlt o ho,
          List.filter_eq_self.mpr fun o ho => by simpa using hle o ho]
        rfl
      have hgone : (A ++ B).filter (fun x => decide (x.first < g.first)) = A := by
        rw [List.filter_append, List.filter_eq_self.mpr fun o ho => by simpa using hlt o ho,
          List.filter_eq_nil_iff.mpr fun o ho => by simpa using hle o ho, List.append_nil]
      unfold trimChain
      dsimp only
      rw [if_pos hg, hG]
      dsimp only
      rw [hstay, hgone]
    rw [ht]
    refine ⟨A, ⟨rfl, ?_⟩, gapsOf_eq_gapsIn B, rfl⟩
    rw [← gapsOf_eq_gapsIn, ← gapsOf_eq_gapsIn, ← gapsOf_eq_gapsIn, hB]
    rw [List.length_cons] at hlen
    have : maxGaps = 4 := rfl
    rw [if_neg (by omega)]
    refine ⟨by omega, ?_⟩
    rw [hA, List.length_take]
    omega
  · have ht : trimChain l = (l, gapsOf l, []) := if_neg hg
    rw [ht]
    refine ⟨[], ⟨rfl, ?_⟩, gapsOf_eq_gapsIn l, rfl⟩
    rw [gapsOf_eq_gapsIn] at hg
    exact (if_pos (Nat.le_of_not_lt hg) ▸ rfl)

end Sys2Proof.Machine
end

section
/-!
PROOFS. The map that the mount leaves (R180, R181): what each of its steps does to the units, the chains, the streams and the lists.
-/
-- The theorems of this file are elaborated one after another: in parallel their waiting threads exceed the memory limit of the check.
set_option Elab.async false

namespace Sys2Proof.Machine

/-! ## Units that change one after another -/

/-- From `s` to `t` the unit of each `a` of the list becomes what `F a` makes of it, and every other unit stays. -/
def unitsBecome {α : Type} (l : List α) (key : α → UnitId) (F : α → UnitRec → UnitRec) (s t : State) : Prop :=
  (∀ a ∈ l, t.unit (key a) = F a (s.unit (key a))) ∧ ∀ v, (∀ a ∈ l, key a ≠ v) → t.unit v = s.unit v

theorem unitsBecome_foldl {α : Type} {f : State → α → State} {key : α → UnitId} {F : α → UnitRec → UnitRec}
    (hf : ∀ s a, (f s a).map.units = vset s.map.units (key a) (F a (s.unit (key a)))) {l : List α}
    (hl : l.Pairwise (fun a b => key a ≠ key b)) (s : State) : unitsBecome l key F s (l.foldl f s) := by
  induction l generalizing s with
  | nil => exact ⟨fun a ha => absurd ha List.not_mem_nil, fun _ _ => rfl⟩
  | cons a l ih =>
    obtain ⟨ha, hl⟩ := List.pairwise_cons.mp hl
    obtain ⟨hin, hout⟩ := ih hl (f s a)
    have hself : (f s a).unit (key a) = F a (s.unit (key a)) := by
      unfold State.unit
      rw [hf]
      exact vget_vset_self ..
    have hother : ∀ v, key a ≠ v → (f s a).unit v = s.unit v := fun v hv => by
      unfold State.unit
      rw [hf]
      exact vget_vset_ne _ _ hv
    refine ⟨fun b hb => ?_, fun v hv => ?_⟩
    · rcases List.mem_cons.mp hb with rfl | hb
      · exact (hout _ fun c hc => (ha c hc).symm).trans hself
      · exact (hin b hb).trans (congrArg (F b) (hother _ (ha b hb)))
    · exact (hout v fun b hb => hv b (List.mem_cons_of_mem _ hb)).trans (hother v (hv a List.mem_cons_self))

/-- What keeps the erase count of the units that become something else keeps the erase count of every unit. -/
theorem unitsBecome.eraseCount {α : Type} {l : List α} {key : α → UnitId} {F : α → UnitRec → UnitRec} {s t : State}
    (h : unitsBecome l key F s t) (hF : ∀ a r, (F a r).eraseCount = r.eraseCount) (v : UnitId) :
    (t.unit v).eraseCount = (s.unit v).eraseCount := by
  by_cases hv : ∃ a ∈ l, key a = v
  · obtain ⟨a, ha, rfl⟩ := hv
    rw [h.1 a ha, hF]
  · rw [h.2 v fun a ha e => hv ⟨a, ha, e⟩]

/-! ## The units retired -/

/-- The units of a list are retired before the device is READY (R40, R178). -/
theorem retireFold_eq (l : List UnitId) {s : State} (hd : s.ctl.device = .mounting) :
    ∃ units set c n, l.foldl (fun s u => retire u s) s = { s with
      map := { s.map with units := units, retiredSet := set, retiredCount := s.map.retiredCount + l.length }
      ctl := { s.ctl with ckptPending := c }
      notices := n } ∧
    (∀ v, v ∈ l ∨ v ∈ s.map.retiredSet → v ∈ set) ∧
    (l ≠ [] ∨ (s.ctl.ckptPending = true ∧ s.notices.pendingSet.getLsbD 7 = true) → c = true ∧ n.pendingSet.getLsbD 7 = true) := by
  induction l generalizing s with
  | nil => exact ⟨_, _, _, _, rfl, fun v hv => hv.resolve_left List.not_mem_nil, fun h => h.resolve_left fun h => h rfl⟩
  | cons a l ih =>
    have hr : retire a s = retireRecord a s := retire_plain (.inr (by rw [hd]; nofun))
    obtain ⟨units, set, c, n, he, hset, hb⟩ := ih (s := retireRecord a s) hd
    refine ⟨units, set, c, n, ?_, fun v hv => hset v ?_, fun _ => hb (.inr ⟨rfl, retireRecord_pendingSet a s⟩)⟩
    · rw [List.foldl_cons, hr, he, List.length_cons, Nat.add_comm l.length 1, ← Nat.add_assoc]
      rfl
    · rcases hv with hv | hv
      · exact (List.mem_cons.mp hv).elim (fun e => .inr (e ▸ mem_retiredInsert a _)) .inl
      · exact .inr (mem_retiredInsert_of_mem a hv)

theorem retireFold_units {l : List UnitId} (hl : l.Nodup) (s : State) :
    unitsBecome l id (fun _ => unitOut .retired) s (l.foldl (fun s u => retire u s) s) :=
  unitsBecome_foldl (fun s u => congrArg UnitMap.units (retire_facts u s).1) hl s

/-! ## The chains -/

theorem chainRecord_eq (won last : Bool) (o : Owned) (r : UnitRec) : chainRecord r won last o = mountedUnit won last o r.eraseCount := rfl

/-- The stream record that the mount leaves for a chain (R181). -/
def mountedStream (a z : Owned) (gaps : List Gap) : StreamRec :=
  { StreamRec.undefined with
    state := .dormant
    basePage := a.first
    endPage := min (z.first + z.count) 0xFFFFFFFF
    runNumber := z.lastRun
    gaps := gaps }

/-- The units of chain `c` are set, the last of them as such (R180). -/
def chainUnits (won : List UnitId) (c : List Owned) (o : Owned) (r : UnitRec) : UnitRec :=
  mountedUnit (won.contains o.unit) (decide (c.getLast? = some o)) o r.eraseCount

section

variable {won : List UnitId}

theorem buildStream_empty (gaps : List Gap) (st : StreamId) (s : State) : buildStream won [] gaps st s = s := rfl

theorem chainUnitsFold_eq {f : Owned → State → UnitRec} (l : List Owned) (s : State) :
    ∃ units, l.foldl (fun s o => s.setUnit o.unit (f o s)) s = { s with map := { s.map with units := units } } := by
  induction l generalizing s with
  | nil => exact ⟨_, rfl⟩
  | cons o l ih =>
    obtain ⟨units, he⟩ := ih (s.setUnit o.unit (f o s))
    exact ⟨units, he⟩

/-- One stream that has units is built (R180, R181). -/
theorem buildStream_facts {c : List Owned} {a z : Owned} (ha : c.head? = some a) (hz : c.getLast? = some z)
    (hc : c.Pairwise (fun a b => a.unit ≠ b.unit)) (gaps : List Gap) (st : StreamId) (s : State) :
    (∃ units, buildStream won c gaps st s = { s with
      map := { s.map with units := units, chains := vset s.map.chains st (c.map (·.unit)) }
      streams := vset s.streams st (mountedStream a z gaps) }) ∧
    unitsBecome c (·.unit) (chainUnits won c) s (buildStream won c gaps st s) := by
  have hb : buildStream won c gaps st s = ((c.foldl (fun s o => s.setUnit o.unit
      (chainRecord (s.unit o.unit) (won.contains o.unit) (o.unit == z.unit) o)) s).setChain st (c.map (·.unit))).setStream st
        (mountedStream a z gaps) := by
    unfold buildStream
    rw [ha, hz]
    rfl
  have hu : unitsBecome c (·.unit) (fun o r => chainRecord r (won.contains o.unit) (o.unit == z.unit) o) s (buildStream won c gaps st s) := by
    rw [hb]
    exact unitsBecome_foldl
      (f := fun s o => s.setUnit o.unit (chainRecord (s.unit o.unit) (won.contains o.unit) (o.unit == z.unit) o))
      (F := fun o r => chainRecord r (won.contains o.unit) (o.unit == z.unit) o)
      (fun _ _ => rfl) hc s
  refine ⟨?_, fun o ho => (hu.1 o ho).trans ?_, hu.2⟩
  · obtain ⟨units, he⟩ := chainUnitsFold_eq (f := fun o s => chainRecord (s.unit o.unit) (won.contains o.unit) (o.unit == z.unit) o) c s
    refine ⟨units, ?_⟩
    rw [hb, he]
    rfl
  · have hzm : z ∈ c := List.mem_of_getLast? hz
    have hlast : (o.unit == z.unit) = decide (c.getLast? = some o) := by
      rw [hz, Bool.eq_iff_iff, beq_iff_eq, decide_eq_true_iff, Option.some.injEq]
      refine ⟨fun e => ?_, fun e => e ▸ rfl⟩
      have hsymm : Std.Symm (fun a b : Owned => a.unit ≠ b.unit) := ⟨fun _ _ h => h.symm⟩
      by_contra hne
      exact absurd e.symm (hc.forall hzm ho hne)
    exact (chainRecord_eq ..).trans (congrArg (fun b => mountedUnit (won.contains o.unit) b o (s.unit o.unit).eraseCount) hlast)

/-- Every stream of the list is built (R180, R181). -/
def buildStreams (won : List UnitId) (C : StreamId → List Owned) (G : StreamId → List Gap) (l : List StreamId) (s : State) : State :=
  l.foldl (fun s st => buildStream won (C st) (G st) st s) s

/-- The units of the chains have numbers of their own, and each its own stream. -/
structure ChainsApart (C : StreamId → List Owned) : Prop where
  stream : ∀ f, ∀ o ∈ C f, o.stream = f
  units : ∀ f g, ∀ a ∈ C f, ∀ b ∈ C g, a.unit = b.unit → a = b
  nodup : ∀ f, (C f).Pairwise (fun a b => a.unit ≠ b.unit)

theorem ChainsApart.ne {C : StreamId → List Owned} (h : ChainsApart C) {f g : StreamId} (hne : f ≠ g) {a b : Owned} (ha : a ∈ C f)
    (hb : b ∈ C g) : a.unit ≠ b.unit := fun e => by
  obtain rfl := h.units f g a ha b hb e
  exact hne ((h.stream f a ha).symm.trans (h.stream g a hb))

/-- What the building of streams leaves (R180, R181). -/
structure StreamsBuilt (won : List UnitId) (C : StreamId → List Owned) (G : StreamId → List Gap) (l : List StreamId) (s t : State) : Prop where
  frame : ∃ units chains streams, t = { s with map := { s.map with units := units, chains := chains }, streams := streams }
  units : ∀ f ∈ l, ∀ o ∈ C f, t.unit o.unit = chainUnits won (C f) o (s.unit o.unit)
  others : ∀ v, (∀ f ∈ l, ∀ o ∈ C f, o.unit ≠ v) → t.unit v = s.unit v
  built : ∀ f ∈ l, ∀ a z, (C f).head? = some a → (C f).getLast? = some z →
    t.chain f = (C f).map (·.unit) ∧ t.stream f = mountedStream a z (G f)
  left : ∀ f, f ∉ l ∨ C f = [] → t.chain f = s.chain f ∧ t.stream f = s.stream f

theorem StreamsBuilt.cons {C : StreamId → List Owned} {G : StreamId → List Gap} (hC : ChainsApart C) {st : StreamId} {l : List StreamId}
    (hst : st ∉ l) {s t : State} (h : StreamsBuilt won C G l (buildStream won (C st) (G st) st s) t) :
    StreamsBuilt won C G (st :: l) s t := by
  by_cases hn : C st = []
  · rw [hn, buildStream_empty] at h
    have hin : ∀ {f : StreamId} {o : Owned}, f ∈ st :: l → o ∈ C f → f ∈ l := fun hf ho =>
      (List.mem_cons.mp hf).resolve_left fun e => by
        rw [e, hn] at ho
        exact List.not_mem_nil ho
    exact
      { frame := h.frame
        units := fun f hf o ho => h.units f (hin hf ho) o ho
        others := fun v hv => h.others v fun f hf => hv f (List.mem_cons_of_mem _ hf)
        built := fun f hf a z ha hz => h.built f (hin hf (List.mem_of_getLast? hz)) a z ha hz
        left := fun f hf => h.left f (by
          by_cases e : f = st
          · exact .inr (e ▸ hn)
          · exact hf.imp (fun hf hm => hf (List.mem_cons_of_mem _ hm)) id) }
  · obtain ⟨a, c, hac⟩ := List.exists_cons_of_ne_nil hn
    have ha : (C st).head? = some a := by rw [hac]; rfl
    have hz := List.getLast?_eq_some_getLast hn
    obtain ⟨⟨units, he⟩, hin, hout⟩ := buildStream_facts (won := won) ha hz (hC.nodup st) (G st) st s
    generalize buildStream won (C st) (G st) st s = x at h he hin hout
    have hchain : x.chain st = (C st).map (·.unit) := by
      unfold State.chain
      rw [he]
      exact vget_vset_self ..
    have hstream : x.stream st = mountedStream a ((C st).getLast hn) (G st) := by
      unfold State.stream
      rw [he]
      exact vget_vset_self ..
    have hother : ∀ f, f ≠ st → x.chain f = s.chain f ∧ x.stream f = s.stream f := fun f hf => by
      unfold State.chain State.stream
      rw [he]
      exact ⟨vget_vset_ne _ _ hf.symm, vget_vset_ne _ _ hf.symm⟩
    exact
      { frame := by
          obtain ⟨U, ch, S, e⟩ := h.frame
          exact ⟨U, ch, S, by rw [e, he]⟩
        units := fun f hf o ho => by
          by_cases e : f = st
          · subst e
            exact (h.others o.unit fun g hg b hb => hC.ne (ne_of_mem_of_not_mem hg hst) hb ho).trans (hin o ho)
          · have hx : x.unit o.unit = s.unit o.unit := hout _ fun b hb => hC.ne (Ne.symm e) hb ho
            exact (h.units f ((List.mem_cons.mp hf).resolve_left e) o ho).trans (congrArg _ hx)
        others := fun v hv => (h.others v fun f hf => hv f (List.mem_cons_of_mem _ hf)).trans (hout v (hv st List.mem_cons_self))
        built := fun f hf b z hb hz' => by
          by_cases e : f = st
          · subst e
            obtain rfl : a = b := Option.some.inj (ha.symm.trans hb)
            obtain rfl : (C f).getLast hn = z := Option.some.inj (hz.symm.trans hz')
            obtain ⟨h1, h2⟩ := h.left f (.inl hst)
            exact ⟨h1.trans hchain, h2.trans hstream⟩
          · exact h.built f ((List.mem_cons.mp hf).resolve_left e) b z hb hz'
        left := fun f hf => by
          have hne : f ≠ st := fun e => hf.elim (fun hf => hf (e ▸ List.mem_cons_self)) fun hf => hn (e ▸ hf)
          obtain ⟨h1, h2⟩ := h.left f (hf.imp (fun hf hm => hf (List.mem_cons_of_mem _ hm)) id)
          obtain ⟨h3, h4⟩ := hother f hne
          exact ⟨h1.trans h3, h2.trans h4⟩ }

theorem buildStreams_built {C : StreamId → List Owned} (hC : ChainsApart C) (G : StreamId → List Gap) {l : List StreamId} (hl : l.Nodup)
    (s : State) : StreamsBuilt won C G l s (buildStreams won C G l s) := by
  induction l generalizing s with
  | nil =>
    exact
      { frame := ⟨_, _, _, rfl⟩
        units := fun f hf => absurd hf List.not_mem_nil
        others := fun _ _ => rfl
        built := fun f hf => absurd hf List.not_mem_nil
        left := fun _ _ => ⟨rfl, rfl⟩ }
  | cons st l ih =>
    obtain ⟨hst, hl⟩ := List.nodup_cons.mp hl
    exact .cons hC hst (ih hl _)

theorem StreamsBuilt.eraseCount {C : StreamId → List Owned} {G : StreamId → List Gap} {l : List StreamId} {s t : State}
    (h : StreamsBuilt won C G l s t) (v : UnitId) : (t.unit v).eraseCount = (s.unit v).eraseCount := by
  by_cases hv : ∃ f ∈ l, ∃ o ∈ C f, o.unit = v
  · obtain ⟨f, hf, o, ho, rfl⟩ := hv
    rw [h.units f hf o ho]
    rfl
  · rw [h.others v fun f hf o ho e => hv ⟨f, hf, o, ho, e⟩]

end

/-! ## The free list -/

theorem freeBefore_of_counts {m m' : UnitMap} (h : ∀ v, (vget m.units v).eraseCount = (vget m'.units v).eraseCount) (u v : UnitId) :
    freeBefore m u v = freeBefore m' u v := by
  unfold freeBefore
  rw [h, h]

theorem freeBefore_iff {m : UnitMap} {u v : UnitId} : freeBefore m u v = true ↔
    (vget m.units u).eraseCount < (vget m.units v).eraseCount ∨
      ((vget m.units u).eraseCount = (vget m.units v).eraseCount ∧ u.val < v.val) := by
  simp [freeBefore]

/-- A list in the order of the free list (R29). -/
def inFreeOrder (m : UnitMap) (l : List UnitId) : Prop := l.Pairwise (fun a b => freeBefore m b a = false)

theorem freeInsert_ordered {m : UnitMap} (u : UnitId) {l : List UnitId} (h : inFreeOrder m l) : inFreeOrder m (freeInsert m u l) := by
  obtain ⟨b, a, rfl, he, hb, ha⟩ := freeInsert_split m u l
  rw [he]
  obtain ⟨hpb, hpa, hcross⟩ := List.pairwise_append.mp h
  have key : ∀ x ∈ a, freeBefore m u x = true := fun x hx => by
    cases a with
    | nil => exact absurd hx List.not_mem_nil
    | cons y l =>
      have hy := ha y l rfl
      rcases List.mem_cons.mp hx with rfl | hx
      · exact hy
      · have hxy : ¬freeBefore m x y = true := (Bool.not_eq_true _).mpr ((List.pairwise_cons.mp hpa).1 x hx)
        rw [freeBefore_iff] at *
        omega
  refine List.pairwise_append.mpr ⟨hpb, List.pairwise_cons.mpr ⟨fun x hx => ?_, hpa⟩, fun x hx y hy => ?_⟩
  · refine (Bool.not_eq_true _).mp fun hxu => ?_
    have hux := key x hx
    rw [freeBefore_iff] at hux hxu
    omega
  · rcases List.mem_cons.mp hy with rfl | hy
    · exact (Bool.not_eq_true _).mp (hb x hx)
    · exact hcross x hx y hy

theorem freeInsert_perm (m : UnitMap) (u : UnitId) (l : List UnitId) : (freeInsert m u l).Perm (l ++ [u]) := by
  obtain ⟨b, a, rfl, he, -⟩ := freeInsert_split m u l
  rw [he, List.append_assoc]
  exact (List.perm_append_singleton u a).symm.append_left b

theorem setUnit_eraseCount {u : UnitId} {r : UnitRec} {s : State} (h : r.eraseCount = (s.unit u).eraseCount) (v : UnitId) :
    ((s.setUnit u r).unit v).eraseCount = (s.unit v).eraseCount := by
  unfold State.setUnit State.unit
  by_cases hv : u = v
  · subst hv
    rw [vget_vset_self]
    exact h
  · rw [vget_vset_ne _ _ hv]

/-- The units of a list become FREE (R29, R181). -/
theorem insertFold_eq (l : List UnitId) (s : State) : ∃ units free, l.foldl (fun s u => insertFree u s) s =
      { s with map := { s.map with units := units, freeList := free } } ∧
    free.Perm (s.map.freeList ++ l) ∧ ∀ m : UnitMap, (∀ v, (vget m.units v).eraseCount = (s.unit v).eraseCount) →
      inFreeOrder m s.map.freeList → inFreeOrder m free := by
  induction l generalizing s with
  | nil => exact ⟨_, _, rfl, by rw [List.append_nil], fun _ _ h => h⟩
  | cons u l ih =>
    obtain ⟨units, free, he, hp, ho⟩ := ih (insertFree u s)
    refine ⟨units, free, he, ?_, fun m hm h => ho m (fun v => (hm v).trans ?_) ?_⟩
    · exact hp.trans (((freeInsert_perm _ u s.map.freeList).append_right l).trans (by rw [List.append_assoc]; rfl))
    · exact (setUnit_eraseCount (s := s) (u := u) (r := (s.unit u).clear .free) rfl v).symm
    · have hm' : ∀ x y, freeBefore (s.setUnit u ((s.unit u).clear .free)).map x y = freeBefore m x y := freeBefore_of_counts fun v =>
        (setUnit_eraseCount (s := s) (u := u) (r := (s.unit u).clear .free) rfl v).trans (hm v).symm
      have hi : inFreeOrder (s.setUnit u ((s.unit u).clear .free)).map s.map.freeList := by
        unfold inFreeOrder
        simp only [hm']
        exact h
      have hr := freeInsert_ordered u hi
      unfold inFreeOrder at hr
      simp only [hm'] at hr
      exact hr

theorem insertFold_units {l : List UnitId} (hl : l.Nodup) (s : State) :
    unitsBecome l id (fun _ => unitOut .free) s (l.foldl (fun s u => insertFree u s) s) :=
  unitsBecome_foldl (fun _ _ => rfl) hl s

/-! ## The dirty list -/

theorem appendFold_eq (l : List UnitId) (s : State) : ∃ units, l.foldl (fun s u => appendDirty u s) s =
    { s with map := { s.map with units := units, dirtyList := s.map.dirtyList ++ l } } := by
  induction l generalizing s with
  | nil => exact ⟨_, by rw [List.append_nil]; rfl⟩
  | cons u l ih =>
    obtain ⟨units, he⟩ := ih (appendDirty u s)
    refine ⟨units, he.trans ?_⟩
    have e : (appendDirty u s).map.dirtyList ++ l = s.map.dirtyList ++ u :: l := List.append_assoc s.map.dirtyList [u] l
    rw [e]
    rfl

theorem appendFold_units {l : List UnitId} (hl : l.Nodup) (s : State) :
    unitsBecome l id (fun _ => unitOut .dirty) s (l.foldl (fun s u => appendDirty u s) s) :=
  unitsBecome_foldl (fun _ _ => rfl) hl s

end Sys2Proof.Machine
end

section
/-!
PROOFS. The end of the mount (R174, R178 to R181): the state that its steps leave when they take different units,
and what the scan has found.
-/
-- The theorems of this file are elaborated one after another: in parallel their waiting threads exceed the memory limit of the check.
set_option Elab.async false

namespace Sys2Proof.Machine

/-! ## The steps that move the map -/

/-- The map of the mount: the units of `retired` are retired, each stream `f` gets the chain `chain f`, the units of `free` become FREE and
those of `dirty` DIRTY (R178, R180, R181). -/
def mountMap (won : List UnitId) (chain : StreamId → List Owned) (gaps : StreamId → List Gap) (retired free dirty : List UnitId) (s : State) :
    State :=
  dirty.foldl (fun s u => appendDirty u s) (free.foldl (fun s u => insertFree u s)
    (buildStreams won chain gaps allStreams (retired.foldl (fun s u => retire u s) s)))

/-- The steps of the mount take different units. -/
structure PlacesApart (chain : StreamId → List Owned) (retired free dirty : List UnitId) : Prop where
  chains : ChainsApart chain
  retiredNodup : retired.Nodup
  freeNodup : free.Nodup
  dirtyNodup : dirty.Nodup
  retired_chain : ∀ f, ∀ o ∈ chain f, o.unit ∉ retired
  free_chain : ∀ f, ∀ o ∈ chain f, o.unit ∉ free
  dirty_chain : ∀ f, ∀ o ∈ chain f, o.unit ∉ dirty
  retired_free : ∀ v ∈ retired, v ∉ free
  retired_dirty : ∀ v ∈ retired, v ∉ dirty
  free_dirty : ∀ v ∈ free, v ∉ dirty

/-- What the steps of the mount leave of the map (R178, R180, R181). -/
structure MapSettled (won : List UnitId) (chain : StreamId → List Owned) (gaps : StreamId → List Gap) (retired free dirty : List UnitId)
    (s t : State) : Prop where
  frame : ∃ units set c n chains streams list, t = { s with
      map := { s.map with
        units := units
        chains := chains
        freeList := list
        dirtyList := s.map.dirtyList ++ dirty
        retiredSet := set
        retiredCount := s.map.retiredCount + retired.length }
      streams := streams
      ctl := { s.ctl with ckptPending := c }
      notices := n }
  retiredSet : ∀ v ∈ retired, v ∈ t.map.retiredSet ∧ t.ctl.ckptPending = true ∧ t.notices.pendingSet.getLsbD 7 = true
  freeList : t.map.freeList.Perm (s.map.freeList ++ free)
  freeOrder : inFreeOrder s.map s.map.freeList → inFreeOrder t.map t.map.freeList
  empty : ∀ f, chain f = [] → t.chain f = s.chain f ∧ t.stream f = s.stream f
  built : ∀ f a z, (chain f).head? = some a → (chain f).getLast? = some z →
    t.chain f = (chain f).map (·.unit) ∧ t.stream f = mountedStream a z (gaps f)
  chainUnits : ∀ f, ∀ o ∈ chain f, t.unit o.unit = chainUnits won (chain f) o (s.unit o.unit)
  retiredUnits : ∀ v ∈ retired, t.unit v = unitOut .retired (s.unit v)
  freeUnits : ∀ v ∈ free, t.unit v = unitOut .free (s.unit v)
  dirtyUnits : ∀ v ∈ dirty, t.unit v = unitOut .dirty (s.unit v)
  others : ∀ v, v ∉ retired → v ∉ free → v ∉ dirty → (∀ f, ∀ o ∈ chain f, o.unit ≠ v) → t.unit v = s.unit v

/-- A unit that is not in the list stays. -/
theorem unitsBecome.left {F : UnitId → UnitRec → UnitRec} {l : List UnitId} {s t : State} (h : unitsBecome l id F s t) {v : UnitId}
    (hv : v ∉ l) : t.unit v = s.unit v := h.2 v fun _ ha e => hv (e ▸ ha)

theorem mountMap_settled {won : List UnitId} {chain : StreamId → List Owned} (gaps : StreamId → List Gap) {retired free dirty : List UnitId}
    (h : PlacesApart chain retired free dirty) {s : State} (hd : s.ctl.device = .mounting) :
    MapSettled won chain gaps retired free dirty s (mountMap won chain gaps retired free dirty s) := by
  unfold mountMap
  obtain ⟨U1, set, c, n, e1, hset, hc⟩ := retireFold_eq retired hd
  have u1 := retireFold_units h.retiredNodup s
  generalize retired.foldl (fun s u => retire u s) s = s1 at e1 u1 ⊢
  have b2 := buildStreams_built (won := won) h.chains gaps (by decide : allStreams.Nodup) s1
  generalize buildStreams won chain gaps allStreams s1 = s2 at b2 ⊢
  obtain ⟨U2, ch, S, e2⟩ := b2.frame
  obtain ⟨U3, list, e3, hperm, hord⟩ := insertFold_eq free s2
  have u3 := insertFold_units h.freeNodup s2
  generalize free.foldl (fun s u => insertFree u s) s2 = s3 at e3 u3 ⊢
  obtain ⟨U4, e4⟩ := appendFold_eq dirty s3
  have u4 := appendFold_units h.dirtyNodup s3
  generalize dirty.foldl (fun s u => appendDirty u s) s3 = t at e4 u4 ⊢
  have hcount : ∀ v, (s2.unit v).eraseCount = (s.unit v).eraseCount := fun v =>
    (b2.eraseCount v).trans (u1.eraseCount (fun _ _ => rfl) v)
  have hcount' : ∀ v, (t.unit v).eraseCount = (s2.unit v).eraseCount := fun v =>
    (u4.eraseCount (fun _ _ => rfl) v).trans (u3.eraseCount (fun _ _ => rfl) v)
  have hlist : t.map.freeList = list := by rw [e4, e3]
  have hlist2 : s2.map.freeList = s.map.freeList := by rw [e2, e1]
  have hchain : ∀ f, t.chain f = s2.chain f := fun f => by
    rw [e4, e3]
    rfl
  have hstream : ∀ f, t.stream f = s2.stream f := fun f => by
    rw [e4, e3]
    rfl
  have hunit2 : ∀ v, v ∉ free → v ∉ dirty → t.unit v = s2.unit v := fun v hf hd => (u4.left hd).trans (u3.left hf)
  exact
    { frame := ⟨U4, set, c, n, ch, S, list, by rw [e4, e3, e2, e1]⟩
      retiredSet := fun v hv => by
        obtain ⟨hc, hn⟩ := hc (.inl (List.ne_nil_of_mem hv))
        rw [e4, e3, e2, e1]
        exact ⟨hset v (.inl hv), hc, hn⟩
      freeList := by
        rw [hlist, ← hlist2]
        exact hperm
      freeOrder := fun ho => by
        rw [hlist]
        refine hord t.map hcount' ?_
        rw [hlist2]
        unfold inFreeOrder at *
        simp only [freeBefore_of_counts (m := t.map) (m' := s.map) fun v => (hcount' v).trans (hcount v)]
        exact ho
      empty := fun f hf => by
        obtain ⟨h1, h2⟩ := b2.left f (.inr hf)
        rw [hchain, hstream, h1, h2, e1]
        exact ⟨rfl, rfl⟩
      built := fun f a z ha hz => by
        rw [hchain, hstream]
        exact b2.built f (mem_allStreams f) a z ha hz
      chainUnits := fun f o ho => by
        rw [hunit2 _ (h.free_chain f o ho) (h.dirty_chain f o ho), b2.units f (mem_allStreams f) o ho, u1.left (h.retired_chain f o ho)]
      retiredUnits := fun v hv => by
        rw [hunit2 _ (h.retired_free v hv) (h.retired_dirty v hv), b2.others v fun f _ o ho e => h.retired_chain f o ho (e ▸ hv)]
        exact u1.1 v hv
      freeUnits := fun v hv => by
        rw [u4.left (h.free_dirty v hv), ← u1.left (fun hr => h.retired_free v hr hv),
          ← b2.others v fun f _ o ho e => h.free_chain f o ho (e ▸ hv)]
        exact u3.1 v hv
      dirtyUnits := fun v hv => by
        rw [← u1.left (fun hr => h.retired_dirty v hr hv), ← b2.others v fun f _ o ho e => h.dirty_chain f o ho (e ▸ hv),
          ← u3.left fun hf => h.free_dirty v hf hv]
        exact u4.1 v hv
      others := fun v hr hf hdv hch => by
        rw [hunit2 v hf hdv, b2.others v fun f _ o ho => hch f o ho, u1.left hr] }

/-! ## What the scan has found -/

theorem ownedIn_eq (l : List ScanResult) : ownedIn l = ownedOf l := by
  unfold ownedIn ownedOf
  refine List.filterMap_congr fun r _ => ?_
  cases r <;> rfl

theorem mem_ownedOf {l : List ScanResult} {o : Owned} : o ∈ ownedOf l ↔ .owned o ∈ l := by
  unfold ownedOf
  rw [List.mem_filterMap]
  constructor
  · rintro ⟨r, hr, h⟩
    cases r with
    | owned p => exact Option.some.inj h ▸ hr
    | free v => cases h
    | dirty v => cases h
  · exact fun h => ⟨_, h, rfl⟩

theorem mem_freeOf {l : List ScanResult} {v : UnitId} : v ∈ freeOf l ↔ .free v ∈ l := by
  unfold freeOf
  rw [List.mem_filterMap]
  constructor
  · rintro ⟨r, hr, h⟩
    cases r with
    | free w => exact Option.some.inj h ▸ hr
    | owned p => cases h
    | dirty w => cases h
  · exact fun h => ⟨_, h, rfl⟩

theorem mem_dirtyOf {l : List ScanResult} {v : UnitId} : v ∈ dirtyOf l ↔ .dirty v ∈ l := by
  unfold dirtyOf
  rw [List.mem_filterMap]
  constructor
  · rintro ⟨r, hr, h⟩
    cases r with
    | dirty w => exact Option.some.inj h ▸ hr
    | owned p => cases h
    | free w => cases h
  · exact fun h => ⟨_, h, rfl⟩

theorem freeOf_eq (l : List ScanResult) : (l.filter (fun y => y == .free y.about)).map (·.about) = freeOf l := by
  induction l with
  | nil => rfl
  | cons y l ih =>
    have hcons : freeOf (y :: l) = freeOf [y] ++ freeOf l := List.filterMap_append (l := [y])
    rw [hcons, ← ih]
    cases y with
    | free v => rw [List.filter_cons_of_pos (by simp [ScanResult.about])]; rfl
    | dirty v => rw [List.filter_cons_of_neg (by simp)]; rfl
    | owned o => rw [List.filter_cons_of_neg (by simp)]; rfl

/-- Results of the scan in unit order, about data units, the owned ones with a valid page (R174, R177). -/
structure FoundOk (found : List ScanResult) : Prop where
  ordered : (found.map ScanResult.about).Pairwise (· < ·)
  data : ∀ y ∈ found, 2 ≤ y.about.val
  pages : ∀ o, .owned o ∈ found → 1 ≤ o.count

/-- What a read settles is about the unit it is of, and an owned unit has a valid page (R176, R177). -/
theorem foundBy_about {s : State} {sc : Scan} {res : ReadResult} {u : UnitId} {x : ScanResult} (hs : s.ctl.scan = some sc)
    (hok : s.scanOk = true) (hf : foundBy sc.pos res = some (u, x)) :
    x.about = u ∧ 2 ≤ u.val ∧ (∀ y ∈ sc.results, y.about < u) ∧ ∀ o, x = .owned o → 1 ≤ o.count := by
  have hbefore : ∀ u : UnitId, (decide (2 ≤ u.val) && sc.results.all (fun x => decide (x.about < u))) = true →
      2 ≤ u.val ∧ ∀ y ∈ sc.results, y.about < u := fun u h => by
    simpa using h
  unfold State.scanOk at hok
  rw [hs, Option.all_some] at hok
  obtain ⟨-, hok⟩ := Bool.and_eq_true_iff.mp hok
  generalize sc.pos = pos at hok hf
  cases pos with
  | header k => cases hf
  | commit k hdr => cases hf
  | entry k hdr cmt got => cases hf
  | slot0 v => cases hf
  | slot63 v r0 =>
    unfold foundBy at hf
    dsimp only at hf
    split at hf
    · cases hf
    · cases hf
      obtain ⟨h2, hall⟩ := hbefore _ hok
      exact ⟨rfl, h2, hall, nofun⟩
  | count v r0 r63 k run =>
    obtain ⟨hb, hk⟩ := Bool.and_eq_true_iff.mp hok
    obtain ⟨h2, hall⟩ := hbefore _ hb
    have hk : 1 ≤ k := of_decide_eq_true hk
    unfold foundBy at hf
    dsimp only at hf
    split at hf
    · cases hf
    · split at hf
      · split at hf
        · cases hf
        · split at hf
          · cases hf
            exact ⟨rfl, h2, hall, fun o e => by cases e; exact Nat.le_of_ble_eq_true rfl⟩
          · cases hf
            exact ⟨rfl, h2, hall, fun o e => by cases e; exact Nat.le_of_ble_eq_true rfl⟩
      · cases hf
        exact ⟨rfl, h2, hall, fun o e => by cases e; exact hk⟩
  | blank v k =>
    unfold foundBy at hf
    dsimp only at hf
    obtain ⟨h2, hall⟩ := hbefore _ hok
    split at hf
    · cases hf
      exact ⟨rfl, h2, hall, nofun⟩
    · split at hf
      · cases hf
      · cases hf
        exact ⟨rfl, h2, hall, nofun⟩

theorem foundOk_of_scanOk {s : State} {sc : Scan} {res : ReadResult} {u : UnitId} {x : ScanResult} (hs : s.ctl.scan = some sc)
    (hok : s.scanOk = true) (hf : foundBy sc.pos res = some (u, x)) : FoundOk (sc.results ++ [x]) := by
  obtain ⟨hx, h2, hall, hpage⟩ := foundBy_about hs hok hf
  unfold State.scanOk at hok
  rw [hs, Option.all_some] at hok
  obtain ⟨hok, -⟩ := Bool.and_eq_true_iff.mp hok
  obtain ⟨hsort, hres⟩ := Bool.and_eq_true_iff.mp hok
  have hres : ∀ y ∈ sc.results, _ := List.all_eq_true.mp hres
  refine ⟨?_, fun y hy => ?_, fun o ho => ?_⟩
  · rw [List.map_append, List.map_singleton]
    refine List.pairwise_append.mpr ⟨of_decide_eq_true hsort, List.pairwise_singleton _ _, fun v hv w hw => ?_⟩
    obtain ⟨y, hy, rfl⟩ := List.mem_map.mp hv
    rw [List.mem_singleton.mp hw, hx]
    exact hall y hy
  · rcases List.mem_append.mp hy with hy | hy
    · exact of_decide_eq_true (Bool.and_eq_true_iff.mp (hres y hy)).1
    · rw [List.mem_singleton.mp hy, hx]
      exact h2
  · rcases List.mem_append.mp ho with ho | ho
    · exact of_decide_eq_true (Bool.and_eq_true_iff.mp (hres _ ho)).2
    · exact hpage o (List.mem_singleton.mp ho).symm

section

variable {found : List ScanResult} (h : FoundOk found)
include h

/-- The scan has found each unit once. -/
theorem FoundOk.once {y z : ScanResult} (hy : y ∈ found) (hz : z ∈ found) (e : y.about = z.about) : y = z := by
  have hp : found.Pairwise (fun a b => a.about ≠ b.about) := (List.pairwise_map.mp h.ordered).imp fun hlt => ne_of_lt hlt
  have hsymm : Std.Symm (fun a b : ScanResult => a.about ≠ b.about) := ⟨fun _ _ h => h.symm⟩
  by_contra hne
  exact hp.forall hy hz hne e

theorem FoundOk.distinct : distinctUnits (ownedOf found) := fun _ ha _ hb e =>
  ScanResult.owned.inj (h.once (mem_ownedOf.mp ha) (mem_ownedOf.mp hb) e)

/-- What is picked out of the results, each for its unit, stands for units of its own. -/
theorem FoundOk.pairwise {α : Type} {f : ScanResult → Option α} {key : α → UnitId} (hf : ∀ y a, f y = some a → y.about = key a) :
    (found.filterMap f).Pairwise (fun a b => key a ≠ key b) := by
  refine List.pairwise_filterMap.mpr ((List.pairwise_map.mp h.ordered).imp fun hlt _ ha _ hb => ?_)
  exact hf _ _ ha ▸ hf _ _ hb ▸ ne_of_lt hlt

theorem FoundOk.ownedPairwise : (ownedOf found).Pairwise (fun a b => a.unit ≠ b.unit) := by
  refine h.pairwise fun y a ha => ?_
  cases y with
  | owned p => exact congrArg Owned.unit (Option.some.inj ha)
  | free w => cases ha
  | dirty w => cases ha

theorem FoundOk.freeNodup : (freeOf found).Nodup := by
  refine h.pairwise (key := id) fun y a ha => ?_
  cases y with
  | free p => exact Option.some.inj ha
  | owned w => cases ha
  | dirty w => cases ha

end

end Sys2Proof.Machine
end

section
/-!
PROOFS. The units that each step of the mount takes, and the end of the mount (R174, R178 to R181).
-/
-- The theorems of this file are elaborated one after another: in parallel their waiting threads exceed the memory limit of the check.
set_option Elab.async false

namespace Sys2Proof.Machine

/-! ## What each step takes -/

/-- The units that step 5 keeps (R179). -/
def keptOf (found : List ScanResult) : List Owned := (keepUnits (groupsOf found).owned).1

/-- A stream's units in chain order, before the cut of step 6 (R180). -/
def sortedChain (kept : List Owned) (st : StreamId) : List Owned :=
  sortOwned (fun a b => a.first < b.first) (kept.filter (fun o => o.stream = st))

/-- A stream's chain after the mount (R180). -/
def mountedChain (found : List ScanResult) (st : StreamId) : List Owned := (streamChain (keptOf found) st).1

/-- The gaps of a stream's chain after the mount (R180). -/
def mountedGaps (found : List ScanResult) (st : StreamId) : List Gap := (streamChain (keptOf found) st).2.1

/-- The units that the mount makes DIRTY, in unit order (R178 to R181). -/
def mountedDirty (found : List ScanResult) : List UnitId :=
  dataUnits.filter (fun u => (dirtyOf found ++ (groupsOf found).dirty ++ (keepUnits (groupsOf found).owned).2 ++
    allStreams.flatMap (fun st => (streamChain (keptOf found) st).2.2)).contains u)

/-- Steps 4 to 8 of the mount by what they take (R178 to R181). -/
theorem settleMount_eq (found : List ScanResult) (s : State) :
    settleMount found s = leaveMounting (mountMap (groupsOf found).won (mountedChain found) (mountedGaps found) (groupsOf found).retire
      (freeOf found) (mountedDirty found) s) := by
  unfold settleMount mountMap buildStreams buildDirty mountedDirty
  simp only [List.foldl_map, List.flatMap_map]
  rfl

theorem mem_mountedDirty {found : List ScanResult} {v : UnitId} : v ∈ mountedDirty found ↔ 2 ≤ v.val ∧
    (v ∈ dirtyOf found ∨ v ∈ (groupsOf found).dirty ∨ v ∈ (keepUnits (groupsOf found).owned).2 ∨
      ∃ st, v ∈ (streamChain (keptOf found) st).2.2) := by
  unfold mountedDirty
  rw [List.mem_filter, mem_dataUnits, List.contains_iff_mem, List.mem_append, List.mem_append, List.mem_append, List.mem_flatMap, or_assoc,
    or_assoc]
  exact and_congr_right fun _ => or_congr_right (or_congr_right (or_congr_right
    ⟨fun ⟨st, _, hv⟩ => ⟨st, hv⟩, fun ⟨st, hv⟩ => ⟨st, mem_allStreams st, hv⟩⟩))

/-- Units of one stream that are kept begin at different pages, so that a chain is in order (R179, R180). -/
theorem sortedChain_ordered {kept : List Owned} (hapart : kept.Pairwise (fun a b => overlaps a b = false)) (hpages : ∀ o ∈ kept, 1 ≤ o.count)
    (st : StreamId) : inChainOrder (sortedChain kept st) := by
  refine ⟨?_, fun o ho => hpages o (List.mem_of_mem_filter ((sortOwned_perm _).mem_iff.mp ho))⟩
  have hsorted := sortOwned_pairwise (before := fun a b : Owned => decide (a.first < b.first)) (l := kept.filter (fun o => o.stream = st))
    (fun a b c h1 h2 => by simp only [decide_eq_true_eq] at *; omega) ?_
  · exact hsorted.imp of_decide_eq_true
  · refine (hapart.filter _).imp_of_mem fun {a b} ha hb hov => ?_
    obtain ⟨ha, hsa⟩ := List.mem_filter.mp ha
    obtain ⟨hb, hsb⟩ := List.mem_filter.mp hb
    have hs : a.stream = b.stream := (of_decide_eq_true hsa).trans (of_decide_eq_true hsb).symm
    have hno : ¬overlaps a b = true := (Bool.not_eq_true _).mpr hov
    rw [overlaps_iff] at hno
    have hca := hpages a ha
    have hcb := hpages b hb
    intro hba
    have hba := of_decide_eq_false hba
    refine decide_eq_true ?_
    by_contra hab
    exact hno ⟨hs, by omega, by omega⟩

/-- What the steps of the mount take, for the chains' units `gone` that the cut takes away (R178 to R181). -/
structure MountTakes (found : List ScanResult) (gone : StreamId → List Owned) : Prop where
  groups : GroupsDone (ownedOf found) (groupsOf found)
  keptNodup : (keptOf found).Nodup
  kept : ∀ o, o ∈ keptOf found ↔ groupLeaves (ownedOf found) (groupsOf found).stays o ∧
    ∀ y ∈ keptOf found, takenBefore y o = true → overlaps y o = false
  chains : ∀ f, inChainOrder (sortedChain (keptOf found) f) ∧ chainCut (sortedChain (keptOf found) f) (gone f) (mountedChain found f) ∧
    mountedGaps found f = gapsIn (mountedChain found f)
  dirty : ∀ v, v ∈ mountedDirty found ↔ .dirty v ∈ found ∨ ∃ o ∈ ownedOf found, o.unit = v ∧
    (¬(groupsOf found).stays v ∨ (groupLeaves (ownedOf found) (groupsOf found).stays o ∧ o ∉ keptOf found) ∨ ∃ f, o ∈ gone f)

theorem mem_sortedChain {kept : List Owned} {st : StreamId} {o : Owned} : o ∈ sortedChain kept st ↔ o ∈ kept ∧ o.stream = st := by
  unfold sortedChain
  rw [(sortOwned_perm _).mem_iff, List.mem_filter, decide_eq_true_iff]

theorem mountTakes {found : List ScanResult} (h : FoundOk found) (hc : noCircle (ownedOf found)) : ∃ gone, MountTakes found gone := by
  have hg := groupsOf_done h.distinct hc
  have hpair : (groupsOf found).owned.Pairwise (fun a b => a.unit ≠ b.unit) := h.ownedPairwise.sublist hg.ordered
  have hk := keepUnits_kept hpair
  have hsort : ∀ o, o ∈ sortOwned takenBefore (groupsOf found).owned ↔ groupLeaves (ownedOf found) (groupsOf found).stays o := fun o =>
    (sortOwned_perm _).mem_iff.trans (hg.leaves o)
  have hleaves : ∀ o ∈ keptOf found, groupLeaves (ownedOf found) (groupsOf found).stays o := fun o ho =>
    (hsort o).mp (hk.ordered.subset ho)
  have hpages : ∀ o ∈ keptOf found, 1 ≤ o.count := fun o ho => h.pages o (mem_ownedOf.mp (hleaves o ho).1)
  have hord := sortedChain_ordered hk.apart hpages
  choose gone hcut hgaps hgone using fun f => trimChain_cut (hord f)
  have hkept : ∀ f, ∀ o ∈ gone f, o ∈ keptOf found := fun f o ho =>
    (mem_sortedChain.mp ((hcut f).1 ▸ List.mem_append_left _ ho)).1
  have hnodup : (groupsOf found).owned.Nodup := hpair.imp fun hne e => hne (congrArg Owned.unit e)
  refine ⟨gone, hg, ((sortOwned_perm _).nodup_iff.mpr hnodup).sublist hk.ordered, fun o => ?_,
    fun f => ⟨hord f, hcut f, hgaps f⟩, fun v => ?_⟩
  · exact ⟨fun ho => ⟨hleaves o ho, (hk.kept o (hk.ordered.subset ho)).mp ho⟩, fun ⟨hl, hall⟩ => (hk.kept o ((hsort o).mpr hl)).mpr hall⟩
  · have hstream : (∃ st, v ∈ (streamChain (keptOf found) st).2.2) ↔ ∃ f, ∃ o ∈ gone f, o.unit = v :=
      exists_congr fun f => (show (streamChain (keptOf found) f).2.2 = _ from hgone f) ▸ List.mem_map
    have hdirty : v ∈ (keepUnits (groupsOf found).owned).2 ↔
        ∃ o, groupLeaves (ownedOf found) (groupsOf found).stays o ∧ o.unit = v ∧ o ∉ keptOf found := by
      rw [hk.dirty]
      exact exists_congr fun o => and_congr_left fun _ => hsort o
    rw [mem_mountedDirty, mem_dirtyOf, hstream, hdirty]
    constructor
    · rintro ⟨-, hv | hv | ⟨o, hl, e, hn⟩ | ⟨f, o, ho, e⟩⟩
      · exact .inl hv
      · obtain ⟨o, ho, e⟩ := hg.found v hv
        exact .inr ⟨o, ho, e, .inl fun hs => hs hv⟩
      · exact .inr ⟨o, hl.1, e, .inr (.inl ⟨hl, hn⟩)⟩
      · exact .inr ⟨o, (hleaves o (hkept f o ho)).1, e, .inr (.inr ⟨f, ho⟩)⟩
    · rintro (hv | ⟨o, ho, rfl, hcase⟩)
      · exact ⟨h.data _ hv, .inl hv⟩
      · refine ⟨h.data _ (mem_ownedOf.mp ho), .inr ?_⟩
        rcases hcase with hs | ⟨hl, hn⟩ | ⟨f, hf⟩
        · exact .inl (not_not.mp hs)
        · exact .inr (.inl ⟨o, hl, rfl, hn⟩)
        · exact .inr (.inr ⟨f, o, hf, rfl⟩)

section

variable {found : List ScanResult} {gone : StreamId → List Owned} (ht : MountTakes found gone)
include ht

theorem MountTakes.mem_chain {f : StreamId} {o : Owned} (ho : o ∈ mountedChain found f) : o ∈ keptOf found ∧ o.stream = f :=
  mem_sortedChain.mp ((ht.chains f).2.1.1 ▸ List.mem_append_right _ ho)

theorem MountTakes.leaves {f : StreamId} {o : Owned} (ho : o ∈ mountedChain found f) :
    groupLeaves (ownedOf found) (groupsOf found).stays o := ((ht.kept o).mp (ht.mem_chain ho).1).1

/-- A unit of a chain is not one that the cut takes away. -/
theorem MountTakes.not_gone {f g : StreamId} {o : Owned} (ho : o ∈ mountedChain found f) : o ∉ gone g := fun hg => by
  obtain ⟨-, hof⟩ := ht.mem_chain ho
  obtain ⟨hord, hcut, -⟩ := ht.chains g
  obtain ⟨-, hog⟩ := mem_sortedChain.mp (hcut.1 ▸ List.mem_append_left _ hg)
  obtain rfl : f = g := hof.symm.trans hog
  have hlt := (List.pairwise_append.mp (hcut.1 ▸ hord.1)).2.2 o hg o ho
  exact lt_irrefl _ hlt

theorem MountTakes.retired_owned {v : UnitId} (hv : v ∈ (groupsOf found).retire) : ∃ o, .owned o ∈ found ∧ o.unit = v := by
  obtain ⟨o, ⟨ho, -, -⟩, e⟩ := (ht.groups.retires v).mp hv
  exact ⟨o, mem_ownedOf.mp ho, e⟩

theorem MountTakes.leaves_of_gone {f : StreamId} {o : Owned} (ho : o ∈ gone f) : groupLeaves (ownedOf found) (groupsOf found).stays o :=
  ((ht.kept o).mp (mem_sortedChain.mp ((ht.chains f).2.1.1 ▸ List.mem_append_left _ ho)).1).1

/-- What a step takes, the scan has found. -/
theorem MountTakes.taken_found {v : UnitId} (hv : ∀ y ∈ found, y.about ≠ v) : v ∉ (groupsOf found).retire ∧ v ∉ freeOf found ∧
    v ∉ mountedDirty found ∧ ∀ f, ∀ o ∈ mountedChain found f, o.unit ≠ v := by
  refine ⟨fun hr => ?_, fun hf => hv _ (mem_freeOf.mp hf) rfl, fun hd => ?_, fun f o ho => hv _ (mem_ownedOf.mp (ht.leaves ho).1)⟩
  · obtain ⟨o, ho, e⟩ := ht.retired_owned hr
    exact hv _ ho e
  · rcases (ht.dirty _).mp hd with hd | ⟨y, hy, e, -⟩
    · exact hv _ hd rfl
    · exact hv _ (mem_ownedOf.mp hy) e

variable (h : FoundOk found)
include h

theorem MountTakes.chainsApart : ChainsApart (mountedChain found) where
  stream _ _ ho := (ht.mem_chain ho).2
  units _ _ a ha b hb e := h.distinct a (ht.leaves ha).1 b (ht.leaves hb).1 e
  nodup f := by
    obtain ⟨hord, hcut, -⟩ := ht.chains f
    have hp := (List.pairwise_append.mp (hcut.1 ▸ hord.1)).2.1
    exact hp.imp_of_mem fun ha hb hlt e => ne_of_lt hlt (congrArg Owned.first (h.distinct _ (ht.leaves ha).1 _ (ht.leaves hb).1 e))

/-- A unit that leaves step 4 is no unit that it retires. -/
theorem MountTakes.not_retired {o : Owned} (ho : groupLeaves (ownedOf found) (groupsOf found).stays o) : o.unit ∉ (groupsOf found).retire :=
  fun hr => by
    obtain ⟨y, ⟨hy, -, v, hv, hvy, hle⟩, e⟩ := (ht.groups.retires _).mp hr
    obtain rfl := h.distinct y hy o ho.1 e
    exact absurd (ho.2.2 v hv hvy) (by omega)

/-- The steps of the mount take each unit once. -/
theorem MountTakes.apart : PlacesApart (mountedChain found) (groupsOf found).retire (freeOf found) (mountedDirty found) where
  chains := ht.chainsApart h
  retiredNodup := ht.groups.nodup
  freeNodup := h.freeNodup
  dirtyNodup := (dataUnits_sorted.filter _).imp fun hlt => ne_of_lt hlt
  retired_chain _ _ ho := ht.not_retired h (ht.leaves ho)
  free_chain _ o ho hf := nomatch h.once (mem_ownedOf.mp (ht.leaves ho).1) (mem_freeOf.mp hf) rfl
  dirty_chain f o ho hd := by
    rcases (ht.dirty _).mp hd with hd | ⟨y, hy, e, hcase⟩
    · exact nomatch h.once (mem_ownedOf.mp (ht.leaves ho).1) hd rfl
    · obtain rfl := h.distinct y hy o (ht.leaves ho).1 e
      rcases hcase with hs | ⟨-, hn⟩ | ⟨g, hg⟩
      · exact hs (ht.leaves ho).2.1
      · exact hn (ht.mem_chain ho).1
      · exact ht.not_gone ho hg
  retired_free v hv hf := by
    obtain ⟨o, ho, rfl⟩ := ht.retired_owned hv
    exact nomatch h.once ho (mem_freeOf.mp hf) rfl
  retired_dirty v hv hd := by
    obtain ⟨o, ho, rfl⟩ := ht.retired_owned hv
    rcases (ht.dirty _).mp hd with hd | ⟨y, hy, e, hcase⟩
    · exact nomatch h.once ho hd rfl
    · obtain ⟨z, ⟨-, hs, -⟩, ez⟩ := (ht.groups.retires _).mp hv
      rcases hcase with hns | ⟨hl, -⟩ | ⟨g, hg⟩
      · exact hns (ez ▸ hs)
      · exact ht.not_retired h hl (e.symm ▸ hv)
      · exact ht.not_retired h (ht.leaves_of_gone hg) (e.symm ▸ hv)
  free_dirty v hf hd := by
    rcases (ht.dirty _).mp hd with hd | ⟨y, hy, rfl, -⟩
    · exact nomatch h.once (mem_freeOf.mp hf) hd rfl
    · exact nomatch h.once (mem_freeOf.mp hf) (mem_ownedOf.mp hy) rfl

end

end Sys2Proof.Machine
end

section
/-!
PROOFS. The happening of the scan's last read (R181).
-/
-- The theorems of this file are elaborated one after another: in parallel their waiting threads exceed the memory limit of the check.
set_option Elab.async false

namespace Sys2Proof.Machine

/-- The mount is left: the map, the streams and the rest of the controller stay (R181). -/
theorem leaveMounting_eq (s : State) : ∃ n, leaveMounting s = { s with
      ctl := { s.ctl with device := if 48 ≤ s.map.retiredCount then .worn else .ready, scan := none }
      notices := n } ∧
    n.pendingSet.getLsbD 0 = true ∧ (s.notices.pendingSet.getLsbD 7 = true → n.pendingSet.getLsbD 7 = true) := by
  refine ⟨_, rfl, raise_bit .mountDone _ _, fun h => ?_⟩
  exact (Kept.raise (Kept.refl s) .mountDone _).pendingSet h

/-- The last read of the scan settles the map (R174). -/
theorem exec_lastRead {c : Instr} {res : ReadResult} {s : State} {op : Operation} {sc : Scan} {u : UnitId} {x : ScanResult}
    (hr : s.running = true) (ho : s.engine.op = some op) (hk : op.kind = .read) (hq : op.requester = .mountStep)
    (hs : s.ctl.scan = some sc) (hres : scanRead c op s res) (hf : foundBy sc.pos res = some (u, x))
    (hn : nothingToScan s.map (u.val + 1)) : exec c s = .next (settle s ((settleMount (sc.results ++ [x]) s).setOp none)) := by
  rw [exec_scanRead hr ho hk hq hres, scanReadEnd_found hs hf]
  unfold finishUnit
  rw [scanFrom_nothing hn]
  rfl

/-- Settles O57, by the units that each step of the mount takes (`mountTakes`), which are all apart, and by what the steps do to them
(`mountMap_settled`). -/
theorem mountSettlesTheMap : Obligations.MountSettlesTheMap := by
  intro c res s op sc u x hr ho hk hq hs hd hok hres hf hn found owned hc
  have hfound : FoundOk found := foundOk_of_scanOk hs hok hf
  have howned : owned = ownedOf found := ownedIn_eq found
  have hexec : exec c s = .next (settle s ((settleMount found s).setOp none)) := exec_lastRead hr ho hk hq hs hres hf hn
  clear_value found owned
  subst howned
  obtain ⟨gone, ht⟩ := mountTakes hfound hc
  have hm := mountMap_settled (won := (groupsOf found).won) (mountedGaps found) (ht.apart hfound) hd
  rw [settleMount_eq] at hexec
  generalize mountMap _ _ _ _ _ _ s = t at hm hexec
  obtain ⟨n, hl, hn0, hn7⟩ := leaveMounting_eq t
  rw [hl] at hexec
  obtain ⟨U, set, b, n', ch, S, list, he⟩ := hm.frame
  refine ⟨_, (groupsOf found).stays, keptOf found, sortedChain (keptOf found), gone, mountedChain found, (groupsOf found).retire,
    mountedDirty found, hexec, ⟨ht.groups.settled, ht.groups.nodup, ht.groups.retires⟩, ⟨ht.keptNodup, ht.kept⟩,
    fun f => ⟨sortOwned_perm _, (ht.chains f).1.1, (ht.chains f).2.1⟩, ⟨dataUnits_sorted.filter _, ht.dirty⟩, hm.empty,
    fun f a z ha hz => ?_, fun f o hof => ?_, fun v hv => ?_, hm.dirtyUnits, fun v hv => hm.freeUnits v (mem_freeOf.mpr hv), fun v hv => ?_,
    ?_, ?_, ?_, hm.freeOrder, rfl, rfl, hn0, ?_⟩
  · obtain ⟨hch, hst⟩ := hm.built f a z ha hz
    rw [(ht.chains f).2.2] at hst
    exact ⟨hch, hst⟩
  · obtain ⟨hko, -⟩ := ht.mem_chain hof
    have hwon := ht.groups.won o ((ht.groups.leaves o).mpr (ht.leaves hof))
    refine (hm.chainUnits f o hof).trans ?_
    unfold chainUnits
    rw [hwon]
  · obtain ⟨hset, hpend, hbit⟩ := hm.retiredSet v hv
    exact ⟨hm.retiredUnits v hv, hset, hpend, hn7 hbit⟩
  · obtain ⟨hr, hf, hd, hch⟩ := ht.taken_found hv
    exact hm.others v hr hf hd hch
  · exact (congrArg (fun t => t.map.dirtyList) he :)
  · exact (congrArg (fun t => t.map.retiredCount) he :)
  · rw [freeOf_eq]
    exact hm.freeList
  · rw [he]
    exact ⟨rfl, rfl, rfl, rfl, rfl, rfl, rfl, rfl, rfl, rfl, rfl⟩

end Sys2Proof.Machine
end

section
/-!
PROOFS. The invariants of the window, the backlog, the timers, the lanes and the device state (R71, R86, R165, R195, R204), each by what it is
about, and what the operations of the blocks (`Moves`) leave of each.
-/
-- The theorems of this file are elaborated one after another: in parallel their waiting threads exceed the memory limit of the check.
set_option Elab.async false

namespace Sys2Proof.Machine

/-! ## The invariants by what they are about -/

/-- The tags of the outstanding requests, in the order of the request table (R195). -/
def State.tags (s : State) : List Byte := s.link.requests.map (·.tag)

theorem windowOk_iff {s : State} : s.windowOk = true ↔ s.tags.length ≤ 4 ∧ s.tags.Nodup ∧ 0 ∉ s.tags := by
  simp [State.windowOk, State.tags, and_assoc]

theorem windowOk_congr {s t : State} (h : t.tags = s.tags) : t.windowOk = s.windowOk := by
  rw [Bool.eq_iff_iff, windowOk_iff, windowOk_iff, h]

theorem backlogOk_iff {s : State} : s.backlogOk = true ↔
    s.notices.backlog.length ≤ 16 ∧ (s.notices.overflow = true → s.notices.backlog.length = 16) := by
  unfold State.backlogOk
  cases s.notices.overflow <;> simp

theorem backlogOk_congr {s t : State} (hb : t.notices.backlog = s.notices.backlog) (ho : t.notices.overflow = s.notices.overflow) :
    t.backlogOk = s.backlogOk := by
  unfold State.backlogOk
  rw [hb, ho]

/-- The remaining ticks of a timer are right (R86, R87, R89). -/
def Timer.ticksOk (r : Timer) : Prop := if r.running = true then 1 ≤ r.remaining ∧ r.remaining ≤ r.period else r.remaining = 0

theorem mem_allTimers (n : TimerId) : n ∈ allTimers := by
  revert n
  decide

theorem timersOk_iff {s : State} : s.timersOk = true ↔ ∀ n, (s.timer n).ticksOk := by
  have h : ∀ n, (if (s.timer n).running = true then decide (1 ≤ (s.timer n).remaining ∧ (s.timer n).remaining ≤ (s.timer n).period)
      else (s.timer n).remaining == 0) = true ↔ (s.timer n).ticksOk := fun n => by
    unfold Timer.ticksOk
    split <;> simp
  unfold State.timersOk
  rw [List.all_eq_true]
  exact ⟨fun ha n => (h n).mp (ha n (mem_allTimers n)), fun ha n _ => (h n).mpr (ha n)⟩

theorem timersOk_congr {s t : State} (h : t.triggers.timers = s.triggers.timers) : t.timersOk = s.timersOk := by
  unfold State.timersOk State.timer
  rw [h]

/-- Each lane listens exactly while a stream holds a configuration that names it (R71). -/
def lanesBound (s : State) : Prop := ∀ l, (s.lane l).listening = isBound s l

theorem mem_allLanes (l : LaneId) : l ∈ allLanes := by
  revert l
  decide

theorem bindingOk_iff {s : State} :
    s.bindingOk = true ↔ lanesBound s ∧ (s.ctl.scan = none ∨ ∀ f, (s.stream f).config = none) := by
  have h1 : (allLanes.all fun l => (s.lane l).listening == isBound s l) = true ↔ lanesBound s := by
    rw [List.all_eq_true]
    exact ⟨fun h l => beq_iff_eq.mp (h l (mem_allLanes l)), fun h l _ => beq_iff_eq.mpr (h l)⟩
  have h2 : (allStreams.all fun f => (s.stream f).config.isNone) = true ↔ ∀ f, (s.stream f).config = none := by
    rw [List.all_eq_true]
    exact ⟨fun h f => Option.isNone_iff_eq_none.mp (h f (mem_allStreams f)), fun h f _ => Option.isNone_iff_eq_none.mpr (h f)⟩
  unfold State.bindingOk
  rw [Bool.and_eq_true, Bool.or_eq_true, h1, h2, Option.isNone_iff_eq_none]

theorem isBound_congr {s t : State} (h : ∀ f, (t.stream f).config = (s.stream f).config) (l : LaneId) : isBound t l = isBound s l := by
  unfold isBound
  simp only [h]

theorem lanesBound_congr {s t : State} (hl : ∀ l, (t.lane l).listening = (s.lane l).listening)
    (hc : ∀ f, (t.stream f).config = (s.stream f).config) : lanesBound t ↔ lanesBound s := by
  unfold lanesBound
  simp only [hl, isBound_congr hc]

/-- After a change of the bindings the lanes follow them (R71). -/
theorem lanesBound_relisten (s : State) : lanesBound (relisten s) := by
  intro l
  have hl : (relisten s).lane l = listens s.streams l (s.lane l) := by
    rw [relisten_eq]
    exact vget_ofFn _ l
  have hb : isBound (relisten s) l = isBound s l := isBound_congr (fun f => by rw [relisten_eq]; rfl) l
  have hs : relistenLane s l = s.setLane l (listens s.streams l (s.lane l)) := relistenLane_eq s l
  have hown : ((relistenLane s l).lane l).listening = isBound s l := by
    unfold relistenLane
    split
    · next h => exact h.symm
    · rw [State.setLane_lane]
  rw [hl, hb, ← hown, hs, State.setLane_lane]

theorem deviceOk_iff {s : State} : s.deviceOk = true ↔ (s.ctl.scan.isSome = true ↔ s.ctl.device = .mounting) ∧
    (∀ x, s.ctl.shutdown = some x → s.ctl.device = .shuttingDown ∧ x.outcome = none) := by
  unfold State.deviceOk
  rw [Bool.and_eq_true, Bool.and_eq_true, beq_iff_eq, Bool.eq_iff_iff, beq_iff_eq]
  cases s.ctl.shutdown with
  | none => simp
  | some x => simp [and_assoc]

theorem deviceOk_congr {s t : State} (hd : t.ctl.device = s.ctl.device) (hs : t.ctl.scan = s.ctl.scan)
    (hx : t.ctl.shutdown = s.ctl.shutdown) : t.deviceOk = s.deviceOk := by
  unfold State.deviceOk
  rw [hd, hs, hx]

theorem scanOk_congr {s t : State} (hs : t.ctl.scan = s.ctl.scan) : t.scanOk = s.scanOk := by
  unfold State.scanOk
  rw [hs]

theorem deviceMove_same (d : DeviceState) : deviceMove d d = true := by cases d <;> rfl

/-! ## What the operations of the blocks leave of them -/

theorem finishRequest_tags (k : ReqKind) (tag : Byte) (st : Status) (c : List Byte) (o : Option StagingId) (s : State) :
    (finishRequest k tag st c o s).tags = s.tags := by
  have h : ∀ r : Request, (if r.tag = tag then { r with stage := .completed } else r).tag = r.tag := fun r => by split <;> rfl
  simp only [State.tags, finishRequest, List.map_map]
  exact List.map_congr_left fun r _ => h r

theorem raise_backlogOk {s : State} (k : NoticeKind) (arg : Nat) (h : s.backlogOk = true) : (raise k arg s).backlogOk = true := by
  rw [backlogOk_iff] at h ⊢
  obtain ⟨hlen, hover⟩ := h
  unfold raise NoticeUnit.raise backlogSize
  dsimp only
  split
  · split
    · next hlt =>
      refine ⟨by rw [List.length_append, List.length_singleton]; omega, fun ho => ?_⟩
      exact absurd (hover ho) (Nat.ne_of_lt hlt)
    · next hge => exact ⟨hlen, fun _ => Nat.le_antisymm hlen (Nat.le_of_not_lt hge)⟩
  · exact ⟨hlen, hover⟩

namespace Moves

variable {s t : State}

theorem tags (h : Moves s t) : t.tags = s.tags := by
  induction h with
  | trans _ _ h1 h2 => exact h2.trans h1
  | quiet q => exact congrArg (List.map (·.tag)) q.requests
  | finished k tag st c o s => exact finishRequest_tags ..
  | rebound st r s => rw [relisten_eq]; rfl
  | _ => rfl

theorem backlogOk (h : Moves s t) : s.backlogOk = true → t.backlogOk = true := by
  induction h with
  | refl s => exact id
  | trans _ _ h1 h2 => exact h2 ∘ h1
  | quiet q => exact fun h => (backlogOk_congr q.backlog q.overflow).trans h
  | raised k arg s => exact raise_backlogOk k arg
  | finished k tag st c o s => exact id
  | retired u s =>
    intro h
    unfold Machine.retireRecord
    exact raise_backlogOk .unitRetired u.val h
  | worn s _ => exact id
  | rebound st r s => rw [relisten_eq]; exact id

theorem triggers (h : Moves s t) : t.triggers = s.triggers := by
  induction h with
  | trans _ _ h1 h2 => exact h2.trans h1
  | quiet q => exact q.triggers
  | rebound st r s => rw [relisten_eq]; rfl
  | _ => rfl

theorem scan (h : Moves s t) : t.ctl.scan = s.ctl.scan := by
  induction h with
  | trans _ _ h1 h2 => exact h2.trans h1
  | quiet q => exact q.scan
  | rebound st r s => rw [relisten_eq]; rfl
  | _ => rfl

theorem shutdown_isSome (h : Moves s t) : t.ctl.shutdown.isSome = s.ctl.shutdown.isSome := by
  induction h with
  | trans _ _ h1 h2 => exact h2.trans h1
  | quiet q => exact q.shutdown
  | rebound st r s => rw [relisten_eq]; rfl
  | _ => rfl

/-- The blocks' operations move the device state from READY to WORN alone (R41). -/
theorem device (h : Moves s t) : t.ctl.device = s.ctl.device ∨ (s.ctl.device = .ready ∧ t.ctl.device = .worn) := by
  induction h with
  | trans _ _ h1 h2 =>
    rcases h2 with e2 | ⟨r2, w2⟩
    · rw [e2]
      exact h1
    · rcases h1 with e1 | ⟨-, w1⟩
      · exact .inr ⟨e1.symm.trans r2, w2⟩
      · exact absurd (w1.symm.trans r2) nofun
  | quiet q => exact .inl q.device
  | worn s hr => exact .inr ⟨hr, rfl⟩
  | rebound st r s => rw [relisten_eq]; exact .inl rfl
  | _ => exact .inl rfl

theorem lanesBound (h : Moves s t) : lanesBound s → lanesBound t := by
  induction h with
  | trans _ _ h1 h2 => exact h2 ∘ h1
  | quiet q => exact (lanesBound_congr q.listening q.config).mpr
  | rebound st r s => exact fun _ => lanesBound_relisten _
  | _ => exact id

end Moves

end Sys2Proof.Machine
end

section
/-!
PROOFS. What the operations of the blocks leave alone beside what `Moves` says: the shutdown record (R165) and every stream's configuration
(R46), which requests alone change.
-/
-- The theorems of this file are elaborated one after another: in parallel their waiting threads exceed the memory limit of the check.
set_option Elab.async false

namespace Sys2Proof.Machine

/-- The shutdown record and the configuration of every stream are the same. -/
structure Steady (s t : State) : Prop where
  shutdown : t.ctl.shutdown = s.ctl.shutdown
  config : ∀ f, (t.stream f).config = (s.stream f).config

namespace Steady

variable {s t r : State}

theorem refl (s : State) : Steady s s := ⟨rfl, fun _ => rfl⟩

theorem trans (h1 : Steady s t) (h2 : Steady t r) : Steady s r :=
  ⟨h2.shutdown.trans h1.shutdown, fun f => (h2.config f).trans (h1.config f)⟩

theorem ite {c : Prop} [Decidable c] {a b : State} (ha : Steady s a) (hb : Steady s b) : Steady s (if c then a else b) := by
  split
  · exact ha
  · exact hb

theorem foldl {α : Type} {f : State → α → State} (hf : ∀ (r : State) (x : α), Steady r (f r x)) (h : Steady s t) (l : List α) :
    Steady s (l.foldl f t) := by
  induction l generalizing t with
  | nil => exact h
  | cons x l ih => exact ih (h.trans (hf t x))

/-- A change of fields that `Steady` does not name. -/
theorem next (h : Steady s t) (hx : r.ctl.shutdown = t.ctl.shutdown := by rfl) (hs : r.streams = t.streams := by rfl) : Steady s r :=
  h.trans ⟨hx, fun f => by unfold State.stream; rw [hs]⟩

/-- A step of the runs that touches no stream but for its OVERRUN. -/
theorem step (h : Steady s t) (hr : RunStep (fun _ => False) t r) : Steady s r :=
  h.trans ⟨(congrArg (fun x => x.ctl.shutdown) hr.outside :), fun f => hr.config f id⟩

theorem setStream (h : Steady s t) (st : StreamId) (x : StreamRec) (hx : x.config = (t.stream st).config := by rfl) :
    Steady s (t.setStream st x) :=
  h.trans ⟨rfl, fun f => by
    rw [stream_setStream]
    split
    · next e => rw [← e]; exact hx
    · rfl⟩

/-! ## The unit map and the buffer manager -/

theorem retire (h : Steady s t) (u : UnitId) : Steady s (retire u t) := by
  unfold Machine.retire
  exact .ite h.next h.next

theorem freeBuffer (h : Steady s t) (b : BufId) : Steady s (freeBuffer b t) := h.step ((RunStep.refl _ t).freeBuffer b)

theorem askBuffer (h : Steady s t) (st : StreamId) : Steady s (askBuffer st t) := h.step ((RunStep.refl _ t).askBuffer st)

theorem completeFlushes (h : Steady s t) (st : StreamId) (status : Status) : Steady s (completeFlushes st status t) :=
  h.step ((RunStep.refl _ t).completeFlushes st status)

theorem checkFlushes (h : Steady s t) (st : StreamId) : Steady s (checkFlushes st t) := h.step ((RunStep.refl _ t).checkFlushes st)

theorem allocateForCapture {st : StreamId} {first : Nat} {u : UnitId} (h : Steady s t)
    (ha : allocateForCapture st first t = some (u, r)) : Steady s r := h.step ((RunStep.refl _ t).allocateForCapture ha)

theorem takeFree (h : Steady s t) (u : UnitId) (rest : List UnitId) (us : UnitState) (owner : StreamId) (first : Nat) :
    Steady s (takeFree u rest us owner first t) := h.step ((RunStep.refl _ t).takeFree u rest us owner first)

theorem starve (h : Steady s t) (st : StreamId) (b : BufId) : Steady s (starve st b t) := by
  unfold Machine.starve
  extract_lets src s1 src2 s2 s3
  have h1 : Steady s s1 := h.next
  have h2 : Steady s s2 := h1.setStream st _
  have h3 : Steady s s3 := h2.next
  exact h3.completeFlushes st .noSpace

theorem placeSealed (h : Steady s t) (st : StreamId) (b : BufId) (x : Nat) : Steady s (placeSealed st b x t) := by
  unfold Machine.placeSealed
  split
  · exact h.next
  · split
    · next ha => exact (h.allocateForCapture ha).next
    · exact h.starve st b

theorem sealPage (h : Steady s t) (st : StreamId) (b : BufId) : Steady s (sealPage st b t) :=
  placeSealed (next (h.setStream st (t.stream st).afterSeal)) st b _

theorem relieveOne (h : Steady s t) (st : StreamId) : Steady s (relieveOne st t) := by
  unfold Machine.relieveOne
  extract_lets s1
  have h1 : Steady s s1 := h.next
  clear_value s1
  split
  · exact h1
  · extract_lets x
    split
    · exact h1
    · next s2 ha =>
      have h2 : Steady s s2 := h1.allocateForCapture ha
      extract_lets s3 src s4
      have h3 : Steady s s3 := h2.next
      have h4 : Steady s s4 := h3.setStream st _
      exact .ite (h4.askBuffer st) h4

theorem relieveList (l : List StreamId) : ∀ {t : State}, Steady s t → Steady s (relieveList l t) := by
  induction l with
  | nil => exact fun h => h
  | cons st l ih => exact fun h => .ite (ih (h.relieveOne st)) h

theorem relieve (h : Steady s t) : Steady s (relieve t) := relieveList _ h

theorem discardHeld (h : Steady s t) (st : StreamId) : Steady s (discardHeld st t) := by
  unfold Machine.discardHeld
  extract_lets s1 src s2
  have h1 : Steady s s1 := h.next
  have h2 : Steady s s2 := h1.setStream st _
  clear_value s2
  split
  · exact h2
  · extract_lets x s3
    have h3 : Steady s s3 := next (h2.setStream st { (s2.stream st).losePage with endPage := x })
    clear_value s3
    exact (freeBuffer (t := raise .pageLost st.val s3) h3.next _).checkFlushes st

theorem discardAllHeld (h : Steady s t) : Steady s (discardAllHeld t) := foldl (fun r st => (refl r).discardHeld st) h _

/-! ## Runs -/

theorem beginRun (h : Steady s t) (st : StreamId) : Steady s (beginRun st t) := by
  unfold Machine.beginRun
  have h1 : Steady s (raise .runStart st.val (t.setStream st (t.stream st).startRun)) := next (h.setStream st (t.stream st).startRun)
  exact .ite h1 (h1.askBuffer st)

theorem startRunDepth (barred : List StreamId) (n : Nat) : ∀ {s t : State} (st : StreamId), Steady s t →
    Steady s (startRunDepth barred n st t) := by
  induction n with
  | zero => exact fun _ h => h
  | succ n ih => exact fun st h => foldl (fun r f => .ite (ih f (.refl r)) (.refl r)) (h.beginRun st) _

theorem startRun (h : Steady s t) (barred : List StreamId) (st : StreamId) : Steady s (startRun barred st t) :=
  startRunDepth barred 8 st h

theorem sealFill (h : Steady s t) (st : StreamId) (b : BufId) : Steady s (sealFill st b t) :=
  .ite (freeBuffer (t := t.setFill st none) h.next b) (h.sealPage st b)

theorem closeFill (h : Steady s t) (st : StreamId) : Steady s (closeFill st t) := by
  unfold Machine.closeFill
  split
  · exact h
  · exact .ite (freeBuffer (t := t.setFill st none) h.next _) (h.sealFill st _)

theorem leaveRun (h : Steady s t) (st : StreamId) (c : EndCause) : Steady s (leaveRun st c t) := by
  unfold Machine.leaveRun
  extract_lets s1 x
  have h1 : Steady s s1 := h.next
  exact next (h1.setStream st { x with overrun := false, state := stateAfterRun c x.rearms })

theorem recordCause (h : Steady s t) (st : StreamId) (c : EndCause) : Steady s (recordCause st c t) := h.setStream st _

theorem endRun (h : Steady s t) (barred : List StreamId) (st : StreamId) (c : EndCause) : Steady s (endRun barred st c t) := by
  unfold Machine.endRun
  have h1 := ((h.recordCause st c).closeFill st).leaveRun st c
  exact .ite (h1.startRun barred st) h1

theorem sealContinuing (h : Steady s t) (barred : List StreamId) (st : StreamId) (b : BufId) :
    Steady s (sealContinuing barred st b t) := by
  unfold Machine.sealContinuing
  have h1 := h.sealFill st b
  exact .ite (h1.endRun barred st .limit) (.ite h1 (h1.askBuffer st))

theorem placeWord (h : Steady s t) (st : StreamId) (w : Word) : Steady s (placeWord st w t) := by
  unfold Machine.placeWord
  split
  · exact h.next
  · exact h.setStream st _

theorem keepWord (h : Steady s t) (barred : List StreamId) (st : StreamId) (w : Word) : Steady s (keepWord barred st w t) := by
  unfold Machine.keepWord
  have h1 := (h.setStream st { t.stream st with keptWords := satInc max32 (t.stream st).keptWords }).placeWord st w
  refine .ite (h1.endRun barred st .count) ?_
  split
  · exact h1.sealContinuing barred st _
  · exact h1

theorem deliverWord (h : Steady s t) (barred : List StreamId) (st : StreamId) (w : Word) : Steady s (deliverWord barred st w t) := by
  unfold Machine.deliverWord
  have h1 := h.setStream st (t.stream st).advanceSkip
  exact .ite (h1.keepWord barred st w) h1

theorem offerWord (h : Steady s t) (barred : List StreamId) (w : Word) (st : StreamId) : Steady s (offerWord barred w t st) :=
  .ite (h.deliverWord barred st w) (.ite ((h.startRun barred st).deliverWord barred st w) h)

theorem goodWord (h : Steady s t) (l : LaneId) (w : Word) : Steady s (goodWord l w t) :=
  foldl (fun r st => (refl r).offerWord _ w st) h.next _

theorem dropAt (h : Steady s t) (l : LaneId) (st : StreamId) : Steady s (dropAt l t st) := .ite (h.setStream st _) h

theorem badWord (h : Steady s t) (l : LaneId) : Steady s (badWord l t) := by
  unfold Machine.badWord
  extract_lets src s1 s2 src2
  have h2 : Steady s s2 := foldl (fun r st => (refl r).dropAt l st) h.next _
  clear_value s2
  exact .ite h2 h2.next

theorem applyRole (h : Steady s t) (barred : List StreamId) (role : TriggerRole) (st : StreamId) :
    Steady s (applyRole barred role st t) := by
  cases role with
  | none => exact h
  | start => exact .ite (h.startRun barred st) h
  | stop c => exact .ite (h.endRun barred st c) h

theorem trigger (h : Steady s t) (role : StreamRec → StreamId → TriggerRole) : Steady s (trigger role t) :=
  foldl (fun r st => (refl r).applyRole _ _ st) h _

theorem disarm (h : Steady s t) (st : StreamId) : Steady s (disarm t st) := .ite (h.setStream st _) h

theorem endAllRuns (h : Steady s t) (c : EndCause) : Steady s (endAllRuns c t) :=
  foldl (fun r st => (refl r).disarm st) (foldl (fun r st => .ite ((refl r).endRun _ st c) (refl r)) h _) _

theorem enterWorn (h : Steady s t) : Steady s (enterWorn t) := by
  have h1 := h.endAllRuns .worn
  unfold Machine.enterWorn
  generalize Machine.endAllRuns .worn t = u at h1 ⊢
  exact discardAllHeld (t := noteHeld u) h1.next

/-! ## Relocation -/

theorem queuePass (h : Steady s t) (e : QueueEntry) : Steady s (queuePass e t) := by
  unfold Machine.queuePass
  extract_lets s1 src s2
  have h1 : Steady s s1 := h.next
  have h2 : Steady s s2 := h1.setStream e.stream _
  exact (h2.freeBuffer e.buf).checkFlushes e.stream

theorem losePage (h : Steady s t) (st : StreamId) (b : BufId) : Steady s (losePage st b t) :=
  (h.setStream st (t.stream st).losePage).freeBuffer b

theorem discardStreamPages (h : Steady s t) (st : StreamId) (failed : BufId) : Steady s (discardStreamPages st failed t) := by
  unfold Machine.discardStreamPages
  extract_lets entries s1 s2 s3
  have h1 : Steady s s1 := losePage (t := t.setQueue _) h.next st failed
  have h2 : Steady s s2 := foldl (fun r (e : QueueEntry) => (refl r).losePage st e.buf) h1 entries
  have h3 : Steady s s3 := by
    clear_value s2
    unfold s3
    split
    · exact losePage (t := s2.setHeld st none) h2.next st _
    · exact h2
  clear_value s3
  split
  · exact freeBuffer (t := s3.setFill st none) h3.next _
  · exact h3

theorem truncateChain (h : Steady s t) (st : StreamId) (u : UnitId) (p : Nat) : Steady s (truncateChain st u p t) := by
  unfold Machine.truncateChain
  extract_lets later s1 s2 src s3
  have h2 : Steady s s2 := foldl (fun r _ => (refl r).next) h.next later
  have h3 : Steady s s3 := .ite (retire (t := s2.setChain st _) h2.next u) h2.next
  exact h3.relieve

theorem faultStream (h : Steady s t) (st : StreamId) : Steady s (faultStream st t) :=
  .ite ((h.recordCause st .fault).leaveRun st .fault) (h.setStream st _)

theorem abandonBody (h : Steady s t) (st : StreamId) (u : UnitId) (p : Nat) (b : BufId) : Steady s (abandonBody st u p b t) := by
  unfold Machine.abandonBody
  extract_lets first s1 src1 s2 s3 src3 s4 s5 s6 src6 s7
  have h1 : Steady s s1 := h.next
  have h2 : Steady s s2 := h1.setStream st _
  have h3 : Steady s s3 := (h2.faultStream st).discardStreamPages st b
  clear_value s3
  have h4 : Steady s s4 := h3.setStream st _
  have h5 : Steady s s5 := h4.next
  have h6 : Steady s s6 := h5.completeFlushes st .fault
  clear_value s6
  have h7 : Steady s s7 := h6.setStream st _
  exact h7.truncateChain st u p

theorem takeTarget (h : Steady s t) (r : Reloc) (v : UnitId) (rest : List UnitId) : Steady s (takeTarget r v rest t) :=
  (h.takeFree v rest .target r.stream _).next

theorem startWaiting (l : List RelocWait) : ∀ {t : State}, Steady s t → Steady s (startWaiting l t) := by
  induction l with
  | nil => exact fun h => h.next
  | cons w ws ih =>
    intro t h
    unfold Machine.startWaiting
    dsimp only
    split
    · exact takeTarget (t := t.setRelocWaits ws) h.next ..
    · exact ih (abandonBody (t := t.setRelocWaits ws) h.next ..)

theorem startNext (h : Steady s t) : Steady s (startNext t) := startWaiting _ (t := t.setReloc none) h.next

theorem abandon (h : Steady s t) (r : Reloc) : Steady s (abandon r t) :=
  startNext (abandonBody (t := (t.setReloc none).setCopyBuffer none) h.next ..)

theorem queueFail (h : Steady s t) (e : QueueEntry) : Steady s (queueFail e t) := by
  unfold Machine.queueFail beginRelocation
  extract_lets s1 src1 s2 src2 s3 src3 s4
  have h3 : Steady s s3 := h.next
  have h4 : Steady s s4 := h3.setStream e.stream _
  clear_value s4
  split
  · exact startWaiting _ h4
  · exact h4.next

theorem targetFail (h : Steady s t) (r : Reloc) (v : UnitId) : Steady s (targetFail r v t) := by
  unfold Machine.targetFail
  have h1 : Steady s ((Machine.retire v t).setCopyBuffer none) := (h.retire v).next
  refine .ite ?_ (h1.abandon r)
  dsimp only
  split
  · exact h1.takeTarget ..
  · exact h1.abandon _

theorem copyReadEnd (h : Steady s t) (r : Reloc) (res : ReadResult) : Steady s (copyReadEnd r res t) := by
  unfold Machine.copyReadEnd
  extract_lets td s1 s2
  have h2 : Steady s s2 := .ite h.next h.next
  exact h2.next

theorem renameEntries (h : Steady s t) (r : Reloc) (v : UnitId) : Steady s (renameEntries r v t) :=
  foldl (fun q _ => .ite ((refl q).next) (refl q)) h.next _

theorem completeRelocation (h : Steady s t) (r : Reloc) (v : UnitId) : Steady s (completeRelocation r v t) := by
  unfold Machine.completeRelocation
  extract_lets s1 src1 s2 s3 src3 s4
  have h1 : Steady s s1 := renameEntries (retire h.next r.source) r v
  clear_value s1
  have h2 : Steady s s2 := h1.setStream r.stream _
  have h3 : Steady s s3 := h2.freeBuffer r.buf
  clear_value s3
  have h4 : Steady s s4 := h3.setStream r.stream _
  exact startNext (h4.checkFlushes r.stream).next

theorem relocProgramEnd (h : Steady s t) (pass : Bool) : Steady s (relocProgramEnd pass t) := by
  unfold Machine.relocProgramEnd
  split
  · exact h
  · split
    · exact h
    · exact .ite (.ite (h.completeRelocation ..) h.next) (h.targetFail ..)

theorem relocReadEnd (h : Steady s t) (res : ReadResult) : Steady s (relocReadEnd res t) := by
  unfold Machine.relocReadEnd
  split
  · exact h
  · exact h.copyReadEnd ..

/-! ## The ends of operations, the grants and the hand-overs -/

theorem queueProgramEnd (h : Steady s t) (pass : Bool) (op : Operation) : Steady s (queueProgramEnd pass op t) := by
  unfold Machine.queueProgramEnd
  split
  · split
    · exact .ite (h.queuePass _) (h.queueFail _)
    · exact h
  · exact h

theorem readPathEnd (h : Steady s t) (done : Bool) (res : ReadResult) (op : Operation) : Steady s (readPathEnd done res op t) := by
  unfold Machine.readPathEnd readEndDone
  split
  · split
    · exact .ite (.ite h.next h.next) h.next
    · exact h
  · exact h

theorem eraseUnitPass (h : Steady s t) (u : UnitId) : Steady s (eraseUnitPass u t) := by
  unfold Machine.eraseUnitPass
  extract_lets src s1 s2 n src2 s3 src3 s4
  have h4 : Steady s s4 := .ite h.next h.next
  exact h4.relieve

theorem grantRead (h : Steady s t) : Steady s (grantRead t) := by
  unfold Machine.grantRead
  split
  · split
    · exact h
    · exact h.next
  · exact h

theorem grantRelocation (h : Steady s t) : Steady s (grantRelocation t) := by
  unfold Machine.grantRelocation
  split
  · exact h
  · split
    · exact h
    · split <;> exact h.next

theorem grantFromPool (h : Steady s t) : Steady s (grantFromPool t) := by
  unfold Machine.grantFromPool
  split
  · exact step (t := t.setPool _) h.next ((RunStep.refl _ _).grantBuffer ..)
  · exact h

theorem completeDue (h : Steady s t) (st : StreamId) : Steady s (completeDue t st) := by
  unfold Machine.completeDue
  split
  · exact h.completeFlushes ..
  · exact h

end Steady

end Sys2Proof.Machine
end

section
/-!
PROOFS. What a happening keeps of the invariants: `Sound` is what a whole step is to keep, `Calm` what a part of a happening keeps that moves
neither the device state nor the scan nor the shutdown record. The end of every happening is such a part.
-/
-- The theorems of this file are elaborated one after another: in parallel their waiting threads exceed the memory limit of the check.
set_option Elab.async false

namespace Sys2Proof.Machine

/-- From `s` to `t` the scan stays where it is, and the invariants that do not speak of the device state are kept. -/
structure KeepsBlocks (s t : State) : Prop where
  window : s.windowOk = true → t.windowOk = true
  backlog : s.backlogOk = true → t.backlogOk = true
  timers : s.timersOk = true → t.timersOk = true
  scan : t.ctl.scan = s.ctl.scan
  binding : s.bindingOk = true → t.bindingOk = true

/-- From `s` to `t` the device state, the scan and the shutdown record stay too. -/
structure Calm (s t : State) : Prop extends KeepsBlocks s t where
  device : t.ctl.device = s.ctl.device
  shutdown : t.ctl.shutdown = s.ctl.shutdown

/-- The device state and the shutdown record fit after a step, and the device state has moved by R166, or a reset has taken it to
MOUNTING (R165, R166). -/
def DeviceKept (s t : State) : Prop :=
  s.deviceOk = true → t.deviceOk = true ∧ (deviceMove s.ctl.device t.ctl.device = true ∨ t.ctl.device = .mounting)

/-- What a step from `s` to `t` keeps. -/
structure Sound (s t : State) : Prop where
  window : s.windowOk = true → t.windowOk = true
  backlog : s.backlogOk = true → t.backlogOk = true
  timers : s.timersOk = true → t.timersOk = true
  scan : s.scanOk = true → t.scanOk = true
  binding : s.bindingOk = true → s.deviceOk = true → t.bindingOk = true
  device : DeviceKept s t

section

variable {s t r : State}

namespace KeepsBlocks

/-- A change of what none of these invariants speaks of. -/
theorem ofEq (hr : t.link.requests = s.link.requests := by rfl) (hb : t.notices.backlog = s.notices.backlog := by rfl)
    (ho : t.notices.overflow = s.notices.overflow := by rfl) (ht : t.triggers.timers = s.triggers.timers := by rfl)
    (hs : t.ctl.scan = s.ctl.scan := by rfl) (hl : t.lanes = s.lanes := by rfl) (hst : t.streams = s.streams := by rfl) :
    KeepsBlocks s t where
  window := fun h => (windowOk_congr (by unfold State.tags; rw [hr])).trans h
  backlog := fun h => (backlogOk_congr hb ho).trans h
  timers := fun h => (timersOk_congr ht).trans h
  scan := hs
  binding := fun h => by
    have hc : ∀ f, (t.stream f).config = (s.stream f).config := fun f => by unfold State.stream; rw [hst]
    rw [bindingOk_iff, hs, lanesBound_congr (fun l => by unfold State.lane; rw [hl]) hc]
    simpa only [hc] using bindingOk_iff.mp h

theorem trans (h1 : KeepsBlocks s t) (h2 : KeepsBlocks t r) : KeepsBlocks s r :=
  ⟨h2.window ∘ h1.window, h2.backlog ∘ h1.backlog, h2.timers ∘ h1.timers, h2.scan.trans h1.scan, h2.binding ∘ h1.binding⟩

/-- What the blocks' operations keep when no stream's configuration changes. -/
theorem ofMoves (h : Moves s t) (hc : ∀ f, (t.stream f).config = (s.stream f).config) : KeepsBlocks s t where
  window := fun hw => (windowOk_congr h.tags).trans hw
  backlog := h.backlogOk
  timers := fun ht => (timersOk_congr (congrArg Triggers.timers h.triggers)).trans ht
  scan := h.scan
  binding := fun hb => by
    rw [bindingOk_iff] at hb ⊢
    rw [h.scan]
    simp only [hc]
    exact ⟨h.lanesBound hb.1, hb.2⟩

theorem sound (h : KeepsBlocks s t) (hd : DeviceKept s t) : Sound s t :=
  ⟨h.window, h.backlog, h.timers, fun hs => (scanOk_congr h.scan).trans hs, fun hb _ => h.binding hb, hd⟩

end KeepsBlocks

namespace Calm

theorem refl (s : State) : Calm s s := ⟨⟨id, id, id, rfl, id⟩, rfl, rfl⟩

theorem trans (h1 : Calm s t) (h2 : Calm t r) : Calm s r :=
  ⟨h1.toKeepsBlocks.trans h2.toKeepsBlocks, h2.device.trans h1.device, h2.shutdown.trans h1.shutdown⟩

/-- A change of what none of the invariants speaks of. -/
theorem ofEq (hr : t.link.requests = s.link.requests := by rfl) (hb : t.notices.backlog = s.notices.backlog := by rfl)
    (ho : t.notices.overflow = s.notices.overflow := by rfl) (ht : t.triggers.timers = s.triggers.timers := by rfl)
    (hs : t.ctl.scan = s.ctl.scan := by rfl) (hl : t.lanes = s.lanes := by rfl) (hst : t.streams = s.streams := by rfl)
    (hd : t.ctl.device = s.ctl.device := by rfl) (hx : t.ctl.shutdown = s.ctl.shutdown := by rfl) : Calm s t :=
  ⟨.ofEq hr hb ho ht hs hl hst, hd, hx⟩

theorem deviceOk (h : Calm s t) : t.deviceOk = s.deviceOk := deviceOk_congr h.device h.scan h.shutdown

theorem sound (h : Calm s t) : Sound s t :=
  h.toKeepsBlocks.sound fun hd => ⟨h.deviceOk.trans hd, .inl (by rw [h.device]; exact deviceMove_same _)⟩

end Calm

namespace Sound

theorem refl (s : State) : Sound s s := (Calm.refl s).sound

/-- A sound part of a happening after a calm one. -/
theorem after (h : Sound t r) (hc : Calm s t) : Sound s r where
  window := h.window ∘ hc.window
  backlog := h.backlog ∘ hc.backlog
  timers := h.timers ∘ hc.timers
  scan := fun hs => h.scan ((scanOk_congr hc.scan).trans hs)
  binding := fun hb hd => h.binding (hc.binding hb) (hc.deviceOk.trans hd)
  device := fun hd => hc.device ▸ h.device (hc.deviceOk.trans hd)

/-- A calm part of a happening after a sound one. -/
theorem calm (h : Sound s t) (hc : Calm t r) : Sound s r where
  window := hc.window ∘ h.window
  backlog := hc.backlog ∘ h.backlog
  timers := hc.timers ∘ h.timers
  scan := fun hs => (scanOk_congr hc.scan).trans (h.scan hs)
  binding := fun hb hd => hc.binding (h.binding hb hd)
  device := fun hd => hc.deviceOk ▸ hc.device ▸ h.device hd

theorem ite {c : Prop} [Decidable c] {a b : State} (ha : c → Sound s a) (hb : ¬c → Sound s b) : Sound s (if c then a else b) := by
  split
  · next h => exact ha h
  · next h => exact hb h

end Sound

/-! ## The operations of the blocks -/

/-- Operations that change no shutdown record take the device state from READY to WORN at most, and the record fits (R41). -/
theorem Moves.deviceKept (h : Moves s t) (hx : t.ctl.shutdown = s.ctl.shutdown) : DeviceKept s t := by
  intro hd
  rcases h.device with e | ⟨hr, hw⟩
  · exact ⟨(deviceOk_congr e h.scan hx).trans hd, .inl (by rw [e]; exact deviceMove_same _)⟩
  · obtain ⟨hscan, hshut⟩ := deviceOk_iff.mp hd
    refine ⟨deviceOk_iff.mpr ⟨?_, fun x h => ?_⟩, .inl (by rw [hr, hw]; rfl)⟩
    · rw [h.scan, hw, hscan, hr]
      exact ⟨nofun, nofun⟩
    · rw [hx] at h
      exact absurd (hr.symm.trans (hshut x h).1) nofun

/-- An operation of the blocks that is no request. -/
theorem Moves.sound (h : Moves s t) (hs : Steady s t) : Sound s t := (KeepsBlocks.ofMoves h hs.config).sound (h.deviceKept hs.shutdown)

/-- A request that the device state takes in READY and WORN alone: no scan and no shutdown record are there (R165, R182, R196). -/
theorem Moves.soundOpen (h : Moves s t) (ho : s.ctl.device = .ready ∨ s.ctl.device = .worn) : Sound s t := by
  have hm : s.ctl.device ≠ .mounting ∧ s.ctl.device ≠ .shuttingDown := by rcases ho with e | e <;> rw [e] <;> exact ⟨nofun, nofun⟩
  have hscan : s.deviceOk = true → s.ctl.scan = none := fun hd =>
    Option.not_isSome_iff_eq_none.mp fun h => hm.1 ((deviceOk_iff.mp hd).1.mp h)
  have hshut : s.deviceOk = true → s.ctl.shutdown = none := fun hd =>
    Option.eq_none_iff_forall_ne_some.mpr fun x hx => hm.2 ((deviceOk_iff.mp hd).2 x hx).1
  have htshut : s.deviceOk = true → t.ctl.shutdown = s.ctl.shutdown := fun hd => by
    have hsome := h.shutdown_isSome
    rw [hshut hd] at hsome ⊢
    exact Option.isNone_iff_eq_none.mp (by simpa using hsome)
  exact
    { window := fun hw => (windowOk_congr h.tags).trans hw
      backlog := h.backlogOk
      timers := fun ht => (timersOk_congr (congrArg Triggers.timers h.triggers)).trans ht
      scan := fun hs => (scanOk_congr h.scan).trans hs
      binding := fun hb hd => bindingOk_iff.mpr ⟨h.lanesBound (bindingOk_iff.mp hb).1, .inl (h.scan.trans (hscan hd))⟩
      device := fun hd => h.deviceKept (htshut hd) hd }

/-! ## The end of a happening -/

theorem Settled.tags (h : Settled s t) : t.tags = s.tags := by
  have e := congrArg (List.map fun x : Byte × ReqKind × List Byte => x.1) h.requests
  rw [List.map_map, List.map_map] at e
  exact e

/-- What the transmitter and the marks at the end of a happening may move is calm, when the backlog is kept. -/
theorem Settled.isCalm (h : Settled s t) (hb : s.backlogOk = true → t.backlogOk = true) : Calm s t := by
  have hl : t.lanes = s.lanes := (congrArg State.lanes h.core :)
  have hst : t.streams = s.streams := (congrArg State.streams h.core :)
  have htr : t.triggers = s.triggers := (congrArg State.triggers h.core :)
  have hctl : t.ctl.device = s.ctl.device ∧ t.ctl.scan = s.ctl.scan ∧ t.ctl.shutdown = s.ctl.shutdown :=
    ⟨(congrArg (fun x => x.ctl.device) h.core :), (congrArg (fun x => x.ctl.scan) h.core :), (congrArg (fun x => x.ctl.shutdown) h.core :)⟩
  obtain ⟨hd, hs, hx⟩ := hctl
  have hc : ∀ f, (t.stream f).config = (s.stream f).config := fun f => by unfold State.stream; rw [hst]
  refine ⟨⟨fun hw => (windowOk_congr h.tags).trans hw, hb, fun ht => (timersOk_congr (congrArg Triggers.timers htr)).trans ht, hs,
    fun hb => ?_⟩, hd, hx⟩
  rw [bindingOk_iff, hs, lanesBound_congr (fun l => by unfold State.lane; rw [hl]) hc]
  simpa only [hc] using bindingOk_iff.mp hb

/-- A NOTICE frame that starts empties the backlog and clears its overflow flag (R199, R206). -/
theorem startNotice_backlogOk (s : State) : (startNotice s).backlogOk = true := backlogOk_iff.mpr ⟨Nat.zero_le 16, nofun⟩

theorem chooseFrame_backlogOk (h : s.backlogOk = true) : (chooseFrame s).backlogOk = true := by
  unfold chooseFrame
  split
  · exact startNotice_backlogOk s
  · split
    · exact h
    · split
      · exact startNotice_backlogOk s
      · exact h

theorem transmitArrivals_backlogOk (h : s.backlogOk = true) : (transmitArrivals s).backlogOk = true := by
  unfold transmitArrivals
  split
  · split
    · dsimp only
      split
      · exact startNotice_backlogOk _
      · exact chooseFrame_backlogOk (s := { s with freeUsed := s.freeUsed + 1 }) h
    · exact chooseFrame_backlogOk h
  · exact h

theorem calm_chooseFrame (s : State) : Calm s (chooseFrame s) := (settled_chooseFrame s).isCalm chooseFrame_backlogOk

/-- What every happening ends with is calm, WORN entry too. -/
theorem calm_settle (a s : State) : Calm s (settle a s) := by
  have hm : Moves s (settleWorn a s) := (Moves.refl s).settleWorn
  have hst : Steady s (settleWorn a s) := .ite (Steady.refl s).enterWorn (.refl s)
  have hout : (settleWorn a s).outside = s.outside := by
    unfold settleWorn
    split
    · exact enterWorn_outside s
    · rfl
  have hw : Calm s (settleWorn a s) := ⟨.ofMoves hm hst.config, (congrArg (fun x => x.ctl.device) hout :), hst.shutdown⟩
  refine hw.trans ((settled_after_worn a s).isCalm fun hb => ?_)
  exact transmitArrivals_backlogOk ((Moves.refl (settleWorn a s)).drainPending.settleStandAside.backlogOk hb)

/-- A happening keeps what the effect of its command keeps. -/
theorem Sound.happening {f : State → State} (h : Sound s (f s)) : Sound s (happening f s) :=
  .ite (fun _ => h.calm (calm_settle s _)) (fun _ => .refl s)

end

end Sys2Proof.Machine
end

section
/-!
PROOFS. The ends of checkpoints and of SHUTDOWN, and the start of a checkpoint: each is calm up to the completion of SHUTDOWN, which takes
SHUTTING_DOWN to HALTED and stops every timer (R86, R165, R183).
-/
-- The theorems of this file are elaborated one after another: in parallel their waiting threads exceed the memory limit of the check.
set_option Elab.async false

namespace Sys2Proof.Machine

section

variable {s t : State}

namespace KeepsBlocks

theorem refl (s : State) : KeepsBlocks s s := .ofEq

theorem foldl {α : Type} {f : State → α → State} (hf : ∀ (r : State) (x : α), KeepsBlocks r (f r x)) (l : List α) :
    ∀ s : State, KeepsBlocks s (l.foldl f s) := by
  induction l with
  | nil => exact refl
  | cons x l ih => exact fun s => (hf s x).trans (ih (f s x))

end KeepsBlocks

namespace Calm

theorem ite {c : Prop} [Decidable c] {a b : State} (ha : Calm s a) (hb : Calm s b) : Calm s (if c then a else b) := by
  split
  · exact ha
  · exact hb

theorem foldl {α : Type} {f : State → α → State} (hf : ∀ (r : State) (x : α), Calm r (f r x)) (l : List α) :
    ∀ s : State, Calm s (l.foldl f s) := by
  induction l with
  | nil => exact refl
  | cons x l ih => exact fun s => (hf s x).trans (ih (f s x))

/-- Operations of the blocks that stay away from the device state and from the requests that set it. -/
theorem ofMoves (h : Moves s t) (hd : t.ctl.device = s.ctl.device := by rfl) (hx : t.ctl.shutdown = s.ctl.shutdown := by rfl)
    (hst : t.streams = s.streams := by rfl) : Calm s t :=
  ⟨.ofMoves h fun f => by unfold State.stream; rw [hst], hd, hx⟩

theorem raise (k : NoticeKind) (arg : Nat) (s : State) : Calm s (raise k arg s) := .ofMoves (.raised k arg s)

theorem finishRequest (k : ReqKind) (tag : Byte) (st : Status) (c : List Byte) (o : Option StagingId) (s : State) :
    Calm s (finishRequest k tag st c o s) := .ofMoves (.finished k tag st c o s)

theorem finishCovered (st : Status) (tu : Fin 2) (b : Byte) (s : State) : Calm s (finishCovered st tu b s) :=
  .trans .ofEq (.foldl (fun _ _ => .finishRequest ..) _ _)

end Calm

/-- The timers' ticks are right after a change of one timer that keeps them right. -/
theorem timersOk_setTimer {n : TimerId} {r : Timer} (h : s.timersOk = true) (hr : r.ticksOk) : (s.setTimer n r).timersOk = true := by
  rw [timersOk_iff] at h ⊢
  intro m
  by_cases hm : m = n
  · rw [hm, State.setTimer_timer]
    exact hr
  · rw [State.setTimer_timer_ne s n r m (Ne.symm hm)]
    exact h m

theorem keepsBlocks_setTimer {n : TimerId} {r : Timer} (hr : s.timersOk = true → r.ticksOk) : KeepsBlocks s (s.setTimer n r) where
  window := id
  backlog := id
  timers := fun h => timersOk_setTimer h (hr h)
  scan := rfl
  binding := id

theorem calm_setTimer {n : TimerId} {r : Timer} (hr : s.timersOk = true → r.ticksOk) : Calm s (s.setTimer n r) :=
  ⟨keepsBlocks_setTimer hr, rfl, rfl⟩

theorem keepsBlocks_stopTimer (n : TimerId) (s : State) : KeepsBlocks s (stopTimer n s) := keepsBlocks_setTimer fun _ => rfl

/-! ## The completion of SHUTDOWN -/

theorem keepsBlocks_finishShutdown (s : State) : KeepsBlocks s (finishShutdown s) := by
  unfold finishShutdown
  split
  · exact .refl s
  · split
    · exact .refl s
    · next x _ ok _ =>
      extract_lets s1 src s2
      have h1 : KeepsBlocks s s1 := (Calm.finishRequest ..).toKeepsBlocks
      have h2 : KeepsBlocks s1 s2 := .ofEq
      exact (h1.trans h2).trans (.foldl (fun r n => keepsBlocks_stopTimer n r) _ _)

theorem keepsBlocks_recordFinal (final ok : Bool) (s : State) : KeepsBlocks s (recordFinal final ok s) := by
  unfold recordFinal
  split
  · exact .ofEq
  · exact .refl s

/-- The completion of SHUTDOWN takes SHUTTING_DOWN to HALTED, and there is no record of it any more (R166, R183). -/
theorem deviceKept_finishShutdown (final ok : Bool) (s : State) : DeviceKept s (finishShutdown (recordFinal final ok s)) := by
  intro hd
  obtain ⟨hscan, hrec⟩ := deviceOk_iff.mp hd
  cases hx : s.ctl.shutdown with
  | none =>
    rw [finishShutdown_none hx]
    exact ⟨hd, .inl (deviceMove_same _)⟩
  | some x =>
    obtain ⟨hdev, hout⟩ := hrec x hx
    cases final with
    | false =>
      rw [finishShutdown_other (by rw [hx, Option.all_some, hout]; rfl)]
      exact ⟨hd, .inl (deviceMove_same _)⟩
    | true =>
      obtain ⟨rq, tr, he, -⟩ := finishShutdown_final hx ok
      rw [he, hdev]
      refine ⟨deviceOk_iff.mpr ⟨?_, nofun⟩, .inl rfl⟩
      change s.ctl.scan.isSome = true ↔ DeviceState.halted = .mounting
      rw [hscan, hdev]
      exact ⟨nofun, nofun⟩

theorem sound_finishShutdown (final ok : Bool) (s : State) : Sound s (finishShutdown (recordFinal final ok s)) :=
  ((keepsBlocks_recordFinal final ok s).trans (keepsBlocks_finishShutdown _)).sound (deviceKept_finishShutdown final ok s)

/-- SHUTDOWN_COMPLETE finds no outcome in a record that fits (R183). -/
theorem sound_shutdownComplete (s : State) : Sound s (finishShutdown s) :=
  (keepsBlocks_finishShutdown s).sound fun hd => by
    rw [finishShutdown_open fun x hx => ((deviceOk_iff.mp hd).2 x hx).2]
    exact ⟨hd, .inl (deviceMove_same _)⟩

/-! ## Checkpoints -/

theorem sound_checkpointSuccess (c : Ckpt) (k : Nat) (s : State) : Sound s (checkpointSuccess c k s) := by
  unfold checkpointSuccess
  extract_lets src s1 s2 s3 src3
  have h1 : Calm s s1 := .ofEq
  have h2 : Calm s1 s2 := .raise ..
  have h3 : Calm s2 s3 := .finishCovered ..
  exact (sound_finishShutdown ..).after (((h1.trans h2).trans h3).trans .ofEq)

theorem sound_checkpointFailure (tu : Fin 2) (b : Byte) (final : Bool) (s : State) : Sound s (checkpointFailure tu b final s) := by
  unfold checkpointFailure
  extract_lets src s1
  have h1 : Calm s s1 := .trans .ofEq (.raise ..)
  exact (sound_finishShutdown ..).after (h1.trans (.finishCovered ..))

theorem sound_checkpointEraseEnd (pass : Bool) (s : State) : Sound s (checkpointEraseEnd pass s) := by
  unfold checkpointEraseEnd
  split
  · exact .refl s
  · exact .ite (fun _ => Calm.sound .ofEq) fun _ => sound_checkpointFailure ..

theorem sound_checkpointProgramEnd (pass : Bool) (s : State) : Sound s (checkpointProgramEnd pass s) := by
  unfold checkpointProgramEnd
  split
  · exact .refl s
  · split
    · exact .ite (fun _ => .ite (fun _ => Calm.sound .ofEq) fun _ => sound_checkpointSuccess ..)
        fun _ => (sound_checkpointFailure ..).after .ofEq
    · exact .refl s

theorem calm_startCheckpointOp (c : Ckpt) (s : State) : Calm s (startCheckpointOp c s) := by
  unfold startCheckpointOp
  extract_lets u
  split
  · exact .ofEq
  · exact .refl s
  · exact .ofEq

/-- The start of the final checkpoint marks the shutdown record, which keeps its outcome (R168, R183). -/
theorem sound_markCheckpointStart (final : Bool) (s : State) : Sound s (markCheckpointStart final s) := by
  have hk : KeepsBlocks s (markCheckpointStart final s) := .ofEq
  refine hk.sound fun hd => ?_
  obtain ⟨hscan, hrec⟩ := deviceOk_iff.mp hd
  refine ⟨deviceOk_iff.mpr ⟨hscan, fun x hx => ?_⟩, .inl (deviceMove_same _)⟩
  cases final with
  | false => exact hrec x hx
  | true =>
    obtain ⟨y, hy, rfl⟩ := Option.map_eq_some_iff.mp hx
    exact hrec y hy

/-- A sound part of a happening that leaves the device state where it is, and another after it. -/
theorem Sound.trans_of_device {r : State} (h1 : Sound s t) (hdev : t.ctl.device = s.ctl.device) (h2 : Sound t r) : Sound s r where
  window := h2.window ∘ h1.window
  backlog := h2.backlog ∘ h1.backlog
  timers := h2.timers ∘ h1.timers
  scan := h2.scan ∘ h1.scan
  binding := fun hb hd => h2.binding (h1.binding hb hd) (h1.device hd).1
  device := fun hd => hdev ▸ h2.device (h1.device hd).1

theorem sound_beginCheckpoint (s : State) : Sound s (beginCheckpoint s) := by
  unfold beginCheckpoint
  extract_lets final s1 c
  have h1 : Sound s s1 := sound_markCheckpointStart final s
  have hdev : s1.ctl.device = s.ctl.device := rfl
  clear_value s1
  refine .ite (fun _ => h1.trans_of_device hdev ?_) fun _ => h1.calm (.trans .ofEq (calm_startCheckpointOp ..))
  exact (sound_checkpointFailure ..).after .ofEq

end

end Sys2Proof.Machine
end

section
/-!
PROOFS. Requests, frames and resets: a request enters the window that its early checks leave room in (R193, R195), its owning block takes
it in READY and WORN alone but for HELLO, STATUS and RESET (R196), and a reset leaves a device that meets every invariant (R185).
-/
-- The theorems of this file are elaborated one after another: in parallel their waiting threads exceed the memory limit of the check.
set_option Elab.async false

namespace Sys2Proof.Machine

section

variable {s t : State}

/-! ## The request table -/

/-- A request that fails none of the early checks has a tag of its own, and the window has room for it (R193, R195). -/
theorem window_of_earlyCheck {k : ReqKind} {tag : Byte} {p : List Byte} (h : earlyCheck k tag p s.link = none) :
    tag ≠ 0 ∧ tag ∉ s.tags ∧ s.tags.length < 4 := by
  unfold earlyCheck at h
  split at h
  · cases h
  · next h0 =>
    split at h
    · cases h
    · next hin =>
      split at h
      · cases h
      · next hlen =>
        have hlt : s.link.requests.length < 4 := Nat.lt_of_not_le hlen
        refine ⟨h0, fun hm => hin ?_, by simpa only [State.tags, List.length_map] using hlt⟩
        obtain ⟨r, hr, rfl⟩ := List.mem_map.mp hm
        exact List.any_eq_true.mpr ⟨r, hr, beq_self_eq_true _⟩

theorem calm_enterRequest {k : ReqKind} {tag : Byte} {p : List Byte} (h : earlyCheck k tag p s.link = none) :
    Calm s (enterRequest k tag p s) := by
  obtain ⟨h0, hnew, hroom⟩ := window_of_earlyCheck h
  refine ⟨⟨fun hw => ?_, id, id, rfl, id⟩, rfl, rfl⟩
  obtain ⟨-, hnodup, hzero⟩ := windowOk_iff.mp hw
  have htags : (enterRequest k tag p s).tags = s.tags ++ [tag] := List.map_append
  rw [windowOk_iff, htags, List.length_append, List.length_singleton]
  refine ⟨hroom, List.nodup_append.mpr ⟨hnodup, List.nodup_singleton tag, fun a ha b hb e => ?_⟩, fun hm => ?_⟩
  · rw [List.mem_singleton.mp hb] at e
    exact hnew (e ▸ ha)
  · rcases List.mem_append.mp hm with hm | hm
    · exact hzero hm
    · exact h0 (List.mem_singleton.mp hm).symm

/-- A reply that leaves takes its request out of the window (R195, R198). -/
theorem calm_releaseReply (r : Reply) (rest : List Reply) (s : State) : Calm s (releaseReply r rest s) := by
  have hdrop : ∀ tag, Calm s (s.setLink { s.link with
      replies := rest, tx := .idle, requests := s.link.requests.filter (fun q => q.tag ≠ tag) }) := fun tag => by
    refine ⟨⟨fun hw => ?_, id, id, rfl, id⟩, rfl, rfl⟩
    obtain ⟨hlen, hnodup, hzero⟩ := windowOk_iff.mp hw
    have hsub : ((s.link.requests.filter (fun q => q.tag ≠ tag)).map (·.tag)).Sublist s.tags := List.filter_sublist.map _
    exact windowOk_iff.mpr ⟨hsub.length_le.trans hlen, hnodup.sublist hsub, fun hm => hzero (hsub.subset hm)⟩
  have hstaged : ∀ t : State, Calm s t → Calm s (match r.staging with | some i => t.setStaging i .free | none => t) := fun t h => by
    split
    · exact h.trans .ofEq
    · exact h
  unfold releaseReply
  cases r.source with
  | request tag k => exact hstaged _ (hdrop tag)
  | refusal => exact hstaged _ .ofEq

/-! ## The requests of the blocks -/

theorem calm_countDiscard (s : State) : Calm s (countDiscard s) := .ite .ofEq (.trans .ofEq (.raise ..))

theorem calm_discardFrame (s : State) : Calm s (discardFrame s) := .trans .ofEq (calm_countDiscard _)

theorem calm_earlyRefusal (kind tag : Byte) (st : Status) (s : State) : Calm s (earlyRefusal kind tag st s) :=
  .ite (calm_countDiscard s) .ofEq

/-- A request that the device-state check passes in READY and WORN alone (R196). -/
theorem open_of_deviceCheck {k : ReqKind} (hk : takenAlways k = false) (h : deviceCheck s.ctl.device k = none) :
    s.ctl.device = .ready ∨ s.ctl.device = .worn := by
  unfold deviceCheck at h
  rw [hk, if_neg Bool.false_ne_true] at h
  cases hd : s.ctl.device with
  | ready => exact .inl rfl
  | worn => exact .inr rfl
  | mounting | shuttingDown | halted =>
    rw [hd] at h
    cases h

/-- SHUTDOWN takes READY or WORN to SHUTTING_DOWN with a record that has no outcome yet (R166, R182). -/
theorem sound_shutdownRequest (tag : Byte) (ho : s.ctl.device = .ready ∨ s.ctl.device = .worn) : Sound s (shutdownRequest tag s) := by
  unfold shutdownRequest
  extract_lets src s1 s2
  have hk : KeepsBlocks s s1 := .ofEq
  have h1 : Sound s s1 := hk.sound fun hd => by
    obtain ⟨hscan, -⟩ := deviceOk_iff.mp hd
    have hno : ¬(s.ctl.scan.isSome = true) := fun h => by
      rcases ho with e | e <;> exact absurd (e.symm.trans (hscan.mp h)) nofun
    refine ⟨deviceOk_iff.mpr ⟨⟨fun h => absurd h hno, nofun⟩, fun x hx => ?_⟩, .inl ?_⟩
    · cases hx
      exact ⟨rfl, rfl⟩
    · rcases ho with e | e <;> rw [e] <;> rfl
  have hm : Moves s1 s2 := ((Moves.refl s1).endAllRuns .shutdown).discardAllHeld
  have hst : Steady s1 s2 := ((Steady.refl s1).endAllRuns .shutdown).discardAllHeld
  have hdev : s2.ctl.device = s1.ctl.device := hm.device.resolve_right fun h => absurd h.1 nofun
  have h2 : Calm s1 s2 := ⟨.ofMoves hm hst.config, hdev, hst.shutdown⟩
  clear_value s2
  exact (h1.calm h2).calm .ofEq

/-- TIMER starts a timer with a period of at least one tick, and stops one with none remaining (R86, R89). -/
theorem calm_timerRequest (tag : Byte) (p : List Byte) (s : State) : Calm s (timerRequest tag p s) := by
  unfold timerRequest
  split
  · exact .finishRequest ..
  · next n _ =>
    have hreply : ∀ t : State, Calm s t → Calm s (timerReply tag n s t) := fun t h => h.trans (.finishRequest ..)
    have hstop : Calm s (stopIfRunning n s) := .ite (calm_setTimer fun _ => rfl) (.refl s)
    split
    · split
      · exact .finishRequest ..
      · next hp =>
        have hpos : 1 ≤ (field16 p 4).toNat := by
          refine Nat.one_le_iff_ne_zero.mpr fun h => hp (.inl (BitVec.eq_of_toNat_eq h))
        exact hreply _ (calm_setTimer fun _ => ⟨hpos, Nat.le_refl _⟩)
    · exact .ite (hreply _ hstop) (.finishRequest ..)

theorem sound_ownRequest (k : ReqKind) (tag : Byte) (p : List Byte) (h : deviceCheck s.ctl.device k = none) :
    Sound s (ownRequest k tag p s) := by
  have hm := Moves.refl s
  cases k with
  | hello => exact Calm.sound (.finishRequest ..)
  | status => exact Calm.sound (.finishRequest ..)
  | reset => exact (Calm.finishRequest .reset tag .ok [] none s).sound.calm .ofEq
  | shutdown => exact sound_shutdownRequest tag (open_of_deviceCheck rfl h)
  | checkpoint => exact (hm.checkpointRequest tag).soundOpen (open_of_deviceCheck rfl h)
  | setNoticeMask => exact (hm.maskRequest tag p).soundOpen (open_of_deviceCheck rfl h)
  | ackNotice => exact (hm.ackRequest tag p).soundOpen (open_of_deviceCheck rfl h)
  | defineStream => exact (hm.defineRequest tag p).soundOpen (open_of_deviceCheck rfl h)
  | arm => exact (hm.armRequest tag p).soundOpen (open_of_deviceCheck rfl h)
  | fire => exact (hm.fireRequest tag p).soundOpen (open_of_deviceCheck rfl h)
  | stop => exact (hm.stopRequest tag p).soundOpen (open_of_deviceCheck rfl h)
  | flush => exact (hm.flushRequest tag p).soundOpen (open_of_deviceCheck rfl h)
  | unbind => exact (hm.unbindRequest tag p).soundOpen (open_of_deviceCheck rfl h)
  | streamInfo => exact (hm.infoRequest tag p).soundOpen (open_of_deviceCheck rfl h)
  | timer => exact (calm_timerRequest tag p s).sound
  | read => exact (hm.readRequest tag p).soundOpen (open_of_deviceCheck rfl h)
  | release => exact (hm.releaseRequest tag p).soundOpen (open_of_deviceCheck rfl h)
  | delete => exact (hm.deleteRequest tag p).soundOpen (open_of_deviceCheck rfl h)
  | unitInfo => exact (hm.unitInfoRequest tag p).soundOpen (open_of_deviceCheck rfl h)
  | mapSummary => exact (hm.summaryRequest tag).soundOpen (open_of_deviceCheck rfl h)

theorem sound_takeRequest (k : ReqKind) (tag : Byte) (p : List Byte) (s : State) :
    Sound s (takeRequest k tag p (ownRequest k tag p) s) := by
  unfold takeRequest
  split
  · exact (calm_earlyRefusal ..).sound
  · next he =>
    have h1 : Calm s (enterRequest k tag p s) := calm_enterRequest he
    extract_lets s1
    split
    · exact (h1.trans (.finishRequest ..)).sound
    · next hd => exact (sound_ownRequest k tag p hd).after h1

theorem sound_takeFrame (kind tag : Byte) (p : List Byte) (s : State) : Sound s (takeFrame kind tag p s) := by
  unfold takeFrame
  split
  · exact (calm_earlyRefusal ..).sound
  · exact sound_takeRequest ..

theorem sound_receiveByte (b : Byte) (s : State) : Sound s (receiveByte b s) := by
  have hd : Sound s (discardFrame s) := (calm_discardFrame s).sound
  have htake : ∀ rx, Sound s (takeByte rx s) := fun rx => Calm.sound .ofEq
  unfold receiveByte
  split
  · exact .ite (fun _ => htake _) fun _ => .refl s
  · exact .ite (fun _ => htake _) fun _ => hd
  · exact htake _
  · exact htake _
  · refine .ite (fun _ => ?_) fun _ => hd
    unfold frameArrives
    split
    · exact (sound_takeFrame ..).after .ofEq
    · exact hd

/-! ## Resets -/

/-- The state meets every invariant that `Sound` speaks of, and the device is MOUNTING. -/
structure Fresh (t : State) : Prop where
  window : t.windowOk = true
  backlog : t.backlogOk = true
  timers : t.timersOk = true
  scan : t.scanOk = true
  binding : t.bindingOk = true
  deviceOk : t.deviceOk = true
  device : t.ctl.device = .mounting

/-- What a reset leaves meets them (R70, R86, R165, R174, R188, R204). -/
theorem fresh_afterResetOf (straps : Straps) (ext : BitVec 4) (powered rstLow : Bool) (s : State) :
    Fresh (afterResetOf straps ext powered rstLow s) := ⟨rfl, rfl, rfl, rfl, rfl, rfl, rfl⟩

theorem Fresh.sound (h : Fresh t) : Sound s t :=
  ⟨fun _ => h.window, fun _ => h.backlog, fun _ => h.timers, fun _ => h.scan, fun _ _ => h.binding, fun _ => ⟨h.deviceOk, .inr h.device⟩⟩

theorem sound_replyDeparts (straps : Straps) (ext : BitVec 4) (s : State) : Sound s (replyDeparts straps ext s) := by
  unfold replyDeparts
  split
  · split
    · rw [resetDevice_eq]
      exact (fresh_afterResetOf straps ext s.powered s.rstLow s).sound
    · exact ((calm_releaseReply ..).trans (calm_chooseFrame _)).sound
  · exact .refl s

theorem sound_noticeDeparts (s : State) : Sound s (noticeDeparts s) := by
  unfold noticeDeparts
  split
  · exact (Calm.trans .ofEq (calm_chooseFrame _)).sound
  · exact .refl s
  · exact .refl s

end

end Sys2Proof.Machine
end

section
/-!
PROOFS. The mount scan: its position and its results fit (R174, R177) at every read, and its end leaves MOUNTING for READY or WORN with no
stream bound (R166, R181).
-/
-- The theorems of this file are elaborated one after another: in parallel their waiting threads exceed the memory limit of the check.
set_option Elab.async false

namespace Sys2Proof.Machine

/-- The unit is a data unit, and every result is about a unit before it (R174). -/
def isBehind (found : List ScanResult) (u : UnitId) : Prop := 2 ≤ u.val ∧ ∀ x ∈ found, x.about < u

/-- The results of the scan fit its position: none before the units are scanned, and those of the units before from then on. -/
def posFits (found : List ScanResult) : ScanPos → Prop
  | .header _ => found = []
  | .commit _ _ => found = []
  | .entry _ _ _ _ => found = []
  | .slot0 u => isBehind found u
  | .slot63 u _ => isBehind found u
  | .count u _ _ k _ => isBehind found u ∧ 1 ≤ k
  | .blank u _ => isBehind found u

theorem isBehind_iff {found : List ScanResult} {u : UnitId} :
    (decide (2 ≤ u.val) && found.all (fun x => decide (x.about < u))) = true ↔ isBehind found u := by
  rw [Bool.and_eq_true_iff, decide_eq_true_iff, List.all_eq_true]
  exact and_congr_right fun _ => forall₂_congr fun _ _ => decide_eq_true_iff

theorem scanOk_iff {s : State} :
    s.scanOk = true ↔ ∀ sc, s.ctl.scan = some sc → FoundOk sc.results ∧ posFits sc.results sc.pos := by
  unfold State.scanOk
  cases s.ctl.scan with
  | none =>
    rw [Option.all_none]
    exact ⟨fun _ sc h => absurd h.symm (Option.some_ne_none sc), fun _ => rfl⟩
  | some sc =>
    obtain ⟨pos, best, high, found, buffer⟩ := sc
    rw [Option.all_some, Bool.and_eq_true_iff, Bool.and_eq_true_iff, List.all_eq_true]
    have hone : ∀ {p : Scan → Prop}, (∀ sc, some ⟨pos, best, high, found, buffer⟩ = some sc → p sc) ↔ p ⟨pos, best, high, found, buffer⟩ :=
      ⟨fun h => h _ rfl, fun h sc e => Option.some.inj e ▸ h⟩
    rw [hone]
    refine and_congr ⟨fun ⟨hsort, hres⟩ => ⟨of_decide_eq_true hsort, fun y hy => ?_, fun o ho => ?_⟩,
      fun h => ⟨decide_eq_true h.ordered, fun y hy => ?_⟩⟩ ?_
    · exact of_decide_eq_true (Bool.and_eq_true_iff.mp (hres y hy)).1
    · exact of_decide_eq_true (Bool.and_eq_true_iff.mp (hres _ ho)).2
    · refine Bool.and_eq_true_iff.mpr ⟨decide_eq_true (h.data y hy), ?_⟩
      cases y with
      | owned o => exact decide_eq_true (h.pages o hy)
      | free _ | dirty _ => rfl
    · cases pos with
      | header _ | commit _ _ | entry _ _ _ _ => exact List.isEmpty_iff
      | slot0 u | slot63 u _ | blank u _ => exact isBehind_iff
      | count u _ _ k _ => exact Bool.and_eq_true_iff.trans (and_congr isBehind_iff decide_eq_true_iff)

theorem scanOk_of_none {s : State} (h : s.ctl.scan = none) : s.scanOk = true := by
  unfold State.scanOk
  rw [h, Option.all_none]

/-- A result about the unit at the scan's position, which has a valid page when it is owned, joins the results. -/
theorem FoundOk.snoc {found : List ScanResult} {u : UnitId} {x : ScanResult} (h : FoundOk found) (hb : isBehind found u)
    (hx : x.about = u) (hp : ∀ o, x = .owned o → 1 ≤ o.count) : FoundOk (found ++ [x]) where
  ordered := by
    rw [List.map_append, List.map_singleton]
    refine List.pairwise_append.mpr ⟨h.ordered, List.pairwise_singleton _ _, fun v hv w hw => ?_⟩
    obtain ⟨y, hy, rfl⟩ := List.mem_map.mp hv
    rw [List.mem_singleton.mp hw, hx]
    exact hb.2 y hy
  data := fun y hy => by
    rcases List.mem_append.mp hy with hy | hy
    · exact h.data y hy
    · rw [List.mem_singleton.mp hy, hx]
      exact hb.1
  pages := fun o ho => by
    rcases List.mem_append.mp ho with ho | ho
    · exact h.pages o ho
    · exact hp o (List.mem_singleton.mp ho).symm

section

variable {s t : State} {sc : Scan}

/-! ## The parts of the mount that are calm -/

theorem calm_chooseCopy (sc : Scan) (s : State) : Calm s (chooseCopy sc s) := by
  rw [chooseCopy_eq]
  unfold withCopy
  split
  · exact .ofEq
  · exact .ofEq

/-- While the scan runs no stream has a configuration, and a record without one may take the place of any (R46, R71). -/
theorem bindingOk_unbind {st : StreamId} {x : StreamRec} (hx : x.config = none) (hs : s.ctl.scan.isSome = true) (hb : s.bindingOk = true) :
    (s.setStream st x).bindingOk = true := by
  obtain ⟨hlanes, hconf⟩ := bindingOk_iff.mp hb
  have hnone : ∀ f, (s.stream f).config = none := hconf.resolve_left fun h => by
    rw [h] at hs
    cases hs
  have hset : ∀ f, ((s.setStream st x).stream f).config = none := fun f => by
    rw [stream_setStream]
    split
    · exact hx
    · exact hnone f
  refine bindingOk_iff.mpr ⟨?_, .inr hset⟩
  exact (lanesBound_congr (s := s) (t := s.setStream st x) (fun _ => rfl) fun f => (hset f).trans (hnone f).symm).mpr hlanes

/-- The chains give no stream a configuration (R180, R181). -/
theorem calm_buildStream (won : List UnitId) (chain : List Owned) (gaps : List Gap) (st : StreamId) (hs : s.ctl.scan.isSome = true) :
    Calm s (buildStream won chain gaps st s) := by
  unfold buildStream
  split
  · next a z _ _ =>
    extract_lets s1 s2
    have h1 : Calm s s1 := .foldl (fun _ _ => .ofEq) _ _
    have h2 : Calm s s2 := h1.trans .ofEq
    refine ⟨⟨h2.window, h2.backlog, h2.timers, h2.scan, fun hb => ?_⟩, h2.device, h2.shutdown⟩
    clear_value s2
    exact bindingOk_unbind rfl (by rw [h2.scan]; exact hs) (h2.binding hb)
  · exact .refl s

theorem calm_buildStreams (won : List UnitId) (chains : List (StreamId × List Owned × List Gap × List UnitId)) :
    ∀ {s : State}, s.ctl.scan.isSome = true → Calm s (chains.foldl (fun s c => buildStream won c.2.1 c.2.2.1 c.1 s) s) := by
  induction chains with
  | nil => exact fun _ => .refl _
  | cons c l ih =>
    intro s hs
    have h1 := calm_buildStream won c.2.1 c.2.2.1 c.1 hs
    exact h1.trans (ih (by rw [h1.scan]; exact hs))

theorem calm_insertFrees (l : List UnitId) (s : State) : Calm s (l.foldl (fun s u => insertFree u s) s) := .foldl (fun _ _ => .ofEq) l s

theorem calm_buildDirty (l : List UnitId) (s : State) : Calm s (buildDirty l s) := by
  unfold buildDirty
  generalize dataUnits.filter _ = us
  exact .foldl (fun _ _ => .ofEq) us s

/-! ## The end of the mount -/

/-- While the scan runs the device is MOUNTING, and there is no shutdown record (R165). -/
theorem mounting_of_scan (hd : s.deviceOk = true) (hs : s.ctl.scan.isSome = true) : s.ctl.device = .mounting ∧ s.ctl.shutdown = none := by
  obtain ⟨hscan, hrec⟩ := deviceOk_iff.mp hd
  refine ⟨hscan.mp hs, Option.eq_none_iff_forall_ne_some.mpr fun x hx => ?_⟩
  exact absurd ((hrec x hx).1.symm.trans (hscan.mp hs)) nofun

/-- A sound part of a happening between two states of the mount, and another after it. -/
theorem Sound.trans_mounting {r : State} (h1 : Sound s t) (hs : s.ctl.scan.isSome = true) (ht : t.ctl.scan.isSome = true) (h2 : Sound t r) :
    Sound s r where
  window := h2.window ∘ h1.window
  backlog := h2.backlog ∘ h1.backlog
  timers := h2.timers ∘ h1.timers
  scan := h2.scan ∘ h1.scan
  binding := fun hb hd => h2.binding (h1.binding hb hd) (h1.device hd).1
  device := fun hd => by
    have hdt := (h1.device hd).1
    have e : t.ctl.device = s.ctl.device := (mounting_of_scan hdt ht).1.trans (mounting_of_scan hd hs).1.symm
    exact e ▸ h2.device hdt

theorem sound_leaveMounting (hs : s.ctl.scan.isSome = true) : Sound s (leaveMounting s) where
  window := id
  backlog := raise_backlogOk (s := s.setCtl { s.ctl with device := if wornLimit ≤ s.map.retiredCount then .worn else .ready, scan := none }) _ _
  timers := id
  scan := fun _ => scanOk_of_none rfl
  binding := fun hb _ => bindingOk_iff.mpr ⟨(bindingOk_iff.mp hb).1, .inl rfl⟩
  device := fun hd => by
    obtain ⟨hm, hx⟩ := mounting_of_scan hd hs
    have hdev : (leaveMounting s).ctl.device = if wornLimit ≤ s.map.retiredCount then .worn else .ready := rfl
    have hmove : (leaveMounting s).ctl.device ≠ .mounting ∧ deviceMove .mounting (leaveMounting s).ctl.device = true := by
      rw [hdev]
      split <;> exact ⟨nofun, rfl⟩
    refine ⟨deviceOk_iff.mpr ⟨⟨nofun, fun h => absurd h hmove.1⟩, fun x h => ?_⟩, .inl (by rw [hm]; exact hmove.2)⟩
    exact absurd (hx.symm.trans h) nofun

theorem sound_settleMount (results : List ScanResult) (hs : s.ctl.scan.isSome = true) : Sound s (settleMount results s) := by
  unfold settleMount
  extract_lets g s1 kd chains s2 s3 s4
  have hm : Moves s s1 := .foldl (fun r u => (Moves.refl r).retire u) (.refl s) _
  have h1 : Sound s s1 := hm.sound (.foldl (fun r u => (Steady.refl r).retire u) (.refl s) _)
  have hs1 : s1.ctl.scan.isSome = true := by rw [hm.scan]; exact hs
  have h2 : Calm s1 s2 := calm_buildStreams _ _ hs1
  have h4 : Calm s1 s4 := (h2.trans (calm_insertFrees _ _)).trans (calm_buildDirty _ _)
  have hs4 : s4.ctl.scan.isSome = true := by rw [h4.scan]; exact hs1
  exact (h1.calm h4).trans_mounting hs hs4 (sound_leaveMounting hs4)

/-! ## One read of the scan -/

/-- The scan goes on at a position that its results fit. -/
theorem sound_setScan {pos : ScanPos} (hs : s.ctl.scan.isSome = true)
    (h : s.scanOk = true → FoundOk sc.results ∧ posFits sc.results pos) : Sound s (setScan sc pos s) where
  window := id
  backlog := id
  timers := id
  scan := fun hok => scanOk_iff.mpr fun sc' e => by
    cases e
    exact h hok
  binding := fun hb _ => by
    obtain ⟨hl, hc⟩ := bindingOk_iff.mp hb
    refine bindingOk_iff.mpr ⟨hl, .inr (hc.resolve_left fun e => ?_)⟩
    rw [e] at hs
    cases hs
  device := fun hd => by
    obtain ⟨hscan, hrec⟩ := deviceOk_iff.mp hd
    exact ⟨deviceOk_iff.mpr ⟨⟨fun _ => hscan.mp hs, fun _ => rfl⟩, hrec⟩, .inl (deviceMove_same _)⟩

/-- The scan goes on behind a unit, or the mount is settled (R174). -/
theorem sound_scanFrom {n : Nat} (hs : s.ctl.scan.isSome = true)
    (h : s.scanOk = true → FoundOk sc.results ∧ ∀ x ∈ sc.results, x.about.val < n) : Sound s (scanFrom sc n s) := by
  unfold scanFrom
  split
  · next u hu =>
    unfold nextDataUnit at hu
    have hfound := List.find?_some hu
    have hdata : u ∈ dataUnits := List.mem_of_find?_eq_some hu
    have hn : n ≤ u.val := of_decide_eq_true (Bool.and_eq_true_iff.mp hfound).1
    refine sound_setScan hs fun hok => ?_
    obtain ⟨hf, hlt⟩ := h hok
    exact ⟨hf, (mem_dataUnits u).mp hdata, fun x hx => Nat.lt_of_lt_of_le (hlt x hx) hn⟩
  · exact sound_settleMount _ hs

theorem sound_finishUnit {u : UnitId} {x : ScanResult} (hs : s.ctl.scan.isSome = true)
    (h : s.scanOk = true → FoundOk sc.results ∧ isBehind sc.results u) (hx : x.about = u)
    (hp : s.scanOk = true → ∀ o, x = .owned o → 1 ≤ o.count) : Sound s (finishUnit sc u x s) := by
  refine sound_scanFrom hs fun hok => ?_
  obtain ⟨hf, hb⟩ := h hok
  refine ⟨hf.snoc hb hx (hp hok), fun y hy => Nat.lt_succ_of_le ?_⟩
  rcases List.mem_append.mp hy with hy | hy
  · exact Nat.le_of_lt (hb.2 y hy)
  · rw [List.mem_singleton.mp hy, hx]

theorem noteTableSlot_results (k : Fin 16) (hdr cmt : ReadResult) (es : List ReadResult) (sc : Scan) :
    (noteTableSlot k hdr cmt es sc).results = sc.results := by
  unfold noteTableSlot
  extract_lets sc1
  have h1 : sc1.results = sc.results := by
    simp only [sc1]
    split <;> rfl
  split <;> exact h1

theorem sound_finishTableSlot {k : Fin 16} {hdr cmt : ReadResult} {es : List ReadResult} (hs : s.ctl.scan.isSome = true)
    (h : s.scanOk = true → FoundOk sc.results ∧ sc.results = []) : Sound s (finishTableSlot sc k hdr cmt es s) := by
  have hnote := noteTableSlot_results k hdr cmt es sc
  unfold finishTableSlot
  extract_lets sc1
  have hn : sc1.results = sc.results := hnote
  split
  · refine sound_setScan hs fun hok => ?_
    rw [hn]
    exact h hok
  · have hc := calm_chooseCopy sc1 s
    refine (sound_scanFrom (by rw [hc.scan]; exact hs) fun hok => ?_).after hc
    obtain ⟨hf, he⟩ := h ((scanOk_congr hc.scan).symm.trans hok)
    rw [hn]
    exact ⟨hf, fun x hx => by rw [he] at hx; cases hx⟩

section

variable {u : UnitId} {r0 r63 res : ReadResult} (hs : s.ctl.scan.isSome = true)
  (h : s.scanOk = true → FoundOk sc.results ∧ isBehind sc.results u)
include hs h

theorem sound_dirtyUnit : Sound s (finishUnit sc u (.dirty u) s) := sound_finishUnit hs h rfl fun _ _ => nofun

theorem sound_classifyUnit : Sound s (classifyUnit sc u r0 r63 s) := by
  unfold classifyUnit
  split
  · exact sound_setScan hs fun hok => (h hok).imp_right fun hb => ⟨hb, Nat.le_refl 1⟩
  · exact .ite (fun _ => sound_setScan hs h) fun _ => sound_dirtyUnit hs h

theorem sound_finishCount {n : Nat} {e : ScanEnd} {run : Word} (hn : s.scanOk = true → 1 ≤ n) :
    Sound s (finishCount sc u r0 r63 n e run s) := by
  unfold finishCount
  split
  · exact sound_finishUnit hs h rfl fun hok o ho => by cases ho; exact hn hok
  · exact sound_dirtyUnit hs h

theorem sound_countSlot {k : Nat} {run : Word} (hk : s.scanOk = true → 1 ≤ k) : Sound s (countSlot sc u r0 r63 k run res s) := by
  refine .ite (fun _ => .ite (fun _ => ?_) fun _ => .ite (fun _ => ?_) fun _ => ?_) fun _ => sound_finishCount hs h hk
  · exact sound_setScan hs fun hok => (h hok).imp_right fun hb => ⟨hb, Nat.le_add_left 1 k⟩
  · exact sound_finishCount hs h fun _ => by decide
  · exact sound_finishCount hs h fun _ => by decide

theorem sound_blankSlot {k : Nat} : Sound s (blankSlot sc u k res s) :=
  .ite (fun _ => .ite (fun _ => sound_setScan hs h) fun _ => sound_finishUnit hs h rfl fun _ _ => nofun) fun _ => sound_dirtyUnit hs h

end

/-- A read of the mount scan moves the position by R174 to R177, position by position. -/
theorem sound_scanReadEnd (res : ReadResult) (s : State) : Sound s (scanReadEnd res s) := by
  cases hsc : s.ctl.scan with
  | none =>
    have e : scanReadEnd res s = s := by
      unfold scanReadEnd
      rw [hsc]
    rw [e]
    exact .refl s
  | some sc =>
    have hs : s.ctl.scan.isSome = true := by rw [hsc]; rfl
    have hok : s.scanOk = true → FoundOk sc.results ∧ posFits sc.results sc.pos := fun h => scanOk_iff.mp h sc hsc
    cases hp : sc.pos with
    | header k =>
      rw [hp] at hok
      rw [scanReadEnd_header hsc hp]
      exact sound_setScan hs hok
    | commit k hdr =>
      rw [hp] at hok
      rw [scanReadEnd_commit hsc hp]
      exact .ite (fun _ => sound_setScan hs hok) fun _ => sound_finishTableSlot hs hok
    | entry k hdr cmt got =>
      rw [hp] at hok
      rw [scanReadEnd_entry hsc hp]
      exact .ite (fun _ => sound_setScan hs hok) fun _ => sound_finishTableSlot hs hok
    | slot0 u =>
      rw [hp] at hok
      rw [scanReadEnd_slot0 hsc hp]
      exact sound_setScan hs hok
    | slot63 u r0 =>
      rw [hp] at hok
      rw [scanReadEnd_slot63 hsc hp]
      exact sound_classifyUnit hs hok
    | count u r0 r63 k run =>
      rw [hp] at hok
      rw [scanReadEnd_count hsc hp]
      exact sound_countSlot (sc := scanned sc res) hs (fun h => (hok h).imp_right And.left) fun h => (hok h).2.2
    | blank u k =>
      rw [hp] at hok
      rw [scanReadEnd_blank hsc hp]
      exact sound_blankSlot (sc := scanned sc res) hs hok

end

end Sys2Proof.Machine
end

section
/-!
PROOFS. O60: what every command keeps, command by command.
-/
-- The theorems of this file are elaborated one after another: in parallel their waiting threads exceed the memory limit of the check.
set_option Elab.async false

namespace Sys2Proof.Machine

section

variable {s t : State}

/-! ## The ends of the array's operations -/

theorem sound_programEnd (pass : Bool) (op : Operation) (s : State) : Sound s (programEnd pass op s) := by
  rw [programEnd_eq]
  have h1 : Calm s (slotEnded pass op s) := .ite .ofEq .ofEq
  have hm := Moves.refl (slotEnded pass op s)
  have hst := Steady.refl (slotEnded pass op s)
  have hh : Sound (slotEnded pass op s) (handleProgram pass op (slotEnded pass op s)) := by
    generalize slotEnded pass op s = u at hm hst
    unfold handleProgram
    split
    · exact (hm.queueProgramEnd pass op).sound (hst.queueProgramEnd pass op)
    · exact (hm.relocProgramEnd pass).sound (hst.relocProgramEnd pass)
    · exact sound_checkpointProgramEnd pass u
    all_goals exact .refl u
  exact (hh.after h1).calm .ofEq

theorem sound_eraseEnd (pass : Bool) (op : Operation) (s : State) : Sound s (eraseEnd pass op s) := by
  rw [eraseEnd_eq]
  have h1 : Calm s (unitEnded pass op s) := .ite .ofEq .ofEq
  have hm := Moves.refl (unitEnded pass op s)
  have hst := Steady.refl (unitEnded pass op s)
  have hh : Sound (unitEnded pass op s) (handleErase pass op (unitEnded pass op s)) := by
    generalize unitEnded pass op s = u at hm hst
    unfold handleErase
    split
    · exact .ite (fun _ => (hm.eraseUnitPass _).sound (hst.eraseUnitPass _)) fun _ => (hm.retire _).sound (hst.retire _)
    · exact sound_checkpointEraseEnd pass u
    all_goals exact .refl u
  exact (hh.after h1).calm .ofEq

theorem sound_readEnd (done : Bool) (res : ReadResult) (op : Operation) (s : State) : Sound s (readEnd done res op s) := by
  have hm := Moves.refl s
  have hst := Steady.refl s
  have hh : Sound s (handleRead done res op s) := by
    unfold handleRead
    split
    · exact (hm.readPathEnd done res op).sound (hst.readPathEnd done res op)
    · exact (hm.relocReadEnd res).sound (hst.relocReadEnd res)
    · exact sound_scanReadEnd res s
    all_goals exact .refl s
  unfold readEnd
  generalize handleRead done res op s = u at hh
  exact hh.calm .ofEq

theorem sound_endOperation {kind : OpKind} {f : Operation → State → State} (hf : ∀ op, Sound s (f op s)) :
    Sound s (endOperation kind f s) := by
  unfold endOperation
  split
  · exact hf _
  · exact .refl s

theorem sound_timeoutOf {kind : OpKind} {limit : Nat} {f : Operation → State → State} (hf : ∀ op, Sound s (f op s)) :
    Sound s (timeoutOf kind limit f s) :=
  sound_endOperation fun op => .ite (fun _ => hf op) fun _ => .refl s

theorem sound_grant {c : Claim} {f : State → State} (hf : Sound s (f s)) : Sound s (grant c f s) :=
  .happening (.ite (fun _ => hf) fun _ => .refl s)

/-! ## Lanes, pins and timers -/

/-- A lane in another phase listens as before. -/
theorem moves_setPhase (l : LaneId) (p : LanePhase) (s : State) : Moves s (s.setPhase l p) := (Moves.refl s).setLane l { s.lane l with phase := p }

theorem steady_setPhase (l : LaneId) (p : LanePhase) (s : State) : Steady s (s.setPhase l p) := .next (.refl s)

theorem sound_goodWord (l : LaneId) (p : LanePhase) (w : Word) (s : State) : Sound s (goodWord l w (s.setPhase l p)) :=
  ((moves_setPhase l p s).goodWord l w).sound ((steady_setPhase l p s).goodWord l w)

theorem sound_badWord (l : LaneId) (p : LanePhase) (s : State) : Sound s (badWord l (s.setPhase l p)) :=
  ((moves_setPhase l p s).badWord l).sound ((steady_setPhase l p s).badWord l)

theorem sound_setPhase (l : LaneId) (p : LanePhase) (s : State) : Sound s (s.setPhase l p) :=
  (moves_setPhase l p s).sound (steady_setPhase l p s)

theorem sound_clockBit (l : LaneId) (dat : Bool) (s : State) : Sound s (clockBit l dat s) := by
  unfold clockBit
  split
  · exact .refl s
  · exact .ite (fun _ => sound_setPhase ..) fun _ => .ite (fun _ => sound_goodWord ..) fun _ => sound_badWord ..
  · exact sound_setPhase ..

theorem sound_wordBoundary (l : LaneId) (s : State) : Sound s (wordBoundary l s) :=
  .ite (fun _ => sound_setPhase ..) fun _ => sound_badWord ..

theorem sound_trigger (role : StreamRec → StreamId → TriggerRole) (s : State) : Sound s (trigger role s) :=
  ((Moves.refl s).trigger role).sound ((Steady.refl s).trigger role)

theorem sound_edge (pin : PinId) (high : Bool) (s : State) : Sound s (edge pin high s) :=
  .ite (fun _ => .refl s) fun _ => (sound_trigger ..).after (t := setPin pin high s) .ofEq

/-- A timer that runs has a tick left, and a period of at least one tick (R86). -/
theorem ticks_of_running {n : TimerId} (hr : (s.timer n).running = true) (h : s.timersOk = true) :
    1 ≤ (s.timer n).remaining ∧ (s.timer n).remaining ≤ (s.timer n).period := by
  have hn := timersOk_iff.mp h n
  unfold Timer.ticksOk at hn
  rwa [if_pos hr] at hn

theorem running_of_tickPassed {n : TimerId} (h : tickPassed n s = true) : (s.timer n).running = true := (Bool.and_eq_true_iff.mp h).1

/-- An expiry reloads a periodic timer with its period, and stops a one-shot timer (R87). -/
theorem sound_expire (n : TimerId) (s : State) : Sound s (expire n s) := by
  refine .ite (fun hdue => ?_) fun _ => .refl s
  have hr := running_of_tickPassed (Bool.and_eq_true_iff.mp hdue).1
  have hset : Calm s (s.setTimer n (s.timer n).expire) := calm_setTimer fun h => by
    obtain ⟨hlow, hhigh⟩ := ticks_of_running hr h
    unfold Timer.expire
    split
    · unfold Timer.ticksOk
      rw [if_pos hr]
      exact ⟨hlow.trans hhigh, Nat.le_refl _⟩
    · rfl
  exact (sound_trigger ..).after hset

/-- A tick short of expiry leaves at least one (R87). -/
theorem calm_tick (n : TimerId) (s : State) : Calm s (tick n s) := by
  unfold tick
  split
  · next hdue =>
    obtain ⟨hpassed, hmore⟩ := Bool.and_eq_true_iff.mp hdue
    have hr := running_of_tickPassed hpassed
    have hmore : 1 < (s.timer n).remaining := of_decide_eq_true hmore
    refine calm_setTimer fun h => ?_
    obtain ⟨-, hhigh⟩ := ticks_of_running hr h
    unfold Timer.ticksOk
    rw [if_pos hr]
    exact ⟨Nat.le_sub_one_of_lt hmore, (Nat.sub_le _ _).trans hhigh⟩
  · exact .refl s

/-! ## The commands -/

/-- The command keeps the invariants. -/
def keeps (c : Instr) (s : State) : Prop := ∃ t, exec c s = .next t ∧ Sound s t

theorem keeps_happening {c : Instr} {f : State → State} (e : exec c s = .next (happening f s)) (hf : Sound s (f s)) : keeps c s :=
  ⟨_, e, .happening hf⟩

theorem keeps_request {c : Instr} (k : ReqKind) {tag : Byte} {p : List Byte}
    (e : exec c s = .next (requestHappening k tag p (ownRequest k tag p) s)) : keeps c s :=
  keeps_happening e ((sound_takeRequest k tag p (frameTaken s)).after .ofEq)

theorem keeps_grant {c : Instr} {cl : Claim} {f : State → State} (e : exec c s = .next (grant cl f s)) (hf : Sound s (f s)) : keeps c s :=
  ⟨_, e, sound_grant hf⟩

theorem keeps_rstAssert (straps : Straps) (s : State) : keeps (.rstAssert straps) s := by
  cases hr : s.rstLow with
  | true => exact ⟨s, if_pos hr, .refl s⟩
  | false =>
    refine ⟨_, exec_rstAssert straps hr, ?_⟩
    exact .ite (fun _ => (fresh_afterResetOf ..).sound) fun _ => Calm.sound .ofEq

theorem keeps_rstRelease (ext : BitVec 4) (s : State) : keeps (.rstRelease ext) s := by
  by_cases hr : s.rstLow = true
  · exact ⟨_, if_pos hr, .ite (fun _ => Calm.sound .ofEq) fun _ => Calm.sound .ofEq⟩
  · exact ⟨s, if_neg hr, .refl s⟩

theorem keeps_powerLoss (s : State) : keeps .powerLoss s := by
  by_cases hp : s.powered = true
  · exact ⟨_, exec_powerLoss hp, (fresh_afterResetOf ..).sound⟩
  · exact ⟨s, if_neg hp, .refl s⟩

theorem keeps_deviceTimeTick (s : State) : keeps .deviceTimeTick s := by
  by_cases hr : s.running = true
  · exact ⟨_, if_pos hr, Calm.sound .ofEq⟩
  · exact ⟨s, if_neg hr, .refl s⟩

/-- Every command keeps the invariants, by what it does (R71, R86, R165, R166, R174, R195, R204). -/
theorem exec_keeps (c : Instr) (s : State) : keeps c s := by
  have h := Moves.refl s
  have hst := Steady.refl s
  cases c with
  | powerOn straps ext => exact ⟨_, exec_powerOn straps ext s, (fresh_afterResetOf ..).sound⟩
  | rstAssert straps => exact keeps_rstAssert straps s
  | rstRelease ext => exact keeps_rstRelease ext s
  | powerLoss => exact keeps_powerLoss s
  | deviceTimeTick => exact keeps_deviceTimeTick s
  | txHoldEnd =>
    exact keeps_happening rfl (.ite (fun _ => (calm_chooseFrame (s.setLink _)).sound.after .ofEq) fun _ => .refl s)
  | interByteTimeout => exact keeps_happening rfl (.ite (fun _ => (calm_discardFrame s).sound) fun _ => .refl s)
  | frameDiscard => exact keeps_happening rfl (calm_discardFrame s).sound
  | badKindFrame kind tag p => exact keeps_happening rfl ((sound_takeFrame kind tag p (frameTaken s)).after .ofEq)
  | rxdByte b err =>
    exact keeps_happening rfl (.ite (fun _ => .ite (fun _ => .refl s) fun _ => (calm_discardFrame s).sound)
      fun _ => sound_receiveByte b s)
  | replySent straps ext => exact keeps_happening rfl (sound_replyDeparts straps ext s)
  | noticeFrameSent => exact keeps_happening rfl (sound_noticeDeparts s)
  | hello tag p => exact keeps_request .hello rfl
  | status tag p => exact keeps_request .status rfl
  | reset tag p => exact keeps_request .reset rfl
  | shutdown tag p => exact keeps_request .shutdown rfl
  | checkpoint tag p => exact keeps_request .checkpoint rfl
  | setNoticeMask tag p => exact keeps_request .setNoticeMask rfl
  | ackNotice tag p => exact keeps_request .ackNotice rfl
  | defineStream tag p => exact keeps_request .defineStream rfl
  | arm tag p => exact keeps_request .arm rfl
  | fire tag p => exact keeps_request .fire rfl
  | stop tag p => exact keeps_request .stop rfl
  | flush tag p => exact keeps_request .flush rfl
  | unbind tag p => exact keeps_request .unbind rfl
  | streamInfo tag p => exact keeps_request .streamInfo rfl
  | timerStart tag p => exact keeps_request .timer rfl
  | timerStop tag p => exact keeps_request .timer rfl
  | read tag p => exact keeps_request .read rfl
  | release tag p => exact keeps_request .release rfl
  | delete tag p => exact keeps_request .delete rfl
  | unitInfo tag p => exact keeps_request .unitInfo rfl
  | mapSummary tag p => exact keeps_request .mapSummary rfl
  | laneGoodWord l w => exact keeps_happening rfl (.ite (fun _ => sound_goodWord l _ w s) fun _ => .refl s)
  | laneBadWord l fr => exact keeps_happening rfl (.ite (fun _ => sound_badWord l _ s) fun _ => .refl s)
  | lnclkRisingEdge l dat => exact keeps_happening rfl (.ite (fun _ => sound_clockBit l dat s) fun _ => .refl s)
  | laneWordBoundary l => exact keeps_happening rfl (.ite (fun _ => sound_wordBoundary l s) fun _ => .refl s)
  | extEdge pin high => exact keeps_happening rfl (sound_edge pin high s)
  | timerExpiry n => exact keeps_happening rfl (sound_expire n s)
  | timerTick n => exact keeps_happening rfl (calm_tick n s).sound
  | programDone pass => exact keeps_happening rfl (sound_endOperation fun op => sound_programEnd pass op s)
  | programTimeout => exact keeps_happening rfl (sound_timeoutOf fun op => sound_programEnd false op s)
  | readDone page => exact keeps_happening rfl (sound_endOperation fun op => sound_readEnd ..)
  | readTimeout => exact keeps_happening rfl (sound_timeoutOf fun op => sound_readEnd ..)
  | eraseDone pass => exact keeps_happening rfl (sound_endOperation fun op => sound_eraseEnd pass op s)
  | eraseTimeout => exact keeps_happening rfl (sound_timeoutOf fun op => sound_eraseEnd false op s)
  | lateDoneDiscard => exact ⟨s, rfl, .refl s⟩
  | programGrant => exact keeps_grant rfl (h.grantProgram.sound (by unfold grantProgram; split <;> exact hst.next))
  | readGrant => exact keeps_grant rfl (h.grantRead.sound hst.grantRead)
  | eraseGrant => exact keeps_grant rfl (h.grantErase.sound (by unfold grantErase; split <;> exact hst.next))
  | checkpointStart =>
    exact keeps_grant rfl (.ite (fun _ => (sound_beginCheckpoint (s.setStandAside false)).after .ofEq) fun _ => .refl s)
  | checkpointOpGrant =>
    refine keeps_grant rfl ?_
    unfold grantCheckpointOp
    split
    · exact .refl s
    · exact (calm_startCheckpointOp ..).sound.after .ofEq
  | relocationStepGrant => exact keeps_grant rfl (h.grantRelocation.sound hst.grantRelocation)
  | mountReadGrant => exact keeps_grant rfl (h.grantMountRead.sound (by unfold grantMountRead; split <;> exact hst.next))
  | bufferGrant => exact keeps_happening rfl (h.grantFromPool.sound hst.grantFromPool)
  | starvedRelief => exact keeps_happening rfl (h.relieve.sound hst.relieve)
  | relocationStart => exact keeps_happening rfl (h.startRelocation.sound (.ite hst.startNext hst))
  | flushComplete =>
    exact keeps_happening rfl ((Moves.foldl (fun r st => (Moves.refl r).completeDue st) h allStreams).sound
      (.foldl (fun r st => (Steady.refl r).completeDue st) hst allStreams))
  | shutdownComplete => exact keeps_happening rfl (sound_shutdownComplete s)

end

/-- Settles O60: a step is a command, and every command keeps the invariants. -/
theorem invariantsKept : Obligations.InvariantsKept := by
  intro s t hstep
  have h : Sound s t := by
    unfold step at hstep
    split at hstep
    · cases hstep
      exact .refl s
    · next c rest _ =>
      obtain ⟨u, hu, hs⟩ := exec_keeps c { s with pending := rest }
      cases hu.symm.trans hstep
      exact hs.after .ofEq
  exact ⟨h.window, h.backlog, h.timers, h.scan, h.binding, h.device⟩

end Sys2Proof.Machine
end

section
/-!
PROOFS. O4, the invariants right after a reset, and O35, TIMER (R89, R90).
-/
-- The theorems of this file are elaborated one after another: in parallel their waiting threads exceed the memory limit of the check.
set_option Elab.async false

namespace Sys2Proof.Machine

/-- Settles O4: what `State.reset` is written with decides each invariant, and the empty blocks give each its trivial form. -/
theorem resetMeetsTheInvariants : Obligations.ResetMeetsTheInvariants := ⟨rfl, rfl, rfl, rfl, rfl, rfl, rfl, rfl⟩

/-! ## TIMER -/

theorem timerOf_eq_none {b : Byte} : timerOf b = none ↔ 2 < b.toNat := by
  unfold timerOf
  split
  · simp only [reduceCtorEq, false_iff]
    omega
  · simp only [true_iff]
    omega

theorem timerOf_eq_some {b : Byte} {n : TimerId} : timerOf b = some n ↔ b.toNat = n.val := by
  unfold timerOf
  have := n.isLt
  split
  · rw [Option.some.injEq, Fin.ext_iff]
  · simp only [reduceCtorEq, false_iff]
    omega

section

variable {tag : Byte} {p : List Byte} {s : State} {n : TimerId}

/-- A timer number above 2, an action above 1, or a START with period 0 or a mode above 1 is BAD_PARAM (R89). -/
theorem timerRequest_bad (h : 2 < (field8 p 2).toNat ∨ 1 < (field8 p 3).toNat ∨ (field8 p 3 = 0 ∧ (field16 p 4 = 0 ∨ 1 < (field8 p 6).toNat))) :
    timerRequest tag p s = refuse .timer tag .badParam s := by
  unfold timerRequest
  split
  · rfl
  · next n hn =>
    have hno : ¬(2 < (field8 p 2).toNat) := fun hlt => by
      rw [timerOf_eq_none.mpr hlt] at hn
      cases hn
    rcases h.resolve_left hno with hact | ⟨hact, hbad⟩
    · have h0 : field8 p 3 ≠ 0 := fun e => by rw [e] at hact; exact absurd hact (by decide)
      have h1 : field8 p 3 ≠ 1 := fun e => by rw [e] at hact; exact absurd hact (by decide)
      rw [if_neg h0, if_neg h1]
    · rw [if_pos hact, if_pos hbad]

theorem timerRequest_start (hn : (field8 p 2).toNat = n.val) (ha : field8 p 3 = 0) (hp : field16 p 4 ≠ 0) (hm : (field8 p 6).toNat ≤ 1) :
    timerRequest tag p s = timerReply tag n s (startTimer n (field16 p 4).toNat (field8 p 6 = 1) s) := by
  have hno : ¬(field16 p 4 = 0 ∨ 1 < (field8 p 6).toNat) := fun h => h.elim hp (Nat.not_lt_of_le hm)
  unfold timerRequest
  rw [timerOf_eq_some.mpr hn]
  dsimp only
  rw [if_pos ha, if_neg hno]

theorem timerRequest_stop (hn : (field8 p 2).toNat = n.val) (ha : field8 p 3 = 1) :
    timerRequest tag p s = timerReply tag n s (stopIfRunning n s) := by
  have h0 : field8 p 3 ≠ 0 := by rw [ha]; decide
  unfold timerRequest
  rw [timerOf_eq_some.mpr hn]
  dsimp only
  rw [if_neg h0, if_pos ha]

/-- The mode byte of an accepted START is the reply's (R90). -/
theorem b8_mode (h : (field8 p 6).toNat ≤ 1) : b8 (field8 p 6 == 1) = [field8 p 6] := by
  generalize field8 p 6 = b at h
  have hb : b = 0 ∨ b = 1 := by bv_omega
  rcases hb with rfl | rfl <;> rfl

/-- The contents of the reply for a timer that is STOPPED afterwards (R90). -/
theorem timerContents_stopped (n : TimerId) (was : Bool) {r : Timer} (h : r.running = false) :
    timerContents n was r = n8 n.val ++ [if was then 1 else 0, 0] ++ n16 r.period ++ b8 r.periodic ++ n16 r.remaining := by
  unfold timerContents
  rw [h]
  rfl

/-- The TIMER whose effect is one timer's new record is answered with that timer before and after (R90). -/
theorem timerReply_waiting (h : accepted .timer tag p s = true) (x : Timer) :
    timerReply tag n (waiting .timer tag p s) ((waiting .timer tag p s).setTimer n x) =
      answered .timer tag p .ok (timerContents n (s.timer n).running x) (s.setTimer n x) := by
  unfold timerReply
  rw [State.setTimer_timer]
  exact finishRequest_waiting (s := s.setTimer n x) .ok _ (accepted_fresh h)

end

/-- Settles O35: the checks of R89 in their order, then START and STOP, each answered with the timer before and after. -/
theorem timersStartAndStop : Obligations.TimersStartAndStop := by
  refine ⟨fun tag p s h hbad => exec_refused h (timerRequest_bad hbad), fun tag p s n h hn => ?_⟩
  have hexec : ∀ t, timerRequest tag p (waiting .timer tag p s) = t →
      Host.Outcome.next (requestHappening .timer tag p (timerRequest tag p) s) =
        (.next (settle s t) : Host.Outcome State Fault Refusal) := fun t ht => by rw [requestHappening_accepted h, ht]
  refine ⟨fun ha hp hm => ?_, fun ha hr => ?_, fun ha hr => ?_⟩
  · refine hexec _ ((timerRequest_start hn ha hp hm).trans ((timerReply_waiting h _).trans ?_))
    have hmode : decide (field8 p 6 = 1) = (field8 p 6 == 1) := rfl
    unfold timerContents
    rw [hmode, b8_mode hm, n16_toNat]
    rfl
  · have hstop : stopIfRunning n (waiting .timer tag p s) = stopTimer n (waiting .timer tag p s) := if_pos hr
    refine hexec _ ((timerRequest_stop hn ha).trans ?_)
    rw [hstop]
    refine (timerReply_waiting h _).trans ?_
    have hzero : n16 0 = [0, 0] := by decide
    rw [timerContents_stopped n _ rfl, hr, hzero]
    rfl
  · have hstop : stopIfRunning n (waiting .timer tag p s) = waiting .timer tag p s := if_neg (by rw [Bool.not_eq_true]; exact hr)
    refine hexec _ ((timerRequest_stop hn ha).trans ?_)
    rw [hstop]
    refine (finishRequest_waiting .ok _ (accepted_fresh h)).trans ?_
    refine congrArg (fun c => answered .timer tag p .ok c s) ((timerContents_stopped n (s.timer n).running hr).trans ?_)
    rw [hr]
    rfl

end Sys2Proof.Machine
end

section
/-!
PROOFS. O42, the bits of a lane (R71, R72, R75): what a bad word leaves, the word that 16 bits spell, and the command that a 17th bit or the
boundary of a fragment amounts to.
-/
-- The theorems of this file are elaborated one after another: in parallel their waiting threads exceed the memory limit of the check.
set_option Elab.async false

namespace Sys2Proof.Machine

/-! ## Bad words -/

/-- A stream after a bad word at a lane: one word dropped when it is CAPTURING and bound to the lane (R75). -/
def droppedAt (l : LaneId) (r : StreamRec) : StreamRec :=
  if r.config.map (·.lane) = some l ∧ r.state = .capturing then oneDropped r else r

/-- What a bad word leaves at a lane that goes on in phase `p` (R71, R75). -/
def badWordLeft (l : LaneId) (p : LanePhase) (s : State) : State :=
  { s with
    lanes := vset s.lanes l { s.lane l with
      phase := p
      parityErrors := min ((s.lane l).parityErrors + 1) 65535
      faultReported := true }
    streams := Vector.ofFn (fun f => droppedAt l (s.stream f))
    notices := if (s.lane l).faultReported then s.notices else s.notices.raise .laneFault (BitVec.ofNat 16 l.val) s.time }

/-- One change of every element of a table of the streams, in their order, is the table of the changed elements. -/
theorem foldl_allStreams_vset {α : Type} (F : α → α) (v : Vector α 8) :
    allStreams.foldl (fun v f => vset v f (F (vget v f))) v = Vector.ofFn (fun f => F (vget v f)) := by
  refine vget_ext fun f => ?_
  rw [vget_ofFn]
  unfold allStreams
  simp only [List.foldl_cons, List.foldl_nil]
  fin_cases f <;> simp

theorem dropAt_eq (l : LaneId) (s : State) (f : StreamId) :
    dropAt l s f = { s with streams := vset s.streams f (droppedAt l (vget s.streams f)) } := by
  have hb : boundTo l (s.stream f) = true ↔ (s.stream f).config.map (·.lane) = some l := beq_iff_eq
  have hsame : vset s.streams f (vget s.streams f) = s.streams := Vector.set_getElem_self f.isLt
  unfold dropAt
  change _ = { s with streams := vset s.streams f (droppedAt l (s.stream f)) }
  unfold droppedAt
  split
  · next h =>
    rw [if_pos (h.imp_left hb.mp)]
    rfl
  · next h =>
    rw [if_neg fun h' => h (h'.imp_left hb.mpr)]
    exact congrArg (fun v => ({ s with streams := v } : State)) hsame.symm

theorem foldl_dropAt (l : LaneId) (fs : List StreamId) : ∀ s : State, fs.foldl (dropAt l) s =
    { s with streams := fs.foldl (fun v f => vset v f (droppedAt l (vget v f))) s.streams } := by
  induction fs with
  | nil => exact fun _ => rfl
  | cons f fs ih =>
    intro s
    rw [List.foldl_cons, ih, dropAt_eq]
    rfl

theorem badWord_setPhase (l : LaneId) (p : LanePhase) (s : State) : badWord l (s.setPhase l p) = badWordLeft l p s := by
  have hset : ∀ r x : Lane, vset (vset s.lanes l r) l x = vset s.lanes l x := fun _ _ => Vector.set_set ..
  have hlane : ∀ r : Lane, vget (vset s.lanes l r) l = r := fun _ => vget_vset_self ..
  unfold badWordLeft
  by_cases h : (s.lane l).faultReported = true
  · have hv : (vget s.lanes l).faultReported = true := h
    rw [if_pos h]
    unfold badWord State.setPhase State.setLane
    simp only [State.lane, foldl_dropAt, foldl_allStreams_vset, hset, hlane, hv, if_true]
    rfl
  · have hv : (vget s.lanes l).faultReported = false := Bool.eq_false_of_not_eq_true h
    rw [if_neg h]
    unfold badWord State.setPhase State.setLane raise
    simp only [State.lane, foldl_dropAt, foldl_allStreams_vset, hset, hlane, hv, Bool.false_eq_true, if_false]
    rfl

/-! ## The word that 16 bits spell -/

/-- The bit sent last is bit 0, and every other bit stands one place above the one sent after it (R72). -/
theorem getLsbD_foldl_bits (bits : List Bool) : bits.length ≤ 16 → ∀ i, i < bits.length →
    (bits.foldl (fun (w : Word) b => (w <<< 1) ||| (if b then 1 else 0)) 0).getLsbD (bits.length - 1 - i) = bits.getD i false := by
  induction bits using List.reverseRecOn with
  | nil => exact fun _ i hi => absurd hi (Nat.not_lt_zero i)
  | append_singleton bits b ih =>
    intro hlen i hi
    rw [List.length_append, List.length_singleton] at hlen hi
    rw [List.foldl_append, List.foldl_cons, List.foldl_nil, List.length_append, List.length_singleton]
    by_cases hlast : i = bits.length
    · have hbit : ((if b then 1 else 0 : Word)).getLsbD 0 = b := by cases b <;> rfl
      rw [hlast, Nat.add_sub_cancel, Nat.sub_self, BitVec.getLsbD_or, hbit, BitVec.getLsbD_shiftLeft]
      simp
    · have hlt : i < bits.length := by omega
      have hsucc : bits.length + 1 - 1 - i = (bits.length - 1 - i) + 1 := by omega
      have hbit : ∀ j, ((if b then 1 else 0 : Word)).getLsbD (j + 1) = false := fun j => by cases b <;> simp
      have hin : decide (bits.length - 1 - i + 1 < 16) = true := by
        rw [decide_eq_true_eq]
        omega
      rw [hsucc, BitVec.getLsbD_or, hbit, Bool.or_false, BitVec.getLsbD_shiftLeft, hin, Nat.add_sub_cancel, ih (by omega) i hlt]
      simp [List.getElem?_append_left hlt]

/-- The 16 bits of a word are its data, the first of them bit 15 (R72). -/
theorem getLsbD_wordOfBits {bits : List Bool} (dat : Bool) (h : bits.length = 16) {i : Nat} (hi : i < 16) :
    (wordOfBits (bits ++ [dat])).getLsbD (15 - i) = bits.getD i false := by
  have ht : (bits ++ [dat]).take 16 = bits := List.take_left' h
  unfold wordOfBits
  rw [ht]
  have hb := getLsbD_foldl_bits bits (by omega) i (by omega)
  rwa [h] at hb

theorem oddOnes_iff (bits : List Bool) : oddOnes bits = true ↔ bits.count true % 2 = 1 := by
  have hc : bits.countP (fun b => b) = bits.count true := List.countP_congr fun b _ => by cases b <;> decide
  unfold oddOnes
  rw [beq_iff_eq, hc]

/-! ## The commands of a lane -/

section

variable {l : LaneId} {s : State} (hr : s.running = true) (hl : (s.lane l).listening = true)
include hr

theorem happening_deaf (hl : (s.lane l).listening = false) (f : State → State) : happening (ifListening l f) s = settle s s := by
  rw [happening_running hr]
  unfold ifListening
  rw [if_neg (by rw [hl]; exact Bool.false_ne_true)]

include hl

theorem happening_listening (f : State → State) : happening (ifListening l f) s = settle s (f s) := by
  rw [happening_running hr]
  unfold ifListening
  rw [if_pos hl]

theorem exec_laneBadWord (fragment : Bool) : exec (.laneBadWord l fragment) s = .next (settle s (badWordLeft l (phaseAfterBad fragment) s)) :=
  congrArg Host.Outcome.next ((happening_listening hr hl _).trans (congrArg (settle s) (badWord_setPhase l _ s)))

theorem exec_laneGoodWord (w : Word) : exec (.laneGoodWord l w) s = .next (settle s (goodWord l w (s.setPhase l (.afterWord 0)))) :=
  congrArg Host.Outcome.next (happening_listening hr hl _)

/-- A rising edge at a LISTENING lane goes by the lane's phase (R72). -/
theorem exec_lnclk (dat : Bool) : exec (.lnclkRisingEdge l dat) s = .next (settle s (clockBit l dat s)) :=
  congrArg Host.Outcome.next (happening_listening hr hl _)

theorem exec_laneBoundary : exec (.laneWordBoundary l) s = .next (settle s (wordBoundary l s)) :=
  congrArg Host.Outcome.next (happening_listening hr hl _)

/-- The 17th bit is a good word or a bad one, by the parity of the 17 bits (R72). -/
theorem exec_lnclk_last {bits : List Bool} {dat : Bool} (hp : (s.lane l).phase = .inWord bits) (hb : bits.length = 16) :
    exec (.lnclkRisingEdge l dat) s = if (bits ++ [dat]).count true % 2 = 1 then exec (.laneGoodWord l (wordOfBits (bits ++ [dat]))) s
      else exec (.laneBadWord l false) s := by
  have hc : clockBit l dat s = completeWord l (bits ++ [dat]) s := by
    unfold clockBit
    rw [hp]
    exact if_neg (by omega)
  rw [exec_lnclk hr hl, hc]
  unfold completeWord
  by_cases ho : oddOnes (bits ++ [dat]) = true
  · rw [if_pos ((oddOnes_iff _).mp ho), exec_laneGoodWord hr hl]
    exact congrArg (fun t => Host.Outcome.next (settle s t)) (if_pos ho)
  · rw [if_neg fun h => ho ((oddOnes_iff _).mpr h), exec_laneBadWord hr hl]
    exact congrArg (fun t => Host.Outcome.next (settle s t)) ((if_neg ho).trans (badWord_setPhase ..))

/-- A boundary with no bits since the last word or boundary only starts a word (R72). -/
theorem exec_boundary_clean (hp : (s.lane l).phase.position = 0) :
    exec (.laneWordBoundary l) s = .next (settle s (s.setPhase l (.inWord []))) := by
  rw [exec_laneBoundary hr hl]
  exact congrArg (fun t => Host.Outcome.next (settle s t)) (if_pos hp)

/-- A boundary with bits received since is the boundary of a fragment (R72). -/
theorem exec_boundary_fragment (hp : (s.lane l).phase.position ≠ 0) : exec (.laneWordBoundary l) s = exec (.laneBadWord l true) s := by
  rw [exec_laneBoundary hr hl, exec_laneBadWord hr hl]
  exact congrArg (fun t => Host.Outcome.next (settle s t)) ((if_neg hp).trans (badWord_setPhase ..))

end

/-- Settles O42, phase by phase of the lane. -/
theorem bitsMakeWords : Obligations.BitsMakeWords := by
  refine ⟨fun l fragment s hr => ⟨fun hl => congrArg Host.Outcome.next (happening_deaf hr hl _), fun hl => exec_laneBadWord hr hl fragment⟩,
    fun l dat s hr hl => ?_⟩
  have hedge : ∀ t, clockBit l dat s = t → exec (.lnclkRisingEdge l dat) s = .next (settle s t) := fun t ht => ht ▸ exec_lnclk hr hl dat
  refine ⟨fun hp => hedge _ ?_, fun bits hp hlt => hedge _ ?_, fun bits hp hlen => ?_, fun extra hp => hedge _ ?_, fun hp => ?_, fun hp => ?_⟩
  · unfold clockBit
    rw [hp]
  · unfold clockBit
    rw [hp]
    exact if_pos hlt
  · exact ⟨wordOfBits (bits ++ [dat]), fun i hi => getLsbD_wordOfBits dat hlen hi, exec_lnclk_last hr hl hp hlen⟩
  · unfold clockBit
    rw [hp]
    rfl
  · have h0 : (s.lane l).phase.position = 0 := by rcases hp with h | h | h <;> rw [h] <;> rfl
    exact exec_boundary_clean hr hl h0
  · have h0 : (s.lane l).phase.position ≠ 0 := by
      rcases hp with ⟨b, bits, h⟩ | ⟨n, h⟩ <;> rw [h] <;> exact Nat.succ_ne_zero _
    exact exec_boundary_fragment hr hl h0

end Sys2Proof.Machine
end

section
/-!
PROOFS. O39 and O40: what one trigger happening does to every stream (R77), and the commands that bring one about: FIRE, the edges of a pin and
the expiry of a timer (R79 to R81, R84, R85, R87, R88).
-/
-- The theorems of this file are elaborated one after another: in parallel their waiting threads exceed the memory limit of the check.
set_option Elab.async false

namespace Sys2Proof.Machine

/-! ## A trigger happening -/

/-- A role is a start for a stream ARMED on a source other than PEER alone, and a stop for a CAPTURING stream alone. -/
def roleFits (role : TriggerRole) (r : StreamRec) : Prop :=
  match role with
  | .start => r.state = .armed ∧ r.startSource ≠ some .peer
  | .stop _ => r.state = .capturing
  | .none => True

/-- What a trigger happening with this role does to a stream whose record was `r` (R77). -/
def roleDone (role : TriggerRole) (r r' : StreamRec) : Prop :=
  match role with
  | .start => sameRun (startedRun r) r'
  | .stop cause => r'.endCause = some cause ∧ r'.state = (if restarts cause r then .capturing else stateAfter cause r) ∧
      r'.runNumber = r.runNumber + (if restarts cause r then 1 else 0)
  | .none => sameRun r r' ∨ (isPeerArmed r = true ∧ sameRun (startedRun r) r')

section

variable {barred : List StreamId} {P : StreamId → Prop} {s t : State} {f : StreamId}

/-- A stream that no PEER start takes along is left as it is by the moves of others, but for OVERRUN (R83). -/
theorem RunMove.stays (h : RunMove barred P s t) (hf : ¬P f) (hp : isPeerArmed (s.stream f) = false ∨ f ∈ barred) :
    sameRun (s.stream f) (t.stream f) := by
  rcases h.others f hf with e | ⟨hpeer, hbar, -⟩
  · exact e
  · rcases hp with hno | hin
    · rw [hno] at hpeer
      cases hpeer
    · exact absurd hin hbar

theorem isPeerArmed_of_state {r : StreamRec} (h : r.state = .capturing) : isPeerArmed r = false := by
  unfold isPeerArmed
  rw [h]
  rfl

theorem isPeerArmed_of_source {r : StreamRec} (h : r.startSource ≠ some .peer) : isPeerArmed r = false :=
  Bool.eq_false_of_not_eq_true fun hp => h (peerArmed_iff.1 hp).2

/-- The turns of the streams of a list leave a stream that is not in it to the others' moves. -/
theorem turns_others (role : StreamId → TriggerRole) {l : List StreamId} (hf : f ∉ l) (s : State) :
    RunMove barred (fun g => g ≠ f) s (l.foldl (fun t st => applyRole barred (role st) st t) s) :=
  .foldl (fun r g hg => (RunMove.refl _ r).applyRole (role g) g fun e => hf (e ▸ hg)) (.refl _ s)

theorem applyRole_start (h : (s.stream f).state = .armed) :
    sameRun (startedRun (s.stream f)) ((applyRole barred .start f s).stream f) := by
  have e : applyRole barred .start f s = startRun barred f s := if_pos h
  rw [e]
  exact startRun_self ..

/-- The turn of a stream whose run the trigger ends (R56, R57, R77). -/
theorem applyRole_stop {cause : EndCause} (h : (s.stream f).state = .capturing) :
    roleDone (.stop cause) (s.stream f) ((applyRole barred (.stop cause) f s).stream f) := by
  have e : applyRole barred (.stop cause) f s = endRun barred f cause s := if_pos h
  rw [e]
  obtain ⟨r, hr, hcase⟩ := endRun_record barred f cause s
  obtain ⟨hconfig, -, hrun⟩ := hcase.keeps
  have hstate := afterEnd_state r cause
  have hnumber := afterEnd_runNumber r cause
  rw [restarts_congr hconfig, stateAfter_congr hconfig] at hstate
  rw [restarts_congr hconfig, hrun] at hnumber
  have ht := hr.eq
  exact ⟨(congrArg StreamRec.endCause ht).trans (afterEnd_endCause r cause), (congrArg StreamRec.state ht).trans hstate,
    (congrArg StreamRec.runNumber ht).trans hnumber⟩

end

theorem triggered_iff {role : StreamId → TriggerRole} {s t : State} :
    triggered role s t ↔ ∀ f, roleDone (role f) (s.stream f) (t.stream f) := Iff.rfl

section

variable {role : TriggerRole} {r a b : StreamRec}

/-- OVERRUN may have changed before the stream's turn. -/
theorem roleDone.before (hra : sameRun r a) (h : roleDone role a b) : roleDone role r b := by
  cases role with
  | start => exact hra.started.trans h
  | stop cause =>
    obtain ⟨hcause, hstate, hnumber⟩ := h
    rw [restarts_congr hra.config, stateAfter_congr hra.config] at hstate
    rw [restarts_congr hra.config, hra.runNumber] at hnumber
    exact ⟨hcause, hstate, hnumber⟩
  | none => exact h.imp hra.trans fun ⟨hp, hab⟩ => ⟨isPeerArmed_congr hra ▸ hp, hra.started.trans hab⟩

/-- OVERRUN may change after the stream's turn. -/
theorem roleDone.after (h : roleDone role r a) (hab : sameRun a b) : roleDone role r b := by
  cases role with
  | start => exact sameRun.trans h hab
  | stop cause =>
    obtain ⟨hcause, hstate, hnumber⟩ := h
    have e := hab.eq
    exact ⟨(congrArg StreamRec.endCause e).trans hcause, hab.state.trans hstate, hab.runNumber.trans hnumber⟩
  | none => exact h.imp (fun h => h.trans hab) fun ⟨hp, h⟩ => ⟨hp, h.trans hab⟩

end

section

variable {role : StreamRec → StreamId → TriggerRole} {s : State}

/-- The matrix hands each stream its role once, and no other stream's turn undoes it (R77, R83). -/
theorem triggered_trigger (h : ∀ f, roleFits (role (s.stream f) f) (s.stream f)) :
    triggered (fun f => role (s.stream f) f) s (trigger role s) := by
  refine triggered_iff.mpr fun f => ?_
  obtain ⟨as, bs, hall, has, hbs⟩ := allStreams_split f
  have hfits := h f
  have hbefore := turns_others (barred := capturingNow s) (fun g => role (s.stream g) g) has s
  have hturn : trigger role s = bs.foldl (fun t st => applyRole (capturingNow s) (role (s.stream st) st) st t)
      (applyRole (capturingNow s) (role (s.stream f) f) f
        (as.foldl (fun t st => applyRole (capturingNow s) (role (s.stream st) st) st t) s)) := by
    unfold trigger
    rw [hall, List.foldl_append, List.foldl_cons]
  rw [hturn]
  generalize as.foldl (fun t st => applyRole (capturingNow s) (role (s.stream st) st) st t) s = u at hbefore ⊢
  have hafter := turns_others (barred := capturingNow s) (fun g => role (s.stream g) g) hbs
    (applyRole (capturingNow s) (role (s.stream f) f) f u)
  have hself : ∀ {P : Prop}, P → ¬¬P := not_not_intro
  generalize role (s.stream f) f = own at hfits hafter ⊢
  cases own with
  | none =>
    exact ((hbefore.trans hafter).others f (hself rfl)).imp_right fun ⟨hp, _, hs⟩ => ⟨hp, hs⟩
  | start =>
    obtain ⟨harmed, hsource⟩ := hfits
    have hu := hbefore.stays (hself rfl) (.inl (isPeerArmed_of_source hsource))
    have hown := applyRole_start (barred := capturingNow s) (hu.state.trans harmed)
    have hrest := hafter.stays (hself rfl) (.inl (isPeerArmed_of_state hown.state))
    exact hu.started.trans (hown.trans hrest)
  | stop cause =>
    have hin : f ∈ capturingNow s := mem_capturingNow.mpr hfits
    have hu := hbefore.stays (hself rfl) (.inr hin)
    have hown := applyRole_stop (barred := capturingNow s) (cause := cause) (hu.state.trans hfits)
    exact (hown.before hu).after (hafter.stays (hself rfl) (.inr hin))

theorem trigger_outside (role : StreamRec → StreamId → TriggerRole) (s : State) : (trigger role s).outside = s.outside :=
  (RunMove.foldl (barred := capturingNow s) (P := fun _ => True) (l := allStreams)
    (fun r g _ => (RunMove.refl _ r).applyRole (role (s.stream g) g) g trivial) (.refl _ s)).outside

theorem trigger_flushesJoin (role : StreamRec → StreamId → TriggerRole) (s : State) : flushesJoin s (trigger role s) := by
  refine .foldl (fun r g => ?_) allStreams s
  cases role (s.stream g) g with
  | none => exact .refl r
  | start =>
    by_cases h : (r.stream g).state = .armed
    · exact (congrArg (flushesJoin r) (if_pos h)).mpr (.startRun ..)
    · exact (congrArg (flushesJoin r) (if_neg h)).mpr (.refl r)
  | stop cause =>
    by_cases h : (r.stream g).state = .capturing
    · exact (congrArg (flushesJoin r) (if_pos h)).mpr (.endRun ..)
    · exact (congrArg (flushesJoin r) (if_neg h)).mpr (.refl r)

end

/-! ## The roles of the sources -/

theorem roleFits_roleOf {src : TriggerSource} (hsrc : src ≠ .peer) (r : StreamRec) : roleFits (roleOf src r) r := by
  unfold roleOf
  split
  · next h => exact ⟨h.1, fun hp => hsrc (Option.some.inj (h.2.symm.trans hp))⟩
  · split
    · next h => exact h.1
    · exact trivial

theorem edgeRole_eq (pin : PinId) (high : Bool) (r : StreamRec) : edgeRole pin high r = roleOfEdge pin high r := by
  have hgate : (r.isGate = true ∧ r.state = .capturing) ↔ (r.state = .capturing ∧ r.config.map (·.mode) = some .gate) := by
    unfold StreamRec.isGate
    rw [beq_iff_eq, and_comm]
  exact ite_congr (propext hgate) (fun _ => rfl) fun _ => rfl

theorem roleFits_roleOfEdge (pin : PinId) (high : Bool) (r : StreamRec) : roleFits (roleOfEdge pin high r) r := by
  unfold roleOfEdge
  split
  · next h =>
    split
    · exact h.1
    · exact trivial
  · exact roleFits_roleOf (src := .ext pin high) nofun r

end Sys2Proof.Machine
end

section
/-!
PROOFS. O39 and O40: the stream masks of a FIRE reply (R85), and the commands that bring a trigger happening about: FIRE, the edges of a pin and
the ticks and expiries of a timer (R79 to R81, R84, R87, R88).
-/
-- The theorems of this file are elaborated one after another: in parallel their waiting threads exceed the memory limit of the check.
set_option Elab.async false

namespace Sys2Proof.Machine

/-! ## Stream masks -/

/-- Powers of two with rising exponents add up to the number that has these bits. -/
theorem testBit_foldl_pow (f : StreamId → Bool) (l : List StreamId) : ∀ {n k : Nat}, l.Pairwise (· < ·) → (∀ x ∈ l, k ≤ x.val) → n < 2 ^ k →
    ∀ j, (l.foldl (fun n st => if f st then n + 2 ^ st.val else n) n).testBit j = (n.testBit j || l.any fun st => f st && st.val == j) := by
  induction l with
  | nil => exact fun _ _ _ j => (Bool.or_false _).symm
  | cons x l ih =>
    intro n k hs hk hn j
    obtain ⟨hx, hl⟩ := List.pairwise_cons.mp hs
    have hnx : n < 2 ^ x.val := Nat.lt_of_lt_of_le hn (Nat.pow_le_pow_right (by decide) (hk x List.mem_cons_self))
    have hlt : n + 2 ^ x.val < 2 ^ (x.val + 1) := by
      rw [Nat.pow_succ]
      omega
    have hadd : (n + 2 ^ x.val).testBit j = (n.testBit j || x.val == j) := by
      have hor := Nat.two_pow_add_eq_or_of_lt hnx 1
      rw [Nat.mul_one] at hor
      rw [Nat.add_comm, hor, Nat.testBit_or, Nat.testBit_two_pow, Bool.or_comm]
      rfl
    rw [List.foldl_cons, List.any_cons]
    cases hf : f x with
    | false =>
      rw [if_neg Bool.false_ne_true, Bool.false_and, Bool.false_or]
      exact ih hl (fun y hy => Nat.le_of_lt (hx y hy)) hnx j
    | true =>
      rw [if_pos rfl, Bool.true_and, ← Bool.or_assoc, ← hadd]
      exact ih hl (fun y hy => hx y hy) hlt j

theorem getLsbD_maskOf (f : StreamId → Bool) (st : StreamId) : (maskOf f).getLsbD st.val = f st := by
  have hbits := testBit_foldl_pow f allStreams (n := 0) (k := 0) (by decide) (fun _ _ => Nat.zero_le _) (by decide) st.val
  have hany : (allStreams.any fun x => f x && x.val == st.val) = f st := by
    rw [Bool.eq_iff_iff, List.any_eq_true]
    refine ⟨fun ⟨x, _, h⟩ => ?_, fun h => ⟨st, mem_allStreams st, by rw [h, beq_self_eq_true]; rfl⟩⟩
    obtain ⟨hf, he⟩ := Bool.and_eq_true_iff.mp h
    exact Fin.ext (beq_iff_eq.mp he) ▸ hf
  unfold maskOf
  rw [BitVec.getLsbD_ofNat, hbits, hany, decide_eq_true st.isLt, Nat.zero_testBit, Bool.false_or, Bool.true_and]

/-! ## FIRE -/

/-- Settles O39: HOST's roles are handed out to the streams of the mask, and the reply's masks are read off before and after. -/
theorem fireStartsAndStops : Obligations.FireStartsAndStops := by
  intro tag p s hacc role
  let before := waiting .fire tag p s
  let after := trigger (fireRole (field8 p 2)) before
  have hrole : ∀ f, fireRole (field8 p 2) (before.stream f) f = role f := fun _ => rfl
  have hfits : ∀ f, roleFits (fireRole (field8 p 2) (before.stream f) f) (before.stream f) := fun f => by
    unfold fireRole
    split
    · exact roleFits_roleOf (src := .host) nofun _
    · exact trivial
  have hdone : triggered role before after := triggered_trigger hfits
  have hout : after.outside = s.outside := trigger_outside ..
  obtain ⟨l, hl, -⟩ : flushesJoin before after := trigger_flushesJoin ..
  obtain ⟨t, hexec, houtt, ht⟩ := exec_runs (k := .fire) hacc rfl hout
  refine ⟨t, l, startedMask before after, stoppedMask (field8 p 2) before, hexec, fun f => ?_, houtt, ?_, fun f => ⟨?_, ?_⟩⟩
  · rw [ht.stream f]
    exact hdone f
  · rw [ht.replies]
    exact congrArg (· ++ [replyOf .fire tag .ok [startedMask before after, stoppedMask (field8 p 2) before]]) hl
  · rw [ht.stream f]
    unfold startedMask
    rw [getLsbD_maskOf, bne_iff_ne]
    rfl
  · unfold stoppedMask
    rw [getLsbD_maskOf, decide_eq_true_iff]
    rfl

/-! ## The edges of a pin -/

theorem getLsbD_setPin (pin n : PinId) (high : Bool) (s : State) :
    (setPin pin high s).triggers.ext.getLsbD n.val = if n = pin then high else s.triggers.ext.getLsbD n.val := by
  have hbit : ∀ pin n : PinId, (1#4 <<< pin.val).getLsbD n.val = decide (n = pin) := by decide
  have hset : (setPin pin high s).triggers.ext =
      if high then s.triggers.ext ||| 1#4 <<< pin.val else s.triggers.ext &&& ~~~(1#4 <<< pin.val) := rfl
  rw [hset]
  cases high with
  | true =>
    rw [if_pos rfl, BitVec.getLsbD_or, hbit]
    by_cases h : n = pin <;> simp [h]
  | false =>
    rw [if_neg Bool.false_ne_true, BitVec.getLsbD_and, BitVec.getLsbD_not, hbit, decide_eq_true n.isLt, Bool.true_and]
    by_cases h : n = pin <;> simp [h]

/-- A happening whose effect is a change of the triggers and then a trigger happening: the roles are those of the streams before it, and the
changed triggers stand. -/
theorem settle_triggered {s u : State} {role : StreamRec → StreamId → TriggerRole} (hst : u.streams = s.streams)
    (hdev : u.ctl.device = s.ctl.device) (h : ∀ f, roleFits (role (s.stream f) f) (s.stream f)) :
    triggered (fun f => role (s.stream f) f) s (settle s (trigger role u)) ∧
      (settle s (trigger role u)).triggers = u.triggers ∧ (settle s (trigger role u)).outside = u.outside := by
  have hu : ∀ f, u.stream f = s.stream f := fun f => congrArg (fun v => vget v f) hst
  have hout := trigger_outside role u
  have hstands : Stands (trigger role u) (settle s (trigger role u)) :=
    settle_stands (.inr (hdev.symm.trans (congrArg (fun x => x.ctl.device) hout :).symm))
  have hdone := triggered_trigger (s := u) (role := role) fun f => by
    rw [hu]
    exact h f
  refine ⟨fun f => ?_, hstands.triggers.trans (congrArg State.triggers hout :), (settle_outside ..).trans hout⟩
  have hf := triggered_iff.mp hdone f
  rw [hu, ← hstands.stream] at hf
  exact hf

/-- An edge to another level than the last one sampled (R79 to R81). -/
theorem edge_triggers {pin : PinId} {high : Bool} {s : State} (hr : s.running = true) (h : s.triggers.ext.getLsbD pin.val ≠ high) :
    ∃ t, exec (.extEdge pin high) s = .next t ∧ triggered (fun f => roleOfEdge pin high (s.stream f)) s t ∧
      (∀ n : PinId, t.triggers.ext.getLsbD n.val = if n = pin then high else s.triggers.ext.getLsbD n.val) ∧
      t.outside = State.outside { s with triggers := { s.triggers with ext := t.triggers.ext } } := by
  have hrole : ∀ f, edgeRole pin high (s.stream f) = roleOfEdge pin high (s.stream f) := fun f => edgeRole_eq ..
  obtain ⟨hdone, htr, hout⟩ := settle_triggered (s := s) (u := setPin pin high s) (role := fun r _ => edgeRole pin high r) rfl rfl fun f => by
    rw [hrole]
    exact roleFits_roleOfEdge ..
  have hedge : edge pin high s = trigger (fun r _ => edgeRole pin high r) (setPin pin high s) := if_neg h
  refine ⟨_, congrArg Host.Outcome.next ((happening_running hr).trans (congrArg (settle s) hedge)), ?_, fun n => ?_, ?_⟩
  · simp only [hrole] at hdone
    exact hdone
  · rw [htr]
    exact getLsbD_setPin pin n high s
  · rw [htr]
    exact hout

/-! ## The ticks and expiries of a timer -/

/-- 100 µs have passed since the present tick of the RUNNING timer began (R87). -/
theorem tickPassed_iff {n : TimerId} {s : State} :
    tickPassed n s = true ↔ (s.timer n).running = true ∧ 100 ≤ (s.time - (s.timer n).tickStart).toNat :=
  Bool.and_eq_true_iff.trans (and_congr_right fun _ => decide_eq_true_iff)

theorem tick_due {n : TimerId} {s : State} (hp : tickPassed n s = true) (hm : 1 < (s.timer n).remaining) :
    tick n s = s.setTimer n { s.timer n with remaining := (s.timer n).remaining - 1, tickStart := nextTickStart (s.timer n) } :=
  if_pos (Bool.and_eq_true_iff.mpr ⟨hp, decide_eq_true hm⟩)

theorem tick_early {n : TimerId} {s : State} (h : tickPassed n s = false ∨ (s.timer n).remaining ≤ 1) : tick n s = s :=
  if_neg fun hd => by
    obtain ⟨hp, hm⟩ := Bool.and_eq_true_iff.mp hd
    rcases h with hno | hle
    · exact absurd (hno.symm.trans hp) nofun
    · exact absurd (of_decide_eq_true hm) (Nat.not_lt_of_le hle)

theorem expire_early {n : TimerId} {s : State} (h : tickPassed n s = false ∨ 1 < (s.timer n).remaining) : expire n s = s :=
  if_neg fun hd => by
    obtain ⟨hp, hm⟩ := Bool.and_eq_true_iff.mp hd
    rcases h with hno | hlt
    · exact absurd (hno.symm.trans hp) nofun
    · exact absurd (of_decide_eq_true hm) (Nat.not_le_of_lt hlt)

/-- The last tick of a timer (R87, R88). -/
theorem expiry_triggers {n : TimerId} {s : State} (hr : s.running = true) (hp : tickPassed n s = true) (hl : (s.timer n).remaining ≤ 1) :
    ∃ t, exec (.timerExpiry n) s = .next t ∧ triggered (fun f => roleOf (.timer n) (s.stream f)) s t ∧
      t.timer n = (s.timer n).expire ∧
      t.outside = State.outside { s with triggers := { s.triggers with timers := vset s.triggers.timers n (t.timer n) } } := by
  obtain ⟨hdone, htr, hout⟩ := settle_triggered (s := s) (u := s.setTimer n (s.timer n).expire)
    (role := fun r _ => sourceRole (.timer n) r) rfl rfl fun f => roleFits_roleOf (src := .timer n) nofun _
  have hexp : expire n s = trigger (fun r _ => sourceRole (.timer n) r) (s.setTimer n (s.timer n).expire) :=
    if_pos (Bool.and_eq_true_iff.mpr ⟨hp, decide_eq_true hl⟩)
  generalize hv : s.setTimer n (s.timer n).expire = v at hdone htr hout hexp
  have htimer : (settle s (trigger (fun r _ => sourceRole (.timer n) r) v)).timer n = (s.timer n).expire := by
    have e := congrArg (fun x : Triggers => vget x.timers n) htr
    rw [← hv] at e ⊢
    exact e.trans (State.setTimer_timer ..)
  refine ⟨_, congrArg Host.Outcome.next ((happening_running hr).trans (congrArg (settle s) hexp)), hdone, htimer, ?_⟩
  rw [htimer, hout, ← hv]
  rfl

/-- Settles O40: the edges of a pin, then a timer's ticks short of expiry, its expiries, and those that are not due. -/
theorem edgesAndTimersTrigger : Obligations.EdgesAndTimersTrigger := by
  have hidle : ∀ {c : Instr} {f : State → State} {s : State}, s.running = true → exec c s = .next (happening f s) → f s = s →
      exec c s = .next (settle s s) := fun hr he hf => he.trans (congrArg Host.Outcome.next ((happening_running hr).trans (by rw [hf])))
  refine ⟨fun pin high s hr => ⟨fun h => hidle hr (c := .extEdge pin high) rfl (if_pos h), edge_triggers hr⟩, fun n s hr => ?_⟩
  intro r passed
  refine ⟨fun hp hm => ⟨?_, ?_⟩, fun hp hl => ⟨?_, ?_⟩, fun hno => ?_⟩
  · exact congrArg Host.Outcome.next ((happening_running hr).trans (congrArg (settle s) (tick_due (tickPassed_iff.mpr hp) hm)))
  · exact hidle hr (c := .timerExpiry n) rfl (expire_early (.inr hm))
  · exact hidle hr (c := .timerTick n) rfl (tick_early (.inr hl))
  · exact expiry_triggers hr (tickPassed_iff.mpr hp) hl
  · have hoff : tickPassed n s = false := Bool.eq_false_of_not_eq_true fun h => hno (tickPassed_iff.mp h)
    exact ⟨hidle hr (c := .timerTick n) rfl (tick_early (.inl hoff)), hidle hr (c := .timerExpiry n) rfl (expire_early (.inl hoff))⟩

end Sys2Proof.Machine
end

section
/-!
PROOFS. O8 and O7, the end of a happening: it leaves its command's effect alone, and what the drain, the stand-aside mark and the
transmitter wait for is done once it has passed (R121, R183, R199).
-/
-- The theorems of this file are elaborated one after another: in parallel their waiting threads exceed the memory limit of the check.
set_option Elab.async false

namespace Sys2Proof.Machine

/-- Settles O8: each part of the end of a happening leaves the core, the replies, the receiver and the requests alone. -/
theorem settlingIsConfined : Obligations.SettlingIsConfined := by
  intro a u h
  obtain ⟨hcore, hreplies, hrequests, hrx⟩ := settle_settled h
  exact ⟨hcore, hreplies, hrx, hrequests⟩

/-! ## The three conditions -/

/-- In SHUTTING_DOWN with the drain condition met, no checkpoint in progress and the final one not started, checkpoint pending is set (R183). -/
def drainTaken (s : State) : Prop :=
  s.ctl.device = .shuttingDown ∧ drained s = true ∧ s.ctl.ckpt = none ∧ finalStarted s = false → s.ctl.ckptPending = true

/-- An IDLE port with the stand-aside mark set has another block's claim (R121). -/
def asideForClaim (s : State) : Prop := s.reloc.standAside = true ∧ s.engine.op = none → ranked s ≠ none

/-- An IDLE transmitter that is not held has nothing to send (R199). -/
def nothingToSend (s : State) : Prop := canChoose s = true → s.link.replies = [] ∧ s.notices.backlog = []

theorem settled_iff (s : State) : s.settled = true ↔ drainTaken s ∧ asideForClaim s ∧ nothingToSend s := by
  have himp : ∀ b c : Bool, (!b || c) = true ↔ (b = true → c = true) := by decide
  unfold State.settled drainTaken asideForClaim nothingToSend canChoose
  simp only [Bool.and_eq_true, himp, and_assoc, beq_iff_eq, Option.isNone_iff_eq_none, Option.isSome_iff_ne_none, Bool.not_eq_true',
    List.isEmpty_iff]

/-! ## What each part of the end moves -/

theorem chooseFrame_eq (s : State) : chooseFrame s = { s with link := (chooseFrame s).link, notices := (chooseFrame s).notices } := by
  unfold chooseFrame
  split
  · rfl
  · split
    · rfl
    · split <;> rfl

/-- The transmitter moves the link, the notices and the count of free values drawn, and nothing else (R199). -/
theorem transmitArrivals_eq (s : State) : transmitArrivals s = { s with
    link := (transmitArrivals s).link, notices := (transmitArrivals s).notices, freeUsed := (transmitArrivals s).freeUsed } := by
  unfold transmitArrivals
  split
  · split
    · dsimp only
      split
      · rfl
      · rw [chooseFrame_eq]
    · rw [chooseFrame_eq]
  · rfl

/-- The stand-aside mark is all that the end of a happening moves of the relocation controller (R121). -/
theorem settleStandAside_eq (s : State) : settleStandAside s = s.setStandAside (settleStandAside s).reloc.standAside := by
  unfold settleStandAside
  split <;> rfl

/-! ## What each part of the end brings about -/

theorem drainTaken_drainPending (s : State) : drainTaken (drainPending s) := by
  unfold drainPending
  split
  · exact fun _ => rfl
  · next hno => exact fun hdrain => absurd hdrain hno

theorem drainTaken_settleStandAside {s : State} (h : drainTaken s) : drainTaken (settleStandAside s) := by
  rw [settleStandAside_eq]
  exact h

theorem asideForClaim_settleStandAside (s : State) : asideForClaim (settleStandAside s) := by
  unfold settleStandAside
  split
  · exact fun ⟨hmark, _⟩ => nomatch hmark
  · next hno => exact fun ⟨hmark, hidle⟩ hnone => hno ⟨hmark, hidle, hnone⟩

theorem drainTaken_transmitArrivals {s : State} (h : drainTaken s) : drainTaken (transmitArrivals s) := by
  rw [transmitArrivals_eq]
  exact h

theorem asideForClaim_transmitArrivals {s : State} (h : asideForClaim s) : asideForClaim (transmitArrivals s) := by
  rw [transmitArrivals_eq]
  exact h

/-- A transmitter that is SENDING does not choose. -/
theorem nothingToSend_of_sending {s : State} (h : s.link.tx ≠ .idle) : nothingToSend s := fun hfree => by
  simp only [canChoose, Bool.and_eq_true, beq_iff_eq] at hfree
  exact absurd hfree.1 h

/-- After its choice an IDLE transmitter has nothing to send (R199). -/
theorem nothingToSend_chooseFrame (s : State) : nothingToSend (chooseFrame s) := by
  unfold chooseFrame
  split
  · exact nothingToSend_of_sending nofun
  · split
    · exact nothingToSend_of_sending nofun
    · next hreplies =>
      split
      · exact nothingToSend_of_sending nofun
      · next hbacklog => exact fun _ => ⟨hreplies, not_not.mp hbacklog⟩

theorem nothingToSend_transmitArrivals (s : State) : nothingToSend (transmitArrivals s) := by
  unfold transmitArrivals
  split
  · split
    · dsimp only
      split
      · exact nothingToSend_of_sending nofun
      · exact nothingToSend_chooseFrame _
    · exact nothingToSend_chooseFrame s
  · next hno => exact fun hfree => absurd hfree hno

/-- The end of a happening settles, whatever the happening has brought. -/
theorem settled_settle (a u : State) : (settle a u).settled = true :=
  (settled_iff _).mpr
    ⟨drainTaken_transmitArrivals (drainTaken_settleStandAside (drainTaken_drainPending _)),
      asideForClaim_transmitArrivals (asideForClaim_settleStandAside _), nothingToSend_transmitArrivals _⟩

/-! ## The commands -/

theorem settled_happening {f : State → State} {s : State} (h : s.settled = true) : (happening f s).settled = true := by
  unfold happening
  split
  · exact settled_settle s (f s)
  · exact h

theorem settled_afterResetOf (straps : Straps) (ext : BitVec 4) (powered rstLow : Bool) (s : State) :
    (afterResetOf straps ext powered rstLow s).settled = true := rfl

/-- The commands of the supply, of RST# and of device time, and the late report that is discarded: those that are no happening of the
running device. -/
def isNoHappening : Instr → Bool
  | .powerOn _ _ | .powerLoss | .rstAssert _ | .rstRelease _ | .deviceTimeTick | .lateDoneDiscard => true
  | _ => false

/-- Every other command is one happening. -/
theorem exec_happening (c : Instr) (s : State) (hc : isNoHappening c = false) : ∃ f, exec c s = .next (happening f s) := by
  cases c with
  | powerOn | powerLoss | rstAssert | rstRelease | deviceTimeTick | lateDoneDiscard => cases hc
  | _ => exact ⟨_, rfl⟩

/-- A command that is no happening of the running device resets it, or moves RST#, the pins' levels and device time at most. -/
theorem settled_of_noHappening {c : Instr} {s t : State} (hc : isNoHappening c = true) (h : s.settled = true) (he : exec c s = .next t) :
    t.settled = true := by
  cases c with
  | powerOn straps ext =>
    cases (exec_powerOn straps ext s).symm.trans he
    exact settled_afterResetOf ..
  | powerLoss =>
    cases hp : s.powered with
    | true => cases (exec_powerLoss hp).symm.trans he; exact settled_afterResetOf ..
    | false => cases (show exec .powerLoss s = .next s from if_neg (by simp [hp])).symm.trans he; exact h
  | rstAssert straps =>
    cases hr : s.rstLow with
    | true => cases (show exec (.rstAssert straps) s = .next s from if_pos hr).symm.trans he; exact h
    | false =>
      cases (exec_rstAssert straps hr).symm.trans he
      split
      · exact settled_afterResetOf ..
      · exact h
  | rstRelease ext =>
    cases hr : s.rstLow with
    | true =>
      cases (show exec (.rstRelease ext) s = _ from if_pos hr).symm.trans he
      split <;> exact h
    | false => cases (show exec (.rstRelease ext) s = .next s from if_neg (by simp [hr])).symm.trans he; exact h
  | deviceTimeTick =>
    cases (exec_deviceTimeTick s).symm.trans he
    split <;> exact h
  | lateDoneDiscard => cases he; exact h
  | _ => cases hc

/-- Settles O7: a happening ends settled, and what is no happening either resets the device or moves nothing that settling reads. -/
theorem everyHappeningSettles : Obligations.EveryHappeningSettles := by
  intro c s t h he
  cases hc : isNoHappening c with
  | true => exact settled_of_noHappening hc h he
  | false =>
    obtain ⟨f, hf⟩ := exec_happening c s hc
    cases hf.symm.trans he
    exact settled_happening h

end Sys2Proof.Machine
end

section
/-!
PROOFS. O45, the start of a checkpoint and its later operations (R121, R168, R169, R173, R183).
-/
-- The theorems of this file are elaborated one after another: in parallel their waiting threads exceed the memory limit of the check.
set_option Elab.async false

namespace Sys2Proof.Machine

/-! ## The controller and the stand-aside mark at the end of a happening -/

/-- A happening that leaves the device state alone, or leaves it other than WORN, does not enter WORN (R166). -/
theorem avoids_worn_entry {a s : State} (h : s.ctl.device ≠ .worn ∨ a.ctl.device = s.ctl.device) :
    ¬(a.ctl.device = .ready ∧ s.ctl.device = .worn) := fun ⟨hready, hworn⟩ =>
  h.elim (fun hno => hno hworn) fun hsame => nomatch hready.symm.trans (hsame.trans hworn)

/-- Where SHUTDOWN is not draining towards a final checkpoint, the end of a happening leaves the controller alone (R183). -/
theorem settle_ctl {a s : State} (hw : ¬(a.ctl.device = .ready ∧ s.ctl.device = .worn))
    (hd : ¬(s.ctl.device = .shuttingDown ∧ drained s = true)) : (settle a s).ctl = s.ctl := by
  have hworn : settleWorn a s = s := if_neg hw
  have hdrain : drainPending s = s := if_neg fun ⟨hdev, hdr, _⟩ => hd ⟨hdev, hdr⟩
  unfold settle
  rw [transmitArrivals_ctl, settleStandAside_ctl, hworn, hdrain]

/-- A clear stand-aside mark stays clear at the end of a happening (R121). -/
theorem settle_reloc {a s : State} (hw : ¬(a.ctl.device = .ready ∧ s.ctl.device = .worn)) (h : s.reloc.standAside = false) :
    (settle a s).reloc = s.reloc := by
  have hworn : settleWorn a s = s := if_neg hw
  have hreloc : (drainPending s).reloc = s.reloc := by
    unfold drainPending
    split <;> rfl
  have haside : settleStandAside (drainPending s) = drainPending s := if_neg fun ⟨hmark, _⟩ => by
    rw [hreloc, h] at hmark
    cases hmark
  unfold settle
  rw [hworn, haside, transmitArrivals_eq]
  exact hreloc

/-! ## The start -/

/-- The checkpoint that starts is the final one: SHUTDOWN has drained (R183). -/
def startsFinal (s : State) : Bool := s.ctl.device == .shuttingDown && drained s

theorem startsFinal_iff (s : State) : startsFinal s = true ↔ s.ctl.device = .shuttingDown ∧ s.bufs.queue = [] ∧ s.reloc.current = none ∧
    s.reloc.waitList = [] ∧ s.reads.waitList = [] := by
  unfold startsFinal drained relocQuiet
  simp only [Bool.and_eq_true, beq_iff_eq, List.isEmpty_iff, Option.isNone_iff_eq_none, and_assoc]

/-- The state in which a granted checkpoint plans its first operation (R121, R168). -/
def ckptMarked (s : State) : State := markCheckpointStart (startsFinal s) (s.setStandAside false)

section

variable {s : State}

theorem exec_checkpointStart (hr : s.running = true) (hw : winner s = some .checkpoint) (hc : s.ctl.ckpt = none) :
    exec .checkpointStart s = .next (settle s (beginCheckpoint (s.setStandAside false))) :=
  congrArg Host.Outcome.next ((grant_taken hr hw).trans (congrArg (settle s) (if_pos hc)))

/-- With a sequence number left the checkpoint's first operation goes to the port (R168, R169). -/
theorem beginCheckpoint_plan (hq : s.ctl.seqNo ≠ max32) :
    beginCheckpoint (s.setStandAside false) =
      startCheckpointOp (checkpointPlan (ckptMarked s) (startsFinal s))
        ((ckptMarked s).setCtl { (ckptMarked s).ctl with ckpt := some (checkpointPlan (ckptMarked s) (startsFinal s)) }) :=
  if_neg hq

theorem checkpointPlan_slot {k : Nat} {final : Bool} (h : s.ctl.nextSlot = some k) :
    checkpointPlan s final = ⟨snapshotOf s, s.ctl.tableUnit, some k, .page 0, final⟩ := by
  unfold checkpointPlan
  rw [h]

theorem checkpointPlan_erase {final : Bool} (h : s.ctl.nextSlot = none) :
    checkpointPlan s final = ⟨snapshotOf s, otherTable s.ctl.tableUnit, none, .erase, final⟩ := by
  unfold checkpointPlan
  rw [h]

/-- A page of the copy is built in the table buffer and its program goes to the port (R10, R169). -/
theorem startCheckpointOp_page {c : Ckpt} {i k : Nat} (hi : c.next = .page i) (hk : c.tableSlot = some k) :
    startCheckpointOp c s = { s with
      ctl := { s.ctl with tableBuffer := some (tablePageData c.snapshot i) }
      engine := { s.engine with op := some ⟨.program, tableUnitId c.tableUnit, some (8 * k + i), .checkpointStep,
        some .tableBuffer, some .compute, s.time⟩ } } := by
  unfold startCheckpointOp
  rw [hi, hk]
  rfl

theorem startCheckpointOp_erase {c : Ckpt} (h : c.next = .erase) :
    startCheckpointOp c s = s.setOp (some ⟨.erase, tableUnitId c.tableUnit, none, .checkpointStep, none, none, s.time⟩) := by
  unfold startCheckpointOp
  rw [h]

theorem exec_checkpointOpGrant {c : Ckpt} (hr : s.running = true) (hw : winner s = some .checkpoint) (hc : s.ctl.ckpt = some c) :
    exec .checkpointOpGrant s = .next (settle s (startCheckpointOp c (s.setStandAside false))) := by
  have hgrant : grantCheckpointOp s = startCheckpointOp c (s.setStandAside false) := by
    unfold grantCheckpointOp
    rw [hc]
  exact congrArg Host.Outcome.next ((grant_taken hr hw).trans (congrArg (settle s) hgrant))

end

/-! ## A start with the sequence number exhausted -/

/-- The state in which a checkpoint that cannot be numbered has failed and completed its requests (R168, R171, R173); `b` is the table slot of
their replies and `rq` the request table. -/
def ckptRefused (b : Byte) (rq : List Request) (s : State) : State :=
  ckptOver .fault s.ctl.tableUnit b rq
    (raise .tableFault s.ctl.tableUnit.val { ckptMarked s with freeUsed := s.freeUsed + 1 })

theorem beginCheckpoint_refused {s : State} (hq : s.ctl.seqNo = max32) :
    ∃ b rq, beginCheckpoint (s.setStandAside false) = finishShutdown (recordFinal (startsFinal s) false (ckptRefused b rq s)) := by
  obtain ⟨rq, h⟩ := checkpointFailure_eq s.ctl.tableUnit (Config.freeTableSlot s.freeUsed) (startsFinal s)
    { ckptMarked s with freeUsed := s.freeUsed + 1 }
  exact ⟨_, rq, (if_pos hq).trans h⟩

/-- `t` has failed the checkpoint that `s` starts, before its first operation: nothing is written, no request waits for a checkpoint, and
TABLE_FAULT is raised. -/
structure FailedAtStart (s t : State) : Prop where
  ckpt : t.ctl.ckpt = none
  ckptPending : t.ctl.ckptPending = false
  waiters : t.ctl.waiters = []
  seqNo : t.ctl.seqNo = s.ctl.seqNo
  engine : t.engine = s.engine
  array : t.array = s.array
  erasesSince : t.map.erasesSince = 0
  tableFault : t.notices.pendingSet.getLsbD 14 = true
  reloc : t.reloc = { s.reloc with standAside := false }

/-- The end of a happening leaves the failure as it is. -/
theorem FailedAtStart.settle {a s t : State} (h : FailedAtStart s t) (hw : t.ctl.device ≠ .worn ∨ a.ctl.device = t.ctl.device)
    (hd : ¬(t.ctl.device = .shuttingDown ∧ drained t = true)) : FailedAtStart s (settle a t) := by
  have hs : Stands t (Machine.settle a t) := settle_stands hw
  have hctl : (Machine.settle a t).ctl = t.ctl := settle_ctl (avoids_worn_entry hw) hd
  have hreloc : (Machine.settle a t).reloc = t.reloc := settle_reloc (avoids_worn_entry hw) (congrArg RelocCtl.standAside h.reloc)
  exact
    { ckpt := (congrArg Ctl.ckpt hctl).trans h.ckpt
      ckptPending := (congrArg Ctl.ckptPending hctl).trans h.ckptPending
      waiters := (congrArg Ctl.waiters hctl).trans h.waiters
      seqNo := (congrArg Ctl.seqNo hctl).trans h.seqNo
      engine := hs.engine.trans h.engine
      array := hs.array.trans h.array
      erasesSince := (congrArg UnitMap.erasesSince hs.map).trans h.erasesSince
      tableFault := hs.pendingSet h.tableFault
      reloc := hreloc.trans h.reloc }

/-- The mark of a waiter that the checkpoint covers (R168). -/
def CkptWaiter.cover (w : CkptWaiter) : CkptWaiter := { w with covered := true }

theorem filter_covered (l : List CkptWaiter) : (l.map CkptWaiter.cover).filter (·.covered) = l.map CkptWaiter.cover :=
  List.filter_eq_self.mpr (by simp [CkptWaiter.cover])

theorem filter_uncovered (l : List CkptWaiter) : (l.map CkptWaiter.cover).filter (fun w => !w.covered) = [] :=
  List.filter_eq_nil_iff.mpr (by simp [CkptWaiter.cover])

/-- A start covers every CHECKPOINT request that waits, so that none is left after its failure (R168, R173). -/
theorem failedAtStart_ckptRefused (b : Byte) (rq : List Request) (s : State) : FailedAtStart s (ckptRefused b rq s) where
  ckpt := rfl
  ckptPending := rfl
  waiters := filter_uncovered s.ctl.waiters
  seqNo := rfl
  engine := rfl
  array := rfl
  erasesSince := rfl
  tableFault := raise_bit .tableFault _ _
  reloc := rfl

/-- The replies to the CHECKPOINT requests of a start that fails (R173). -/
def refusedReplies (b : Byte) (s : State) : List Reply :=
  s.ctl.waiters.map fun w => replyOf .checkpoint w.tag .fault (n32 s.ctl.seqNo ++ n8 s.ctl.tableUnit.val ++ [b])

theorem ckptRefused_replies (b : Byte) (rq : List Request) (s : State) :
    (ckptRefused b rq s).link.replies = s.link.replies ++ refusedReplies b s := by
  change s.link.replies ++ ((s.ctl.waiters.map CkptWaiter.cover).filter (·.covered)).map _ = _
  rw [filter_covered, List.map_map]
  rfl

theorem ckptRefused_shutdown (b : Byte) (rq : List Request) (s : State) : (ckptRefused b rq s).ctl.shutdown =
    if startsFinal s then s.ctl.shutdown.map (fun x => { x with finalStarted := true }) else s.ctl.shutdown := rfl

section

variable {s : State} (hr : s.running = true) (hw : winner s = some .checkpoint) (hc : s.ctl.ckpt = none) (hq : s.ctl.seqNo = max32)
include hr hw hc hq

/-- Short of the final checkpoint the failure leaves the device state and SHUTDOWN alone (R168, R171). -/
theorem checkpointStart_refused (hf : startsFinal s = false) (hd : s.deviceOk = true) :
    ∃ t b, exec .checkpointStart s = .next t ∧ FailedAtStart s t ∧ t.ctl.device = s.ctl.device ∧ t.ctl.shutdown = s.ctl.shutdown ∧
      t.link.replies = s.link.replies ++ refusedReplies b s := by
  obtain ⟨b, rq, hb⟩ := beginCheckpoint_refused hq
  have hshut : (ckptRefused b rq s).ctl.shutdown = s.ctl.shutdown := by
    rw [ckptRefused_shutdown, hf]
    rfl
  have hopen : s.ctl.shutdown.all (fun x => x.outcome.isNone) = true := by
    simp only [State.deviceOk, Bool.and_eq_true] at hd
    exact hd.2
  rw [hf, finishShutdown_other (hshut ▸ hopen)] at hb
  have hsame : s.ctl.device = (ckptRefused b rq s).ctl.device := rfl
  have hdrain : ¬((ckptRefused b rq s).ctl.device = .shuttingDown ∧ drained (ckptRefused b rq s) = true) := fun ⟨hdev, hdr⟩ =>
    nomatch hf.symm.trans (Bool.and_eq_true_iff.mpr ⟨beq_iff_eq.mpr hdev, hdr⟩ : startsFinal s = true)
  have hs := settle_stands (a := s) (.inr hsame)
  exact ⟨_, b, (exec_checkpointStart hr hw hc).trans (congrArg (fun t => Host.Outcome.next (settle s t)) hb),
    (failedAtStart_ckptRefused b rq s).settle (.inr hsame) hdrain, hs.device, hs.shutdown.trans hshut,
    hs.replies.trans (ckptRefused_replies b rq s)⟩

/-- At the final checkpoint the failure ends SHUTDOWN with FAULT (R183). -/
theorem checkpointStart_refused_final (hf : startsFinal s = true) {x : Shutdown} (hx : s.ctl.shutdown = some x) :
    ∃ t b, exec .checkpointStart s = .next t ∧ FailedAtStart s t ∧ t.ctl.device = .halted ∧ t.ctl.shutdown = none ∧
      (∀ n, t.timer n = { s.timer n with running := false, remaining := 0 }) ∧
      t.link.replies = s.link.replies ++ refusedReplies b s ++ [replyOf .shutdown x.tag .fault (n32 s.ctl.seqNo)] := by
  obtain ⟨b, rq, hb⟩ := beginCheckpoint_refused hq
  have hfail := failedAtStart_ckptRefused b rq s
  have hshut : (ckptRefused b rq s).ctl.shutdown = some { x with finalStarted := true } := by
    rw [ckptRefused_shutdown, hf, hx]
    rfl
  obtain ⟨rq', tr, he, htime⟩ := finishShutdown_final hshut false
  have hreplies := congrArg (· ++ [replyOf .shutdown x.tag .fault (n32 s.ctl.seqNo)]) (ckptRefused_replies b rq s)
  have htimer : ∀ n, vget tr.timers n = { s.timer n with running := false, remaining := 0 } := htime
  rw [hf, he] at hb
  generalize ckptRefused b rq s = u at hb hfail hreplies
  refine ⟨_, b, (exec_checkpointStart hr hw hc).trans (congrArg (fun t => Host.Outcome.next (settle s t)) hb), ?_⟩
  rw [hfail.seqNo]
  have hs := settle_stands (a := s) (s := joinReplies rq' [replyOf .shutdown x.tag .fault (n32 s.ctl.seqNo)]
    { u with ctl := { u.ctl with device := .halted, shutdown := none }, triggers := tr }) (.inl nofun)
  refine ⟨FailedAtStart.settle ?_ (.inl nofun) (fun ⟨hdev, _⟩ => nomatch hdev), hs.device, hs.shutdown,
    fun n => (hs.timer n).trans (htimer n), hs.replies.trans hreplies⟩
  exact
    { ckpt := hfail.ckpt, ckptPending := hfail.ckptPending, waiters := hfail.waiters, seqNo := hfail.seqNo, engine := hfail.engine
      array := hfail.array, erasesSince := hfail.erasesSince, tableFault := hfail.tableFault, reloc := hfail.reloc }

end

/-- Settles O45: the first operation by the next table slot, the exhausted sequence number short of the final checkpoint and at it, and the
grant of a later page. -/
theorem checkpointsStartAndGoOn : Obligations.CheckpointsStartAndGoOn := by
  intro s hr hw final snap held marked
  have hfinal : final = startsFinal s := Bool.eq_iff_iff.mpr (decide_eq_true_iff.trans (startsFinal_iff s).symm)
  clear_value final
  subst hfinal
  refine ⟨fun hc hq k hk => ?_, fun hc hq hk => ?_, fun hc hq hf hd => ?_, fun hc hq hf x hx => ?_, fun c i k hc hi hk => ?_⟩
  · rw [exec_checkpointStart hr hw hc, beginCheckpoint_plan hq, checkpointPlan_slot (s := ckptMarked s) hk,
      startCheckpointOp_page (i := 0) (k := k) rfl rfl]
    rfl
  · rw [exec_checkpointStart hr hw hc, beginCheckpoint_plan hq, checkpointPlan_erase (s := ckptMarked s) hk, startCheckpointOp_erase rfl]
    rfl
  · obtain ⟨t, b, he, h, hdev, hshut, hreplies⟩ := checkpointStart_refused hr hw hc hq hf hd
    exact ⟨t, b, he, h.ckpt, h.ckptPending, h.waiters, h.seqNo, h.engine, h.array, h.erasesSince, h.tableFault, h.reloc, hdev, hshut, hreplies⟩
  · obtain ⟨t, b, he, h, hdev, hshut, htimer, hreplies⟩ := checkpointStart_refused_final hr hw hc hq hf hx
    exact ⟨t, b, he, h.ckpt, h.ckptPending, h.waiters, h.seqNo, h.engine, h.array, h.erasesSince, h.tableFault, h.reloc, hdev, hshut, htimer,
      hreplies⟩
  · rw [exec_checkpointOpGrant hr hw hc, startCheckpointOp_page hi hk]
    rfl

end Sys2Proof.Machine
end

section
/-!
PROOFS. O36, the lookup of a READ: the held range and its gaps, the page buffer that holds the page, and the reply from it (R139 to R141,
R146).
-/
-- The theorems of this file are elaborated one after another: in parallel their waiting threads exceed the memory limit of the check.
set_option Elab.async false

namespace Sys2Proof.Machine

/-! ## What a stream record holds -/

theorem inGap_eq_false {r : StreamRec} {x : Nat} : inGap r x = false ↔ ∀ g ∈ r.gaps, x < g.first ∨ g.first + g.count ≤ x := by
  simp only [inGap, List.any_eq_false, Bool.and_eq_true, decide_eq_true_eq, not_and_or, Nat.not_le, Nat.not_lt]

/-- The stream holds page `x`: the page lies in the held range and in no gap (R140, steps 1 to 3). -/
def holdsNumber (r : StreamRec) (x : Nat) : Prop :=
  r.state ≠ .undefined ∧ r.basePage ≤ x ∧ x < r.endPage ∧ ∀ g ∈ r.gaps, x < g.first ∨ g.first + g.count ≤ x

/-! ## The page buffer that holds a page -/

/-- The test that step 4 of R140 makes of a page buffer. -/
def showsPage (s : State) (st : StreamId) (x : Nat) (b : BufId) : Bool :=
  decide ((s.buf b).stream = some st ∧ (s.buf b).sealed.map (·.pageNumber) = some x ∧
    ((s.buf b).place = .queued ∨ (s.buf b).place = .held st ∨ (s.buf b).place = .failed))

theorem bufferOfPage_eq_find (s : State) (st : StreamId) (x : Nat) :
    bufferOfPage s st x = (List.finRange 32).find? (showsPage s st x) := by
  unfold bufferOfPage
  congr 1
  funext b
  refine Bool.eq_iff_iff.mpr ?_
  unfold showsPage
  dsimp only
  rw [decide_eq_true_iff]
  cases (s.buf b).sealed with
  | none => simp
  | some i =>
    simp only [Bool.and_eq_true, Bool.or_eq_true, beq_iff_eq, Option.map_some, Option.some.injEq]
    tauto

theorem bufferOfPage_eq_none {s : State} {st : StreamId} {x : Nat} (h : ∀ b, ¬showsPage s st x b = true) : bufferOfPage s st x = none := by
  rw [bufferOfPage_eq_find]
  exact List.find?_eq_none.mpr fun b _ => h b

/-- A page that stands in one buffer is found there. -/
theorem bufferOfPage_eq_some {s : State} {st : StreamId} {x : Nat} {b : BufId} (h : showsPage s st x b = true)
    (hone : ∀ b', showsPage s st x b' = true → b' = b) : bufferOfPage s st x = some b := by
  rw [bufferOfPage_eq_find]
  cases hf : (List.finRange 32).find? (showsPage s st x) with
  | none => exact absurd h (List.find?_eq_none.mp hf b (List.mem_finRange b))
  | some b' => rw [hone b' (List.find?_some hf)]

/-! ## The lookup -/

section

variable {q : ReadReq} {s : State}

theorem lookupRead_absent (h : ¬holdsNumber (s.stream q.stream) q.pageNumber) : lookupRead q s = finishNoData q s := by
  unfold lookupRead
  dsimp only
  split_ifs with hu hrange hgap
  · rfl
  · rfl
  · rfl
  · obtain ⟨hbase, hend⟩ := not_or.mp hrange
    exact absurd ⟨hu, Nat.le_of_not_lt hbase, Nat.lt_of_not_le hend, inGap_eq_false.mp (Bool.eq_false_of_not_eq_true hgap)⟩ h

/-- Step 4 of R140, for a page that the stream holds: the page buffer that has it, or the read wait list. -/
theorem lookupRead_held (h : holdsNumber (s.stream q.stream) q.pageNumber) : lookupRead q s =
    (bufferOfPage s q.stream q.pageNumber).elim (s.setReadWaits (s.reads.waitList ++ [q]))
      fun b => (s.buf b).sealed.elim s fun i => serveBuffered q (s.buf b) i s := by
  obtain ⟨hu, hbase, hend, hgap⟩ := h
  have hrange : ¬(q.pageNumber < (s.stream q.stream).basePage ∨ (s.stream q.stream).endPage ≤ q.pageNumber) := by omega
  unfold lookupRead
  dsimp only
  rw [if_neg hu, if_neg hrange, inGap_eq_false.mpr hgap, if_neg Bool.false_ne_true]
  cases bufferOfPage s q.stream q.pageNumber with
  | none => rfl
  | some b =>
    dsimp only [Option.elim_some]
    cases (s.buf b).sealed <;> rfl

end

/-! ## The request -/

/-- The flags byte of a reply from a page buffer: RUN_START, GAP and BUFFERED (R141, R146). -/
theorem readFlags_buffered : ∀ a b : Bool, [readFlags (tagFlags a b false false) true] = n8 (a.toNat + 2 * b.toNat + 16) := by decide

section

variable {tag : Byte} {p : List Byte} {s : State}

theorem ownRequest_read_bad (h : 7 < (field8 p 2).toNat ∨ 112 < (field8 p 8).toNat) :
    ownRequest .read tag p s = refuse .read tag .badParam s := by
  change readRequest tag p s = _
  unfold readRequest
  split
  · rfl
  · next st hst =>
    have hstream : ¬7 < (field8 p 2).toNat := fun h7 => nomatch (streamOf_eq_none.mpr h7).symm.trans hst
    exact if_pos (h.resolve_left hstream)

/-- What an accepted READ asks for (R138, R213). -/
def readAsked (tag : Byte) (p : List Byte) (st : StreamId) : ReadReq :=
  ⟨tag, st, (field32 p 3).toNat, (field8 p 7).toNat, (field8 p 8).toNat⟩

theorem ownRequest_read {st : StreamId} (hst : (field8 p 2).toNat = st.val) (hc : (field8 p 8).toNat ≤ 112) :
    ownRequest .read tag p s = lookupRead (readAsked tag p st) s := by
  change readRequest tag p s = _
  unfold readRequest
  rw [streamOf_eq_some.mpr hst]
  exact if_neg (Nat.not_lt.mpr hc)

/-- Taking a READ moves nothing that its lookup reads. -/
theorem ownRequest_read_held {st : StreamId} (hst : (field8 p 2).toNat = st.val) (hc : (field8 p 8).toNat ≤ 112)
    (h : holdsNumber (s.stream st) (field32 p 3).toNat) : ownRequest .read tag p (waiting .read tag p s) =
      (bufferOfPage s st (field32 p 3).toNat).elim
        (waiting .read tag p (s.setReadWaits (s.reads.waitList ++ [readAsked tag p st])))
        fun b => (s.buf b).sealed.elim (waiting .read tag p s) fun i =>
          serveBuffered (readAsked tag p st) (s.buf b) i (waiting .read tag p s) :=
  (ownRequest_read hst hc).trans (lookupRead_held (q := readAsked tag p st) (s := waiting .read tag p s) h)

end

/-- Settles O36: the refusals, and the lookup by what the stream holds and by the page buffer found. -/
theorem readsAreLookedUp : Obligations.ReadsAreLookedUp := by
  intro tag p s hacc
  refine ⟨fun hbad => exec_refused hacc (ownRequest_read_bad hbad), ?_⟩
  intro st hst hc r x offset count held holds
  have hshows {b} : showsPage s st x b = true ↔ holds b := decide_eq_true_iff
  refine ⟨fun hno => ?_, fun hyes hnone => ?_, fun hyes b i hb hone hi => ?_⟩
  · exact exec_answered hacc ((ownRequest_read hst hc).trans (lookupRead_absent hno))
  · have hfind : bufferOfPage s st x = none := bufferOfPage_eq_none fun b hb => hnone b (hshows.mp hb)
    refine (exec_accepted hacc).trans (congrArg (fun t => Host.Outcome.next (settle s t)) ?_)
    rw [ownRequest_read_held hst hc hyes, hfind]
    rfl
  · have hfind : bufferOfPage s st x = some b := bufferOfPage_eq_some (hshows.mpr hb) fun b' hb' => hone b' (hshows.mp hb')
    refine exec_answered hacc ?_
    rw [ownRequest_read_held hst hc hyes, hfind, Option.elim_some, hi, ← readFlags_buffered]
    rfl

end Sys2Proof.Machine
end

section
/-!
PROOFS. O19 and O10: RESET and CHECKPOINT as they are taken (R173, R202), the transmitter's choice (R199), and the departure of a reply, which
frees what the reply holds or, after the reply to RESET, resets the device (R185, R198, R202).
-/
-- The theorems of this file are elaborated one after another: in parallel their waiting threads exceed the memory limit of the check.
set_option Elab.async false

namespace Sys2Proof.Machine

/-! ## RESET and CHECKPOINT -/

/-- RESET is taken in every device state (R196). -/
theorem takenIn_reset (d : DeviceState) : takenIn d .reset = true := by
  cases d <;> rfl

theorem accepted_reset {tag : Byte} {p : List Byte} {s : State} (hr : s.running = true) (h : passesEarly .reset tag p s = true) :
    accepted .reset tag p s = true := by
  simp only [accepted, hr, h, takenIn_reset, Bool.and_self]

/-- The flag that RESET sets is outside what the completion of a request moves (R198, R202). -/
theorem ownRequest_reset {tag : Byte} {p : List Byte} {s : State} (h : ∀ r ∈ s.link.requests, r.tag ≠ tag) :
    ownRequest .reset tag p (waiting .reset tag p s) =
      answered .reset tag p .ok [] { s with link := { s.link with resetPending := true } } :=
  congrArg (fun t : State => t.setLink { t.link with resetPending := true }) (finishRequest_waiting .ok [] h)

/-- Settles O19: a RESET that passes the early checks is accepted, and each of the two is its owning block's effect. -/
theorem resetAndCheckpointAreTaken : Obligations.ResetAndCheckpointAreTaken := by
  refine ⟨fun tag p s hr hpass => ?_, fun tag p s hacc => exec_accepted hacc⟩
  have hacc := accepted_reset hr hpass
  exact (exec_accepted hacc).trans (by rw [ownRequest_reset (accepted_fresh hacc)])

/-! ## The transmitter's choice -/

/-- The model's choice at an IDLE transmitter is R199's. -/
theorem choosesFrame_chooseFrame {s : State} (h : s.link.tx = .idle) : choosesFrame s (chooseFrame s) := by
  unfold choosesFrame chooseFrame maxSpacing
  by_cases hfirst : s.notices.backlog ≠ [] ∧ s.link.spacing = 4
  · rw [if_pos hfirst, if_pos hfirst]
    exact ⟨rfl, rfl, rfl⟩
  · rw [if_neg hfirst, if_neg hfirst]
    cases s.link.replies with
    | cons r rest => exact ⟨rfl, rfl, rfl⟩
    | nil =>
      by_cases hnotice : s.notices.backlog ≠ []
      · rw [if_pos hnotice, if_pos hnotice]
        exact ⟨rfl, rfl, rfl⟩
      · rw [if_neg hnotice, if_neg hnotice]
        exact ⟨h, rfl, rfl⟩

/-- A choice is seen in the link and the notice unit alone. -/
theorem choosesFrame_congr {s t u : State} (hlink : u.link = t.link) (hnotices : u.notices = t.notices) (h : choosesFrame s t) :
    choosesFrame s u := by
  unfold choosesFrame startsNotice at h ⊢
  rw [hlink, hnotices]
  exact h

/-- Where nothing waits to be sent, the transmitter stays as it is at the end of a happening (R199). -/
theorem transmitArrivals_of_nothingToSend {s : State} (h : nothingToSend s) : transmitArrivals s = s := by
  unfold transmitArrivals
  split
  · next hfree =>
    obtain ⟨hreplies, hbacklog⟩ := h hfree
    simp [chooseFrame, hreplies, hbacklog]
  · rfl

/-- After its transmitter's choice, a happening that does not enter WORN ends without moving the link or the notice unit (R199). -/
theorem settle_of_nothingToSend {a s : State} (hw : ¬(a.ctl.device = .ready ∧ s.ctl.device = .worn)) (h : nothingToSend s) :
    (settle a s).link = s.link ∧ (settle a s).notices = s.notices := by
  have hworn : settleWorn a s = s := if_neg hw
  have hdrain : (drainPending s).link = s.link ∧ (drainPending s).notices = s.notices := by
    unfold drainPending
    split <;> exact ⟨rfl, rfl⟩
  have hend : (settleStandAside (drainPending s)).link = s.link ∧ (settleStandAside (drainPending s)).notices = s.notices := by
    rw [settleStandAside_eq]
    exact hdrain
  have hquiet : nothingToSend (settleStandAside (drainPending s)) := by
    unfold nothingToSend canChoose
    rw [hend.1, hend.2]
    exact h
  unfold settle
  rw [hworn, transmitArrivals_of_nothingToSend hquiet]
  exact hend

/-! ## The departure of a reply -/

/-- What the departure frees is what R198 says, and the transmitter is IDLE with it. -/
theorem releaseReply_eq (r : Reply) (rest : List Reply) (s : State) :
    releaseReply r rest s = (replyGone r rest s).setLink { (replyGone r rest s).link with tx := .idle } := by
  obtain ⟨source, body, staging⟩ := r
  cases source <;> cases staging <;> rfl

/-- A reset leaves nothing for the end of its happening: MOUNTING, the stand-aside mark clear, and the transmitter held (R185, R199). -/
theorem settle_afterResetOf (a : State) (straps : Straps) (ext : BitVec 4) (powered rstLow : Bool) (s : State) :
    settle a (afterResetOf straps ext powered rstLow s) = afterResetOf straps ext powered rstLow s := by
  generalize hu : afterResetOf straps ext powered rstLow s = u
  have hmounting : u.ctl.device = .mounting := by rw [← hu]; rfl
  have hmark : u.reloc.standAside = false := by rw [← hu]; rfl
  have hheld : u.link.holding = true := by rw [← hu]; rfl
  have hworn : settleWorn a u = u := if_neg fun ⟨_, h⟩ => nomatch hmounting.symm.trans h
  have hdrain : drainPending u = u := if_neg fun ⟨h, _⟩ => nomatch hmounting.symm.trans h
  have haside : settleStandAside u = u := if_neg fun ⟨h, _⟩ => nomatch hmark.symm.trans h
  have hquiet : nothingToSend u := fun h => by
    simp [canChoose, hheld] at h
  unfold settle
  rw [hworn, hdrain, haside, transmitArrivals_of_nothingToSend hquiet]

section

variable {straps : Straps} {ext : BitVec 4} {s : State} {frame : List Byte} {r : Reply} {rest : List Reply}

theorem exec_replySent (hr : s.running = true) (htx : s.link.tx = .sendingReply frame) (hl : s.link.replies = r :: rest) :
    exec (.replySent straps ext) s = .next (settle s
      (if isResetReply r then sampleExt ext (resetDevice straps s) else chooseFrame (releaseReply r rest s))) := by
  refine congrArg Host.Outcome.next ((happening_running hr).trans (congrArg (settle s) ?_))
  unfold replyDeparts
  rw [htx, hl]

theorem isResetReply_eq_false (h : ∀ tag, r.source ≠ .request tag .reset) : isResetReply r = false := by
  unfold isResetReply
  split
  · next tag k hsrc => exact beq_eq_false_iff_ne.mpr fun hk => h tag (hk ▸ hsrc)
  · rfl

theorem isResetReply_of_reset {tag : Byte} (h : r.source = .request tag .reset) : isResetReply r = true := by
  unfold isResetReply
  rw [h]
  rfl

/-- A reply that leaves brings about `replyGone`, but for the transmitter, whose choice follows in the same happening (R198, R199). -/
theorem settled_replyDeparture : Settled (replyGone r rest s) (settle s (chooseFrame (releaseReply r rest s))) ∧
    choosesFrame (replyGone r rest s) (settle s (chooseFrame (releaseReply r rest s))) := by
  rw [releaseReply_eq]
  generalize hu : (replyGone r rest s).setLink { (replyGone r rest s).link with tx := .idle } = u
  have hgone : Settled (replyGone r rest s) u := by rw [← hu]; exact ⟨rfl, rfl, rfl, rfl⟩
  have hchoice : choosesFrame (replyGone r rest s) (chooseFrame u) := by
    rw [← hu]
    exact choosesFrame_chooseFrame (s := (replyGone r rest s).setLink { (replyGone r rest s).link with tx := .idle }) rfl
  have hdevice : (chooseFrame u).ctl.device = s.ctl.device := by rw [chooseFrame_ctl, ← hu]; rfl
  have hw := avoids_worn_entry (.inr hdevice.symm)
  obtain ⟨hlink, hnotices⟩ := settle_of_nothingToSend hw (nothingToSend_chooseFrame u)
  exact ⟨(hgone.trans (settled_chooseFrame u)).trans (settle_settled hw), choosesFrame_congr hlink hnotices hchoice⟩

/-- The reset that the reply to RESET brings, by a device that runs (R185, R202). -/
theorem sampleExt_resetDevice (hr : s.running = true) : sampleExt ext (resetDevice straps s) = afterResetOf straps ext true false s := by
  obtain ⟨hpowered, hlow⟩ : s.powered = true ∧ s.rstLow = false := by simpa [State.running] using hr
  rw [resetDevice_eq, hpowered, hlow]
  rfl

end

/-- Settles O10: the departure of another reply, and of the reply to RESET. -/
theorem repliesDepart : Obligations.RepliesDepart := by
  intro straps ext s frame r rest hr htx hl
  have hexec := exec_replySent (straps := straps) (ext := ext) hr htx hl
  refine ⟨fun hother _ => ?_, fun tag hreset => ?_⟩
  · rw [isResetReply_eq_false hother, if_neg Bool.false_ne_true] at hexec
    obtain ⟨⟨hcore, hreplies, hrequests, -⟩, hchoice⟩ := settled_replyDeparture (r := r) (rest := rest) (s := s)
    have htags := congrArg (List.map Prod.fst) hrequests
    rw [List.map_map, List.map_map] at htags
    exact ⟨_, hexec, hcore, hreplies, htags, hchoice⟩
  · rw [hexec, isResetReply_of_reset hreset, if_pos rfl, sampleExt_resetDevice hr, settle_afterResetOf]

end Sys2Proof.Machine
end

section
/-!
PROOFS. O46, the pages of a table copy (R167, R216): the words of a page's data, the header, the entries and the commit page, and the bytes that
the CRC-32 covers.
-/
-- The theorems of this file are elaborated one after another: in parallel their waiting threads exceed the memory limit of the check.
set_option Elab.async false

namespace Sys2Proof.Machine

/-! ## Words -/

/-- A page's data holds the words given, and 0xFFFF behind them (R3). -/
theorem pageData_word (ws : List Word) {j : Nat} (h : j < 256) : (pageData ws).toList.getD j 0 = ws.getD j 0xFFFF := by
  simp [pageData, List.getD, h]

/-- A 32-bit value is the long word of its lower and its upper half. -/
theorem word32_halves (v : BitVec 32) : word32 (v.extractLsb' 0 16) (v.extractLsb' 16 16) = v := by
  apply BitVec.eq_of_toNat_eq
  rw [word32_toNat, BitVec.extractLsb'_toNat, BitVec.extractLsb'_toNat, Nat.shiftRight_eq_div_pow, Nat.shiftRight_eq_div_pow]
  omega

/-- A number below 2^32 is the sum of its lower word and 65536 times its upper word. -/
theorem halves_toNat {n : Nat} (h : n < 4294967296) :
    ((BitVec.ofNat 32 n).extractLsb' 0 16).toNat + 65536 * ((BitVec.ofNat 32 n).extractLsb' 16 16).toNat = n := by
  rw [← word32_toNat, word32_halves, BitVec.toNat_ofNat, Nat.mod_eq_of_lt h]

/-- Bits 0 to 14 of an entry are the erase count, bit 15 the retired flag (R216). -/
theorem tableEntry_fields {e : Nat × Bool} (h : e.1 < 32768) :
    (tableEntry e).toNat % 32768 = e.1 ∧ (tableEntry e).getLsbD 15 = e.2 := by
  obtain ⟨n, retired⟩ := e
  replace h : n < 32768 := h
  rw [BitVec.getLsbD, Nat.testBit_eq_decide_div_mod_eq, tableEntry, BitVec.toNat_ofNat]
  cases retired <;> simp <;> omega

/-! ## The pages -/

section

variable (sn : Snapshot)

theorem tablePageData_header : tablePageData sn 0 = headerData sn := if_pos rfl

theorem tablePageData_entries {i : Nat} (h0 : i ≠ 0) (h5 : i < 5) : tablePageData sn i = entryData sn i :=
  (if_neg h0).trans (if_pos h5)

theorem tablePageData_commit :
    tablePageData sn 5 = commitData (BitVec.ofNat 32 sn.seqNo) (crc32 (copyBytes (headerData sn) ([1, 2, 3, 4].map (entryData sn)))) := rfl

/-- The entry of a unit stands in the page of its 256 units (R216). -/
theorem entryData_word (u : UnitId) :
    (tablePageData sn (1 + u.val / 256)).toList.getD (u.val % 256) 0 = tableEntry (vget sn.entries u) := by
  have hu := u.isLt
  have hj : u.val % 256 < 256 := Nat.mod_lt _ (by decide)
  have hplace : 256 * (u.val / 256) + u.val % 256 = u.val := Nat.div_add_mod ..
  rw [tablePageData_entries sn (by omega) (by omega), entryData, pageData_word _ hj, Nat.add_sub_cancel_left]
  simp [wordsPerPage, List.getD, hj, hplace, vget]

/-- The CRC-32 of a copy covers the data of pages 0 to 4, in their order (R216). -/
theorem copyBytes_eq : copyBytes (headerData sn) ([1, 2, 3, 4].map (entryData sn)) =
    [0, 1, 2, 3, 4].flatMap (fun i => dataBytes (tablePageData sn i)) := by
  have hpages : ∀ i ∈ [1, 2, 3, 4], i ≠ 0 ∧ i < 5 := by decide
  have hentries : [1, 2, 3, 4].map (entryData sn) = [1, 2, 3, 4].map (tablePageData sn) :=
    List.map_congr_left fun i hi => (tablePageData_entries sn (hpages i hi).1 (hpages i hi).2).symm
  rw [copyBytes, hentries, List.flatMap_map, ← tablePageData_header, ← List.flatMap_cons (f := fun i => dataBytes (tablePageData sn i))]

end

/-- Settles O46: the header, the entry of each unit, and the commit page. -/
theorem tablePagesHoldTheSnapshot : Obligations.TablePagesHoldTheSnapshot := by
  intro sn hseq hretired hentries word
  have hheader : ∀ {j}, j < 256 →
      word 0 j = (words32 (BitVec.ofNat 32 sn.seqNo) ++ [BitVec.ofNat 16 sn.retiredCount]).getD j 0xFFFF := fun hj => by
    change (tablePageData sn 0).toList.getD _ 0 = _
    rw [tablePageData_header, headerData, pageData_word _ hj]
  have hcommit : ∀ {j}, j < 256 → word 5 j = ([0xC0A5, 0xC0A5] ++ words32 (BitVec.ofNat 32 sn.seqNo) ++
      words32 (crc32 ([0, 1, 2, 3, 4].flatMap fun i => dataBytes (tablePageData sn i)))).getD j 0xFFFF := fun hj => by
    change (tablePageData sn 5).toList.getD _ 0 = _
    rw [tablePageData_commit, commitData, copyBytes_eq, pageData_word _ hj]
  refine ⟨⟨?_, ?_, ?_⟩, ?_, ?_, ?_, ?_, ?_, ?_⟩
  · rw [hheader (by decide), hheader (by decide)]
    exact halves_toNat hseq
  · rw [hheader (by decide)]
    exact Nat.mod_eq_of_lt hretired
  · intro j h3 hj
    rw [hheader hj]
    exact List.getD_eq_default _ _ h3
  · intro u w
    have hw : w = tableEntry (vget sn.entries u) := entryData_word sn u
    rw [hw]
    exact tableEntry_fields (hentries u)
  · exact hcommit (by decide)
  · exact hcommit (by decide)
  · rw [hcommit (by decide), hcommit (by decide)]
    exact halves_toNat hseq
  · rw [hcommit (by decide), hcommit (by decide)]
    exact word32_halves _
  · intro j h6 hj
    rw [hcommit hj]
    exact List.getD_eq_default _ _ h6

end Sys2Proof.Machine
end

section
/-!
PROOFS. O12, O13 and O14, the receiver: a discarded frame and its count (R191, R192), each byte by the table of R190, and the byte that ends a
frame, by whether the CRC-16 matches (R190, R193).
-/
-- The theorems of this file are elaborated one after another: in parallel their waiting threads exceed the memory limit of the check.
set_option Elab.async false

namespace Sys2Proof.Machine

section

variable {s : State}

/-- A command that is one happening of a device that runs ends in its settled effect. -/
theorem exec_happening_running {c : Instr} {f : State → State} (hr : s.running = true) (he : exec c s = .next (happening f s)) :
    exec c s = .next (settle s (f s)) := he.trans (congrArg _ (happening_running hr))

/-! ## Discards -/

/-- A discard leaves the link's own fields and the notice unit as R192 says. -/
theorem discardFrame_eq (s : State) : discardFrame s = discarded s := by
  unfold discardFrame countDiscard discarded
  cases h : s.link.faultReported with
  | true => simp [h, satInc, max16, State.setLink]
  | false => simp [h, satInc, max16, State.setLink, raise]

/-- The inter-byte timer runs in every receiver state but HUNT, and runs out 2 ms after the last byte (R191). -/
theorem interByteDue_iff : interByteDue s = true ↔ s.link.rx ≠ .hunt ∧ 2000 ≤ elapsed s.time s.link.lastByte := by
  unfold interByteDue interByteUs
  rw [Bool.and_eq_true, bne_iff_ne, decide_eq_true_eq]

theorem exec_interByteTimeout (hr : s.running = true) :
    exec .interByteTimeout s = .next (settle s (if interByteDue s then discardFrame s else s)) :=
  exec_happening_running (f := fun s => if interByteDue s then discardFrame s else s) hr rfl

/-- Settles O12: FRAME_DISCARD discards, and so does the inter-byte timer where it is due, which it never is in HUNT. -/
theorem discardsAreCounted : Obligations.DiscardsAreCounted := by
  refine ⟨fun s hr => ?_, fun s hr hrx hlate => ?_, fun s hr hrx => ?_⟩
  · rw [← discardFrame_eq]
    exact exec_happening_running hr rfl
  · rw [exec_interByteTimeout hr, if_pos (interByteDue_iff.mpr ⟨hrx, hlate⟩), discardFrame_eq]
  · rw [exec_interByteTimeout hr, if_neg fun hdue => (interByteDue_iff.mp hdue).1 hrx]

/-! ## One byte -/

variable {b : Byte} {len : Nat} {got : List Byte}

theorem exec_rxdByte (hr : s.running = true) : exec (.rxdByte b false) s = .next (settle s (receiveByte b s)) :=
  exec_happening_running (f := fun s => receiveByte b s) hr rfl

theorem exec_rxdByte_lineError (hr : s.running = true) : exec (.rxdByte b true) s = .next (settle s (receiveBadByte s)) :=
  exec_happening_running (f := fun s => receiveBadByte s) hr rfl

theorem receiveByte_hunt (h : s.link.rx = .hunt) : receiveByte b s = if b = 0xC3 then takeByte .length s else s := by
  unfold receiveByte
  rw [h]

theorem receiveByte_length (h : s.link.rx = .length) :
    receiveByte b s = if 2 ≤ b.toNat ∧ b.toNat ≤ 244 then takeByte (.body b.toNat []) s else discarded s := by
  unfold receiveByte
  rw [h, ← discardFrame_eq]

theorem receiveByte_body (h : s.link.rx = .body len got) : receiveByte b s =
    takeByte (if len ≤ got.length + 1 then .crc len (got ++ [b]) none else .body len (got ++ [b])) s := by
  unfold receiveByte
  rw [h]
  dsimp only
  unfold bodyState
  rw [List.length_append, List.length_singleton]

theorem receiveByte_firstCrc (h : s.link.rx = .crc len got none) : receiveByte b s = takeByte (.crc len got (some b)) s := by
  unfold receiveByte
  rw [h]

theorem receiveByte_secondCrc {hi : Byte} (h : s.link.rx = .crc len got (some hi)) : receiveByte b s = frameEnds len got hi b s := by
  unfold receiveByte
  rw [h]

/-- Settles O13, receiver state by receiver state, and the line errors. -/
theorem receiverFollowsItsTable : Obligations.ReceiverFollowsItsTable := by
  intro b s hr
  refine ⟨fun h => ⟨?_, ?_⟩, fun h => ?_, fun len got h => ?_, fun len body h => ?_, fun h => ?_⟩
  · rw [exec_rxdByte_lineError hr, receiveBadByte, if_pos h]
  · rw [exec_rxdByte hr, receiveByte_hunt h]
    rfl
  · rw [exec_rxdByte hr, receiveByte_length h]
    rfl
  · rw [exec_rxdByte hr, receiveByte_body h]
    rfl
  · rw [exec_rxdByte hr, receiveByte_firstCrc h]
    rfl
  · rw [exec_rxdByte_lineError hr, receiveBadByte, if_neg h, discardFrame_eq]

/-! ## The kinds of frames -/

theorem requestKindCodes_eq : requestKindCodes = allKinds.map kindCode := rfl

theorem kindOfCode_kindCode (k : ReqKind) : kindOfCode (kindCode k) = some k := by
  cases k <;> rfl

/-- A KIND byte outside the table of R193 names no request kind. -/
theorem kindOfCode_eq_none {kind : Byte} (h : kind ∉ requestKindCodes) : kindOfCode kind = none := by
  rw [requestKindCodes_eq] at h
  exact List.find?_eq_none.mpr fun k hk he => h (List.mem_map.mpr ⟨k, hk, beq_iff_eq.mp he⟩)

theorem takeFrame_kindCode (k : ReqKind) (tag : Byte) (p : List Byte) (s : State) :
    takeFrame (kindCode k) tag p s = takeRequest k tag p (ownRequest k tag p) s := by
  unfold takeFrame
  rw [kindOfCode_kindCode]

theorem takeFrame_badKind {kind : Byte} (h : kind ∉ requestKindCodes) (tag : Byte) (p : List Byte) (s : State) :
    takeFrame kind tag p s = earlyRefusal 0xFF tag .badKind s := by
  unfold takeFrame
  rw [kindOfCode_eq_none h]

/-- A request command is the arrival of a correct frame of its kind (R193). -/
theorem exec_commandOf {k : ReqKind} {tag : Byte} {p : List Byte} (hr : s.running = true) :
    exec (commandOf k tag p) s = .next (settle s (takeFrame (kindCode k) tag p (frameTaken s))) := by
  rw [takeFrame_kindCode]
  exact exec_happening_running (f := fun s => takeRequest k tag p (ownRequest k tag p) (frameTaken s)) hr (exec_request k tag p s)

theorem exec_badKindFrame {kind tag : Byte} {p : List Byte} (hr : s.running = true) :
    exec (.badKindFrame kind tag p) s = .next (settle s (takeFrame kind tag p (frameTaken s))) :=
  exec_happening_running (f := fun s => takeFrame kind tag p (frameTaken s)) hr rfl

/-! ## The end of a frame -/

theorem frameEnds_match {kind tag hi lo : Byte} {p : List Byte}
    (h : word16 lo hi = crc16 (BitVec.ofNat 8 len :: kind :: tag :: p)) :
    frameEnds len (kind :: tag :: p) hi lo s = takeFrame kind tag p (frameTaken s) := if_pos h

theorem frameEnds_mismatch {body : List Byte} {hi lo : Byte} (h : word16 lo hi ≠ crc16 (BitVec.ofNat 8 len :: body)) :
    frameEnds len body hi lo s = discarded s := (if_neg h).trans (discardFrame_eq s)

end

/-- Settles O14: a matching frame is taken as its command takes it, and a mismatch is a discard. -/
theorem lastByteIsTheCommand : Obligations.LastByteIsTheCommand := by
  intro s len kind tag hi lo p hr hrx
  have hbyte : exec (.rxdByte lo false) s = .next (settle s (frameEnds len (kind :: tag :: p) hi lo s)) := by
    rw [exec_rxdByte hr, receiveByte_secondCrc hrx]
  refine ⟨fun hcrc => ?_, fun hcrc => by rw [hbyte, frameEnds_mismatch hcrc]⟩
  rw [hbyte, frameEnds_match hcrc]
  exact ⟨fun k hk => by rw [exec_commandOf hr, hk], fun _ => (exec_badKindFrame hr).symm⟩

end Sys2Proof.Machine
end

section
/-!
PROOFS. O15, O17 and O16, the taking of a request: the early checks and the refusal slot (R193, R194), the device-state check (R196), HELLO, which
every device state takes (R201), and the request table, which an accepted request enters (R195).
-/
-- The theorems of this file are elaborated one after another: in parallel their waiting threads exceed the memory limit of the check.
set_option Elab.async false

namespace Sys2Proof.Machine

section

variable {k : ReqKind} {tag : Byte} {p : List Byte} {own : State → State} {s : State}

/-! ## Early refusals -/

/-- A frame that does not pass the early checks is refused with the status of the first one that it fails (R193). -/
theorem earlyCheck_some (h : passesEarly k tag p s = false) : earlyCheck k tag p s.link = some (earlyStatus tag s) := by
  unfold earlyCheck earlyStatus windowSize
  split
  · rfl
  · next htag =>
    split
    · rfl
    · next hnew =>
      split
      · rfl
      · next hroom =>
        refine if_pos fun hlen => ?_
        have hpass : passesEarly k tag p s = true := by
          simp only [passesEarly, Bool.and_eq_true, bne_iff_ne, List.all_eq_true, decide_eq_true_eq]
          exact ⟨⟨⟨htag, by simpa using hnew⟩, Nat.lt_of_not_le hroom⟩, hlen⟩
        exact absurd (h.symm.trans hpass) Bool.false_ne_true

/-- An early refusal forms its reply in the refusal slot, or is counted as a discard where the slot is occupied (R194). -/
theorem earlyRefusal_frameTaken (kindByte tag : Byte) (st : Status) (s : State) : earlyRefusal kindByte tag st (frameTaken s) =
    if s.link.refusalBusy then discarded s else refusedEarly kindByte tag st s := by
  rw [← discardFrame_eq]
  rfl

theorem takeRequest_refusedEarly (h : passesEarly k tag p s = false) : takeRequest k tag p own (frameTaken s) =
    if s.link.refusalBusy then discarded s else refusedEarly (kindCode k + 0x80) tag (earlyStatus tag s) s := by
  have hcheck : earlyCheck k tag p (frameTaken s).link = some (earlyStatus tag s) := earlyCheck_some (s := s) h
  unfold takeRequest
  rw [hcheck]
  exact earlyRefusal_frameTaken ..

/-! ## The device-state check -/

/-- The kinds that every device state takes are none of those that WORN refuses (R196). -/
theorem not_takenAlways_of_refusedWorn (k : ReqKind) : refusedWorn k = true → takenAlways k = false := by
  cases k <;> decide

/-- A request that the table of R196 does not take is refused with the status of the device state. -/
theorem deviceCheck_some {d : DeviceState} (h : takenIn d k = false) : deviceCheck d k = some (stateRefusal d) := by
  unfold deviceCheck
  cases d with
  | ready => cases h
  | mounting | shuttingDown | halted => exact if_neg (Bool.eq_false_iff.mp h)
  | worn =>
    have hrefused : (!refusedWorn k) = false := h
    rw [Bool.not_eq_false'] at hrefused
    exact (if_neg (Bool.eq_false_iff.mp (not_takenAlways_of_refusedWorn k hrefused))).trans (if_pos hrefused)

theorem takeRequest_refusedByState (h1 : passesEarly k tag p s = true) (h2 : takenIn s.ctl.device k = false) :
    takeRequest k tag p own (frameTaken s) = answered k tag p (stateRefusal s.ctl.device) [] s := by
  have hearly : earlyCheck k tag p (frameTaken s).link = none := earlyCheck_none (s := s) h1
  have hdevice : deviceCheck (waiting k tag p s).ctl.device k = some (stateRefusal s.ctl.device) := deviceCheck_some h2
  unfold takeRequest
  rw [hearly]
  dsimp only
  rw [frameTaken_enterRequest, hdevice]
  exact refuse_waiting _ (passesEarly_fresh h1)

end

/-- Settles O15: the early refusals by the check that fails, and the refusals of the device state. -/
theorem refusedFramesAreAnswered : Obligations.RefusedFramesAreAnswered := by
  refine ⟨fun k tag p s hr hfail => ?_, fun kind tag p s hr hkind => ?_, fun k tag p s hr hpass hstate => ?_⟩
  · rw [exec_commandOf hr, takeFrame_kindCode, takeRequest_refusedEarly hfail]
  · rw [exec_badKindFrame hr, takeFrame_badKind hkind, earlyRefusal_frameTaken]
  · rw [exec_commandOf hr, takeFrame_kindCode, takeRequest_refusedByState hpass hstate]

/-! ## HELLO -/

/-- HELLO is taken in every device state (R196). -/
theorem takenIn_hello (d : DeviceState) : takenIn d .hello = true := by
  cases d <;> rfl

/-- The contents of HELLO, byte by byte (R201). -/
theorem helloContents_eq : helloContents = [0x4D, 0x40, 0x08, 1, 0x00, 0x04, 64, 8, 6, 32, 4] := by decide

/-- Settles O17: a HELLO that passes the early checks is accepted, and it is completed at once. -/
theorem helloReportsTheDevice : Obligations.HelloReportsTheDevice := by
  intro tag p s hr hpass
  have hacc : accepted .hello tag p s = true := by simp only [accepted, hr, hpass, takenIn_hello, Bool.and_self]
  rw [← helloContents_eq]
  exact exec_answered hacc rfl

/-! ## The request table -/

/-- What the request table holds beside the stages: each request's tag, kind and payload (R195). -/
def State.entries (s : State) : List (Byte × ReqKind × List Byte) := s.link.requests.map (fun r => (r.tag, r.kind, r.payload))

section

variable {s t : State}

theorem entries_congr (h : t.link.requests = s.link.requests) : t.entries = s.entries := congrArg (List.map _) h

/-- The completion of a request moves its stage alone (R195). -/
theorem finishRequest_entries (k : ReqKind) (tag : Byte) (st : Status) (c : List Byte) (o : Option StagingId) (s : State) :
    (finishRequest k tag st c o s).entries = s.entries := by
  simp only [State.entries, finishRequest, List.map_map]
  refine List.map_congr_left fun r _ => ?_
  simp only [Function.comp]
  split <;> rfl

theorem waiting_entries (k : ReqKind) (tag : Byte) (p : List Byte) (s : State) : (waiting k tag p s).entries = s.entries ++ [(tag, k, p)] :=
  List.map_append

/-- The blocks' operations take no request and drop none. -/
theorem Moves.entries (h : Moves s t) : t.entries = s.entries := by
  induction h with
  | trans _ _ h1 h2 => exact h2.trans h1
  | quiet q => exact entries_congr q.requests
  | finished k tag st c o s => exact finishRequest_entries ..
  | rebound st r s => rw [relisten_eq]; rfl
  | _ => rfl

theorem timerRequest_entries (tag : Byte) (p : List Byte) (s : State) : (timerRequest tag p s).entries = s.entries := by
  have hreply : ∀ n (u : State), u.link.requests = s.link.requests → (timerReply tag n s u).entries = s.entries := fun n u h =>
    (finishRequest_entries ..).trans (entries_congr h)
  have hbad : (refuse .timer tag .badParam s).entries = s.entries := finishRequest_entries ..
  unfold timerRequest
  split
  · exact hbad
  · next n _ =>
    have hstop : (stopIfRunning n s).link.requests = s.link.requests := by
      unfold stopIfRunning
      split <;> rfl
    split
    · split
      · exact hbad
      · exact hreply n _ rfl
    · split
      · exact hreply n _ hstop
      · exact hbad

theorem ownRequest_shutdown_entries (tag : Byte) (p : List Byte) (s : State) : (ownRequest .shutdown tag p s).entries = s.entries := by
  have hruns : Moves (shuttingDown tag s) (discardAllHeld (endAllRuns .shutdown (shuttingDown tag s))) :=
    ((Moves.refl _).endAllRuns .shutdown).discardAllHeld
  rw [ownRequest_shutdown]
  generalize discardAllHeld (endAllRuns .shutdown (shuttingDown tag s)) = t at hruns ⊢
  exact hruns.entries

/-- What the owning block does with a request leaves the request table alone, but for the stages (R195, R196). -/
theorem ownRequest_entries (k : ReqKind) (tag : Byte) (p : List Byte) (s : State) : (ownRequest k tag p s).entries = s.entries := by
  have h := Moves.refl s
  cases k with
  | timer => exact timerRequest_entries tag p s
  | shutdown => exact ownRequest_shutdown_entries tag p s
  | hello => exact (h.helloRequest tag).entries
  | status => exact (h.statusRequest tag).entries
  | reset => exact (h.resetRequest tag).entries
  | checkpoint => exact (h.checkpointRequest tag).entries
  | setNoticeMask => exact (h.maskRequest tag p).entries
  | ackNotice => exact (h.ackRequest tag p).entries
  | defineStream => exact (h.defineRequest tag p).entries
  | arm => exact (h.armRequest tag p).entries
  | fire => exact (h.fireRequest tag p).entries
  | stop => exact (h.stopRequest tag p).entries
  | flush => exact (h.flushRequest tag p).entries
  | unbind => exact (h.unbindRequest tag p).entries
  | streamInfo => exact (h.infoRequest tag p).entries
  | read => exact (h.readRequest tag p).entries
  | release => exact (h.releaseRequest tag p).entries
  | delete => exact (h.deleteRequest tag p).entries
  | unitInfo => exact (h.unitInfoRequest tag p).entries
  | mapSummary => exact (h.summaryRequest tag).entries

/-- The end of a happening leaves the request table alone, but for the stages, whether or not it enters WORN (R135, R195, R199). -/
theorem settle_entries (a s : State) : (settle a s).entries = s.entries :=
  (settled_after_worn a s).requests.trans (Moves.refl s).settleWorn.entries

end

/-- Settles O16: the request enters the table, and neither its owning block nor the end of the happening moves more than stages. -/
theorem acceptedRequestIsOutstanding : Obligations.AcceptedRequestIsOutstanding := by
  intro k tag p s hacc
  refine ⟨_, exec_accepted hacc, ?_⟩
  calc (settle s (ownRequest k tag p (waiting k tag p s))).entries
    _ = (ownRequest k tag p (waiting k tag p s)).entries := settle_entries ..
    _ = (waiting k tag p s).entries := ownRequest_entries ..
    _ = s.entries ++ [(tag, k, p)] := waiting_entries ..

end Sys2Proof.Machine
end

section
/-!
PROOFS. O9, the transmitter after the hold and after a NOTICE frame: it is IDLE and chooses its next frame in the same happening (R199, R203).
-/
-- The theorems of this file are elaborated one after another: in parallel their waiting threads exceed the memory limit of the check.
set_option Elab.async false

namespace Sys2Proof.Machine

section

variable {s u : State}

/-- A happening that ends in the choice of an IDLE transmitter leaves that choice, and what else it has brought about. -/
theorem settled_choice (htx : u.link.tx = .idle) (hd : s.ctl.device = u.ctl.device) :
    Settled u (settle s (chooseFrame u)) ∧ choosesFrame u (settle s (chooseFrame u)) := by
  have hw : ¬(s.ctl.device = .ready ∧ (chooseFrame u).ctl.device = .worn) :=
    avoids_worn_entry (.inr (by rw [chooseFrame_ctl]; exact hd))
  obtain ⟨hlink, hnotices⟩ := settle_of_nothingToSend hw (nothingToSend_chooseFrame u)
  exact ⟨(settled_chooseFrame u).trans (settle_settled hw), choosesFrame_congr hlink hnotices (choosesFrame_chooseFrame htx)⟩

/-- The hold of TXD ends 5 ms after the reset (R203). -/
theorem holdDue_iff : holdDue s = true ↔ s.link.holding = true ∧ 5000 ≤ s.time.toNat := by
  unfold holdDue txHoldUs
  rw [Bool.and_eq_true, decide_eq_true_eq]

theorem exec_txHoldEnd (hr : s.running = true) (hd : holdDue s = true) : exec .txHoldEnd s = .next (settle s (endHold s)) := by
  have h : exec .txHoldEnd s = .next (settle s (if holdDue s then endHold s else s)) :=
    exec_happening_running (f := fun s => if holdDue s then endHold s else s) hr rfl
  rwa [if_pos hd] at h

theorem exec_noticeFrameSent {frame : List Byte} (hr : s.running = true) (htx : s.link.tx = .sendingNotice frame) :
    exec .noticeFrameSent s = .next (settle s (chooseFrame (s.setLink { s.link with tx := .idle }))) := by
  have h : noticeDeparts s = chooseFrame (s.setLink { s.link with tx := .idle }) := by
    unfold noticeDeparts
    rw [htx]
  rw [← h]
  exact exec_happening_running hr rfl

end

/-- Settles O9: the end of the hold and the end of a NOTICE frame, each with the choice that follows. -/
theorem theTransmitterGoesOn : Obligations.TheTransmitterGoesOn := by
  refine ⟨fun s hr hhold htx hlate => ?_, fun s frame hr htx _ => ?_⟩
  · obtain ⟨hsettled, hchoice⟩ := settled_choice (s := s) (u := s.setLink { s.link with holding := false }) htx rfl
    exact ⟨_, exec_txHoldEnd hr (holdDue_iff.mpr ⟨hhold, hlate⟩), hsettled.core, hsettled.replies, hchoice⟩
  · obtain ⟨hsettled, hchoice⟩ := settled_choice (s := s) (u := s.setLink { s.link with tx := .idle }) rfl rfl
    exact ⟨_, exec_noticeFrameSent hr htx, hsettled.core, hsettled.replies, hchoice⟩

end Sys2Proof.Machine
end

section
/-!
PROOFS. The notice unit and STATUS: O23, a raise (R205), O21 and O22, the requests on the notice unit (R207, R209), O11, the bytes of a NOTICE
frame (R206, R212, R214), and O18, the bytes of the STATUS reply (R210, R214).
-/
-- The theorems of this file are elaborated one after another: in parallel their waiting threads exceed the memory limit of the check.
set_option Elab.async false

namespace Sys2Proof.Machine

/-! ## Raises -/

/-- The three cases of a raise: the mask bit clear, room in the backlog, and a full backlog (R205). -/
theorem NoticeUnit.raise_cases (n : NoticeUnit) (k : NoticeKind) (arg : Word) (t : Time) :
    (n.mask.getLsbD (noticeBit k) = false ∧ n.raise k arg t = { n with pendingSet := n.pendingSet ||| noticeMask k }) ∨
    (n.mask.getLsbD (noticeBit k) = true ∧ n.backlog.length < 16 ∧
      n.raise k arg t = { n with pendingSet := n.pendingSet ||| noticeMask k, backlog := n.backlog ++ [⟨k, arg, t⟩] }) ∨
    (n.mask.getLsbD (noticeBit k) = true ∧ 16 ≤ n.backlog.length ∧
      n.raise k arg t = { n with pendingSet := n.pendingSet ||| noticeMask k, overflow := true }) := by
  unfold NoticeUnit.raise backlogSize
  cases hmask : n.mask.getLsbD (noticeBit k) with
  | false => exact .inl ⟨rfl, if_neg (by rw [hmask]; exact Bool.false_ne_true)⟩
  | true =>
    rcases Nat.lt_or_ge n.backlog.length 16 with hroom | hfull
    · exact .inr (.inl ⟨rfl, hroom, (if_pos hmask).trans (if_pos hroom)⟩)
    · exact .inr (.inr ⟨rfl, hfull, (if_pos hmask).trans (if_neg (Nat.not_lt.mpr hfull))⟩)

/-- Settles O23, in each of the three cases of a raise. -/
theorem raiseEntersTheBacklog : Obligations.RaiseEntersTheBacklog := by
  intro k arg s n
  refine congrArg (fun u => ({ s with notices := u } : State)) ?_
  rcases n.raise_cases k (BitVec.ofNat 16 arg) s.time with ⟨hmask, h⟩ | ⟨hmask, hroom, h⟩ | ⟨hmask, hfull, h⟩
  · rw [h, if_neg (by simp [hmask]), if_neg (by simp [hmask])]
    rfl
  · rw [h, if_pos ⟨hmask, hroom⟩, if_neg fun hover => Nat.not_le.mpr hroom hover.2]
    rfl
  · rw [h, if_neg fun hjoin => Nat.not_lt.mpr hfull hjoin.2, if_pos ⟨hmask, hfull⟩]
    rfl

/-! ## SET NOTICE MASK -/

/-- An accepted request whose owning block brings about `u` beside the request's own entry and completes it. -/
theorem exec_completed {k : ReqKind} {tag : Byte} {p : List Byte} {s u : State} {st : Status} {contents : List Byte}
    (h : accepted k tag p s = true) (hu : u.link.requests = s.link.requests)
    (ho : ownRequest k tag p (waiting k tag p s) = finishRequest k tag st contents none (waiting k tag p u)) :
    exec (commandOf k tag p) s = .next (settle s (answered k tag p st contents u)) := by
  rw [exec_accepted h, ho, finishRequest_waiting _ _ (by rw [hu]; exact accepted_fresh h)]

/-- Settles O21: the mask is no part of what the taking of the request moves. -/
theorem noticeMaskIsReplaced : Obligations.NoticeMaskIsReplaced := fun _ p s hacc =>
  exec_completed (u := { s with notices := { s.notices with mask := field16 p 2 } }) hacc rfl rfl

/-! ## ACK NOTICE -/

/-- What an acknowledge set leaves (R209). -/
def acknowledged (set : Word) (s : State) : State :=
  { s with
    notices := { s.notices with pendingSet := s.notices.pendingSet &&& ~~~set }
    lanes := if set.getLsbD 10 then s.lanes.map (fun l => { l with faultReported := false }) else s.lanes
    link := if set.getLsbD 15 then { s.link with faultReported := false } else s.link }

theorem acknowledge_eq (set : Word) (s : State) : acknowledge set s = acknowledged set s := by
  unfold acknowledge acknowledged acks noticeBit
  cases set.getLsbD 10 <;> cases set.getLsbD 15 <;> rfl

/-- The reported flag of the link is outside what the taking of a request moves. -/
theorem acknowledged_waiting (set : Word) (k : ReqKind) (tag : Byte) (p : List Byte) (s : State) :
    acknowledged set (waiting k tag p s) = waiting k tag p (acknowledged set s) := by
  unfold acknowledged waiting
  cases set.getLsbD 15 <;> rfl

theorem acknowledged_requests (set : Word) (s : State) : (acknowledged set s).link.requests = s.link.requests := by
  unfold acknowledged
  cases set.getLsbD 15 <;> rfl

theorem ownRequest_ackNotice (tag : Byte) (p : List Byte) (s : State) : ownRequest .ackNotice tag p s =
    finishRequest .ackNotice tag .ok (le16 (s.notices.pendingSet &&& ~~~field16 p 2)) none (acknowledged (field16 p 2) s) := by
  change finishRequest .ackNotice tag .ok (le16 (acknowledge (field16 p 2) s).notices.pendingSet) none (acknowledge (field16 p 2) s) = _
  rw [acknowledge_eq]
  rfl

/-- Settles O22: what the acknowledge set leaves, and the taking of the request beside it. -/
theorem noticesAreAcknowledged : Obligations.NoticesAreAcknowledged := by
  intro tag p s hacc set left
  refine exec_completed (u := acknowledged set s) hacc (acknowledged_requests set s) ?_
  rw [ownRequest_ackNotice, acknowledged_waiting]
  rfl

/-! ## Lists of fields of one width -/

section

variable {α : Type} {f : α → List Byte} {w : Nat}

theorem length_flatMap_fixed (hw : ∀ x, (f x).length = w) (l : List α) : (l.flatMap f).length = w * l.length := by
  simp only [List.length_flatMap, hw, List.map_const', List.sum_replicate, smul_eq_mul, Nat.mul_comm]

/-- In a run of fields that are `w` bytes long, field `i` stands at offset `w * i`, whatever follows the run. -/
theorem fieldAt_flatMap_fixed (hw : ∀ x, (f x).length = w) (rest : List Byte) {l : List α} {i : Nat} {x : α} (h : l[i]? = some x) :
    fieldAt (l.flatMap f ++ rest) (w * i) w = f x := by
  induction l generalizing i with
  | nil => cases h
  | cons y l ih =>
    rw [List.flatMap_cons, List.append_assoc]
    cases i with
    | zero =>
      obtain rfl : y = x := Option.some.inj h
      rw [Nat.mul_zero, fieldAt_append_left _ (by rw [hw, Nat.zero_add]), fieldAt, List.drop_zero, List.take_of_length_le (hw y).le]
    | succ i =>
      rw [fieldAt_append_right _ _ (by rw [hw, Nat.mul_succ]; exact Nat.le_add_left ..), hw, Nat.mul_succ, Nat.add_sub_cancel]
      exact ih h

end

/-! ## The NOTICE frame -/

/-- The 6 bytes of a NOTICE frame's BODY before its entries (R206, R214). -/
def noticeHead (n : NoticeUnit) : List Byte := [0xC0, 0x00] ++ le16 n.pendingSet ++ b8 n.overflow ++ n8 n.backlog.length

theorem noticeBody_eq (n : NoticeUnit) : noticeBody n = noticeHead n ++ n.backlog.flatMap noticeBytes := rfl

theorem noticeHead_length (n : NoticeUnit) : (noticeHead n).length = 6 := rfl

theorem noticeBytes_length (e : Notice) : (noticeBytes e).length = 7 := rfl

theorem fieldAt_noticeHead {n : NoticeUnit} {off k : Nat} (h : off + k ≤ 6) : fieldAt (noticeBody n) off k = fieldAt (noticeHead n) off k :=
  fieldAt_append_left _ h

/-- The entries stand behind the head, oldest first, 7 bytes each (R206, R214). -/
theorem fieldAt_noticeBody_entry {n : NoticeUnit} {i : Nat} {e : Notice} (h : n.backlog[i]? = some e) :
    fieldAt (noticeBody n) (6 + 7 * i) 7 = noticeBytes e := by
  rw [noticeBody_eq, fieldAt_append_right _ _ (by rw [noticeHead_length]; exact Nat.le_add_right ..), noticeHead_length,
    Nat.add_sub_cancel_left, ← List.append_nil (n.backlog.flatMap noticeBytes)]
  exact fieldAt_flatMap_fixed noticeBytes_length [] h

/-- A word is made of its lower and its upper byte. -/
theorem word16_halves (v : Word) : word16 (v.extractLsb' 0 8) (v.extractLsb' 8 8) = v := by
  unfold word16
  rw [BitVec.extractLsb'_append_extractLsb'_eq_extractLsb' (by rfl)]
  exact BitVec.extractLsb'_eq_self

/-- Settles O11: the head by its own bytes, the entries one by one, and the two halves of the CRC-16. -/
theorem noticeFrameBytes : Obligations.NoticeFrameBytes := by
  intro n _ body
  refine ⟨?_, fieldAt_noticeHead (by decide), fieldAt_noticeHead (by decide), fieldAt_noticeHead (by decide),
    fieldAt_noticeHead (by decide), fun i e he => fieldAt_noticeBody_entry he, _, _, rfl, word16_halves _⟩
  exact List.length_append.trans (congrArg (6 + ·) (length_flatMap_fixed noticeBytes_length n.backlog))

/-! ## STATUS -/

/-- The 27 bytes of the STATUS reply before the fields of the lanes (R210, R214). -/
def statusHead (tag : Byte) (s : State) : List Byte :=
  [0x82, tag, 0x00] ++ [deviceCode s.ctl.device] ++ [controllerFlags s.ctl.ckptPending s.ctl.ckpt.isSome s.link.resetPending]
    ++ n16 s.map.freeList.length ++ n16 s.map.dirtyList.length ++ n16 s.map.retiredCount ++ n8 (queueLength s) ++ n8 s.bufs.pool.length
    ++ le16 s.notices.pendingSet ++ le16 s.notices.mask ++ b8 s.notices.overflow ++ n8 s.notices.backlog.length ++ n32 s.ctl.seqNo
    ++ n16 s.map.erasesSince ++ n16 s.link.discards

theorem statusBody_eq (tag : Byte) (s : State) : (replyOf .status tag .ok (statusContents s)).body =
    statusHead tag s ++ (allLanes.flatMap (fun l => laneBytes (s.lane l)) ++ le32 s.time) := by
  unfold replyOf statusContents statusHead
  simp only [List.append_assoc]
  rfl

/-- The fields of the reply before the lanes (R210, R214). -/
theorem statusHead_fields (tag : Byte) (s : State) :
    fieldAt (statusHead tag s) 0 3 = [0x82, tag, 0x00] ∧ fieldAt (statusHead tag s) 3 1 = [deviceCode s.ctl.device] ∧
    fieldAt (statusHead tag s) 4 1 = [controllerFlags s.ctl.ckptPending s.ctl.ckpt.isSome s.link.resetPending] ∧
    fieldAt (statusHead tag s) 5 2 = n16 s.map.freeList.length ∧ fieldAt (statusHead tag s) 7 2 = n16 s.map.dirtyList.length ∧
    fieldAt (statusHead tag s) 9 2 = n16 s.map.retiredCount ∧ fieldAt (statusHead tag s) 11 1 = n8 (queueLength s) ∧
    fieldAt (statusHead tag s) 12 1 = n8 s.bufs.pool.length ∧ fieldAt (statusHead tag s) 13 2 = le16 s.notices.pendingSet ∧
    fieldAt (statusHead tag s) 15 2 = le16 s.notices.mask ∧ fieldAt (statusHead tag s) 17 1 = b8 s.notices.overflow ∧
    fieldAt (statusHead tag s) 18 1 = n8 s.notices.backlog.length ∧ fieldAt (statusHead tag s) 19 4 = n32 s.ctl.seqNo ∧
    fieldAt (statusHead tag s) 23 2 = n16 s.map.erasesSince ∧ fieldAt (statusHead tag s) 25 2 = n16 s.link.discards := by
  simp only [fieldAt, statusHead, b8, n8, n16, n32, le16, le32, List.cons_append, List.nil_append, List.drop_succ_cons, List.drop_zero,
    List.take_succ_cons, List.take_zero, and_self]

theorem statusHead_length (tag : Byte) (s : State) : (statusHead tag s).length = 27 := by
  simp only [statusHead, b8, n8, n16, n32, le16, le32, List.length_append, List.length_cons, List.length_nil]

theorem laneBytes_length (l : Lane) : (laneBytes l).length = 7 := rfl

theorem laneFields_length (s : State) : (allLanes.flatMap fun l => laneBytes (s.lane l)).length = 42 :=
  length_flatMap_fixed (fun l => laneBytes_length (s.lane l)) allLanes

theorem allLanes_get (l : LaneId) : allLanes[l.val]? = some l := by
  revert l
  decide

section

variable {tag : Byte} {s : State}

theorem statusBody_length : (replyOf .status tag .ok (statusContents s)).body.length = 73 := by
  rw [statusBody_eq, List.length_append, List.length_append, statusHead_length, laneFields_length]
  rfl

theorem fieldAt_status_of_head {off n : Nat} {field : List Byte} (hf : fieldAt (statusHead tag s) off n = field)
    (h : off + n ≤ 27 := by decide) : fieldAt (replyOf .status tag .ok (statusContents s)).body off n = field := by
  rw [statusBody_eq]
  exact (fieldAt_append_left _ (by rw [statusHead_length]; exact h)).trans hf

theorem fieldAt_behind_statusHead (off n : Nat) : fieldAt (replyOf .status tag .ok (statusContents s)).body (27 + off) n =
    fieldAt (allLanes.flatMap (fun l => laneBytes (s.lane l)) ++ le32 s.time) off n := by
  rw [statusBody_eq, fieldAt_append_right _ _ (by rw [statusHead_length]; exact Nat.le_add_right ..), statusHead_length,
    Nat.add_sub_cancel_left]

/-- The lanes stand in their order, 7 bytes each (R210, R214). -/
theorem fieldAt_statusLane (l : LaneId) :
    fieldAt (replyOf .status tag .ok (statusContents s)).body (27 + 7 * l.val) 7 = laneBytes (s.lane l) := by
  rw [fieldAt_behind_statusHead]
  exact fieldAt_flatMap_fixed (fun l => laneBytes_length (s.lane l)) _ (allLanes_get l)

theorem fieldAt_statusTime : fieldAt (replyOf .status tag .ok (statusContents s)).body 69 4 = le32 s.time := by
  rw [fieldAt_behind_statusHead 42, fieldAt_append_right _ _ (laneFields_length s).le, laneFields_length]
  rfl

/-- STATUS is taken in every device state (R196). -/
theorem accepted_status {p : List Byte} (hr : s.running = true) (h : passesEarly .status tag p s = true) :
    accepted .status tag p s = true := by
  have htaken : takenIn s.ctl.device .status = true := by
    cases s.ctl.device <;> rfl
  simp only [accepted, hr, h, htaken, Bool.and_self]

end

/-- Settles O18: the contents do not depend on the request's own entry; the head by its own bytes, then the lanes and device time. -/
theorem statusReportsEveryBlock : Obligations.StatusReportsEveryBlock := by
  intro tag p s hr hpass
  refine ⟨statusContents s, exec_answered (accepted_status hr hpass) rfl, ?_⟩
  obtain ⟨h0, h3, h4, h5, h7, h9, h11, h12, h13, h15, h17, h18, h19, h23, h25⟩ := statusHead_fields tag s
  have head {off n : Nat} {field : List Byte} (hf : fieldAt (statusHead tag s) off n = field) (h : off + n ≤ 27 := by decide) :=
    fieldAt_status_of_head hf h
  exact ⟨statusBody_length, head h0, head h3, head h4, head h5, head h7, head h9, head h11, head h12, head h13, head h15, head h17, head h18,
    head h19, head h23, head h25, fieldAt_statusLane, fieldAt_statusTime⟩

end Sys2Proof.Machine
end

section
/-!
PROOFS. O1, the step of the block: what it does with a command at the front of the queue and with none (assumption 15).
-/
namespace Sys2Proof.Machine

section

variable {s : State}

/-- With a command at the front of the queue, the step is that command on the rest of the queue. -/
theorem step_of_front {c : Instr} {rest : List Instr} (h : s.pending = c :: rest) : step s = exec c { s with pending := rest } := by
  unfold step
  rw [h]

/-- With nothing in the queue the block idles (assumption 15). -/
theorem step_of_empty (h : s.pending = []) : step s = .next s := by
  unfold step
  rw [h]

end

/-- Settles O1: the queue holds a front command or is empty, and the step has one equation for each. -/
theorem stepRunsTheFrontCommand : Obligations.StepRunsTheFrontCommand :=
  ⟨fun _ _ _ h => step_of_front h, fun _ h => step_of_empty h⟩

end Sys2Proof.Machine
end
